-- ==== Sys2Proof/Word.lean ====
section
/-! DEFINITION. The word types of the E960 and the closed lists of names its syllables and tables use.
Bit helpers stand in Machine/Bits.lean, number formats in Machine/Formats.lean. -/

namespace Sys2Proof

/-- One byte of memory (R3). -/
abbrev Byte := BitVec 8
/-- A 64-bit syllable, scalar register or special register (R7, R22). -/
abbrev Word := BitVec 64
/-- A tile row of 256 bytes (R96). -/
abbrev Row := BitVec 2048
/-- A vector predicate, one bit for each byte of a row (R100). -/
abbrev VMask := BitVec 256
/-- A handle register (R194). -/
abbrev Handle := BitVec 256
/-- A layout record (R190). -/
abbrev Record := BitVec 768

/-- Numbers of scalar registers, predicates, handles, tiles and rows as the fields of R39 to R45 hold them. -/
abbrev SReg := BitVec 6
abbrev PReg := BitVec 4
abbrev HReg := BitVec 5
abbrev Tile := BitVec 5
/-- A four-bit element format code (R108). -/
abbrev Fmt := BitVec 4

/-- The nine slots in slot order (R22). -/
inductive Slot where
  | s | v0 | v1 | m | c0 | c1 | o | l | k
  deriving DecidableEq, Repr

/-- The two vector slots (R40). -/
inductive VSlot where
  | v0 | v1
  deriving DecidableEq, Repr

/-- The two copy slots (R42). -/
inductive CSlot where
  | c0 | c1
  deriving DecidableEq, Repr

/-- The guard of an operation: P[gp], inverted when gn holds (R25). -/
structure Guard where
  gn : Bool
  gp : PReg
  deriving DecidableEq, Repr

/-- The header syllable's fields (R23); TAG and the zero field are not kept. -/
structure Header where
  present : BitVec 9
  quiet   : BitVec 9
  rep     : BitVec 8
  y       : Bool
  b       : Bool
  budget  : BitVec 16
  deriving DecidableEq, Repr

/-- Conditions of CMP and CMPI, and of VICMP (R39, R40). -/
inductive Cond where
  | eq | ne | lt | ltu | le | leu
  deriving DecidableEq, Repr

/-- Conditions of VCMP (R40). -/
inductive FCond where
  | eq | ne | lt | le | gt | ge | un
  deriving DecidableEq, Repr

/-- Operations of PLOG and VPLOG (R39, R40). -/
inductive LogOp where
  | and | or | xor | andn
  deriving DecidableEq, Repr

/-- Size codes of the scalar loads and stores (R39, R68). -/
inductive MSize where
  | b | bu | h | hu | w | wu | d
  deriving DecidableEq, Repr

/-- Operations of AMO (R39, R232). -/
inductive AmoOp where
  | add | min | max | and | or | xor | swp
  deriving DecidableEq, Repr

/-- Forms of TLBI (R346). -/
inductive TlbiForm where
  | addr | as | all
  deriving DecidableEq, Repr

/-- Operations of VRED (R40, R138). -/
inductive RedOp where
  | sum | max | min | asum
  deriving DecidableEq, Repr

/-- Variants of MSTEP (R41, R102). -/
inductive MVar where
  | bf16 | fp16 | fp8a | fp8b | fp4 | int8 | tern
  deriving DecidableEq, Repr

/-- Functions of CPYR (R42, R221). -/
inductive CpyrOp where
  | f32 | i32 | i64 | max
  deriving DecidableEq, Repr

/-- Cluster SRAM bank modes (R176). -/
inductive BankMode where
  | cache | scratchpad | fifo | reserve
  deriving DecidableEq, Repr

/-- Veil apertures (R43, R247). -/
inductive Aperture where
  | a256 | a64 | a16
  deriving DecidableEq, Repr

/-- Veil recovery modes (R43, R254). -/
inductive Recovery where
  | quad2 | quad4 | inten
  deriving DecidableEq, Repr

/-- Registers read by OSTAT (R43, R255). -/
inductive OReg where
  | calSerial | calAge | calLimit | temp | gainmapBase | phasemapBase | refpower
  deriving DecidableEq, Repr

/-- Scopes (R45, R199). -/
inductive Scope where
  | core | cluster | chiplet | module | system
  deriving DecidableEq, Repr

/-- How an L operation that left for another device ended there: done, refused for its byte count, or an LCADD whose sum
overflowed (R274, R275, R279). -/
inductive LinkReply where
  | done | refused | overflow
  deriving DecidableEq, Repr

/-- An L operation that ends, with how it ended at its peer. -/
structure LinkEnd where
  op    : Nat
  reply : LinkReply
  deriving DecidableEq, Repr

/-- Which message of a port and a source one is: the `k`-th under its tag (R274). -/
structure MsgTag where
  dtag : Nat
  k    : Nat
  deriving DecidableEq, Repr

/-- A posted write's place in the host's order: the `n`-th, with or without the relaxed-ordering attribute (R212). -/
structure PostOrder where
  n       : Nat
  relaxed : Bool
  deriving DecidableEq, Repr

/-- A word that a posted write of the host carries. -/
structure PostedWord where
  word  : Word
  order : PostOrder
  deriving DecidableEq, Repr

/-- The rows of a bank of HBM4E that one refresh interrupt refreshes (R187). -/
structure BankRows where
  bank : Nat
  rows : List Nat
  deriving DecidableEq, Repr

/-- An address given for a partition: of its event ring, or the base of the CXL.mem window (R301, R364, R373). -/
structure RingPlace where
  part : Nat
  addr : Nat
  deriving DecidableEq, Repr

/-- Scopes of BARG (R45, R90). -/
inductive BScope where
  | cl | ch | mod | launch
  deriving DecidableEq, Repr

/-- The register operations KALU repeats (R45, R348). -/
inductive KRegOp where
  | add | sub | and | or | xor | shl | shr | sra
  deriving DecidableEq, Repr

/-- The immediate operations KALU repeats that take a 33-bit immediate (R45, R348). -/
inductive KImmOp where
  | addi | andi | ori | xori
  deriving DecidableEq, Repr

/-- The immediate shifts KALU repeats (R45, R348). -/
inductive KShiftOp where
  | shli | shri | srai
  deriving DecidableEq, Repr

/-- The second operand of KALU with its operation (R45). -/
inductive KaluSrc where
  | reg (op : KRegOp) (b : SReg)
  | imm (op : KImmOp) (i : BitVec 33)
  | shift (op : KShiftOp) (n : BitVec 6)
  deriving DecidableEq, Repr

/-- A tile row operand (R40). -/
structure RowRef where
  t : Tile
  r : BitVec 6
  deriving DecidableEq, Repr

/-- The two forms of CHK (R45, R347). -/
inductive ChkForm where
  | s (a b : SReg)
  | v (a b : RowRef)
  deriving DecidableEq, Repr

/-- What every V-format syllable holds beside its rows: lane predicate, its negate bit, type, signed row step (R40). -/
structure VCom where
  q    : PReg
  qn   : Bool
  ty   : Fmt
  step : BitVec 6
  deriving DecidableEq, Repr

/-- The memory form of VLD, VST and VLDS less its type and reuse fields (R40). -/
structure VMemF where
  q    : PReg
  qn   : Bool
  d    : RowRef
  base : SReg
  off  : BitVec 16
  step : BitVec 6
  deriving DecidableEq, Repr

/-- The promise and counter fields of an engine operation (R42, R266). -/
structure PrmCnt where
  prm : SReg
  cnt : SReg
  deriving DecidableEq, Repr

/-- The handle step of a copy syllable (R42, R214). -/
structure StepF where
  step : BitVec 16
  sdim : BitVec 2
  tgt  : Bool
  deriving DecidableEq, Repr

/-- An admitted packet: its queue and its admission number, which no other packet has (R290, R294). -/
structure PktRef where
  q : Nat
  n : Nat
  deriving DecidableEq, Repr

/-- A field of an image that is filled when it is loaded (R57): `.dword` and the like; a `.tensor` base; `.word`; a launch's entry;
LDI, LDIH, and an SI immediate or SM offset. -/
inductive RelocKind where
  | dword
  | tensorBase
  | word
  | entry
  | ldi
  | ldih
  | imm33
  deriving DecidableEq, Repr

/-- A relocation (R57): the address of its 8-byte syllable or its data, its kind, and the value. -/
structure Reloc where
  va    : Nat
  kind  : RelocKind
  value : Int
  deriving DecidableEq, Repr

/-- What Fleus resolves when it starts a launch: the page-table words it writes (R174) and the relocations of the image (R57). -/
structure LaunchMap where
  tables : List (Nat × Word)
  relocs : List Reloc
  deriving DecidableEq, Repr

/-- What the module does not survive (R353): the loss of a chiplet, of the interposer, or of the base die of a stack. -/
inductive ModuleLoss where
  | chiplet (c : Nat)
  | interposer
  | baseDie (k : Nat)
  deriving DecidableEq, Repr

/-- The features of a host link that this device does not support (R363). -/
inductive LinkFeature where
  | hdmH
  | hdmD
  | pooling
  | fabric
  deriving DecidableEq, Repr

/-- What a bring-up meets (R300, R363, R370, R371): whether each of the two signatures over the boot configuration verifies, which
of the six steps fails, counted from 0, with its cause, if one does, whether the host link trains in 68-byte flit mode, the Cuffs
whose ROM parity fails, and the features that the host requests in vain. -/
structure BringUp where
  rsa    : Bool
  slh    : Bool
  fails  : Option (Fin 6 × Nat)
  flit68 : Bool
  roms   : List Nat
  asks   : List LinkFeature
  deriving DecidableEq, Repr

/-- What a soft error hits (R340): a register or tile row of a core, which nothing protects; a protected word of memory, left
correctable or uncorrectable; or, left uncorrectable, the parity chunk of a stripe, a word of instruction memory, a FIFO
entry, a word of an L1's way or of a cluster cache's line, or a line of a constant cache. -/
inductive ErrorSite where
  | scalar (core reg bit : Nat)
  | tileRow (core row bit : Nat)
  | correctable (addr : Nat)
  | uncorrectable (addr : Nat)
  | instrMem (core off : Nat)
  | fifoEntry (bank i : Nat)
  | parity (stripe : Nat)
  | l1Line (core way word : Nat)
  | clusterLine (cluster i word : Nat)
  | constLine (core i : Nat)
  deriving DecidableEq, Repr

end Sys2Proof
end

