-- ==== Sys2Proof/Config.lean ====
section
/-! DEFINITION. What the manual leaves open: FREE VALUES. Each is an opaque constant without a body, so no proof and no
evaluation can see a value of it. Most are applied to the counter State.fresh, which every use advances; the log entry
of each names the rule that leaves the value open. -/

namespace Sys2Proof.Config

/-- Cycles beyond the L1 hit latency that a pending-marked result takes (R34, R36, R167); log 10. -/
opaque extraLatency : Nat → Nat
/-- Cycles beyond the first that DIV and REM take; the model reduces them modulo 20 (R60: at most 20); log 10. -/
opaque divLatency : Nat → Nat
/-- The real part of the analogue error ε of one Veil output element, as a numerator over 2^276 (R254); log 11. -/
opaque veilErrorRe : Nat → Int
/-- The imaginary part of the analogue error ε, as a numerator over 2^276 (R254); log 11. -/
opaque veilErrorIm : Nat → Int
/-- A byte of a bank that enters scratchpad mode (R177); log 12. -/
opaque bankByte : Nat → Byte
/-- A taint bit of a bank that enters scratchpad mode (R177); log 12. -/
opaque bankTaint : Nat → Bool
/-- A byte of the range of a cancelled receive (R277); log 13. -/
opaque cancelledByte : Nat → Byte
/-- The way an LDC miss replaces in a full set; the model reduces it modulo 4 (R185); log 14. -/
opaque constVictim : Nat → Nat
/-- The measured local-oscillator power in µW, engine by engine (R255); log 15. -/
opaque refPower : Nat → Word
/-- What byte `i` of the engine state in a context image adds to the model's own form of it, which only CTXS writes and
CTXL reads (R351); log 16. -/
opaque engineImage : Nat → Byte
/-- The check word over the engine state's bytes in a context image (R351); log 16. -/
opaque checkWord : List Byte → Word
/-- The code of the cause BOOT_SIG (R371); log 58. -/
opaque bootSig : Nat → Nat
/-- A byte of the gain and phase maps that an OCAL rewrites (R255); log 15. -/
opaque mapByte : Nat → Byte
/-- How many cycles before issue a staleness check looks back, reduced modulo 17 (R256); log 17. -/
opaque staleLookback : Nat → Nat
/-- The two signatures of an attestation report (R372); log 18. -/
opaque attestBytes : List Byte → List Byte
/-- The F-mode completion time of an engine operation after its start, beyond its minimum (R243, R280); log 10. -/
opaque engineExtra : Nat → Nat
/-- The cycles a TLBI, a TRARM or a CBANK takes, reduced to the bound its rule gives (R227, R283, R346); log 10. -/
opaque holdCycles : Nat → Nat
/-- The addresses Fleus gives the gain map, phase map and orphan lists (R255, R311); log 15. -/
opaque fleusAddress : Nat → Nat
/-- Whether some mapping of a launch covers an address that its page tables do not translate (R216, R326); log 32. -/
opaque mapped : Nat → Nat → Bool
/-- Whether a 64 KiB page of physical memory lies outside the mappings of a partition (R292, R293); log 33. -/
opaque outside : Nat → Nat → Bool
/-- How many cycles after its issue a word that a status read returns is taken, reduced to its latency (R236, R271, R278, R284,
R349); log 24. -/
opaque readCycle : Nat → Nat
/-- The refresh class that the tests at a reset give a row of HBM4E, by the count of resets and the row (R186); log 19. -/
opaque rowClass : Nat → Nat → Nat
/-- What a byte of a peer's memory holds that this device has not written, by the cycle and the address (R171); log 51. -/
opaque peerByte : Nat → Nat → Byte
/-- What another agent has written to a byte of a peer's memory since this device wrote it last, if one has, by the cycle and
the address (R171, R200); log 51. -/
opaque peerNews : Nat → Nat → Option Byte
/-- What a line address hashes to among the banks of a cluster that are in cache mode (R176); log 52. -/
opaque bankHash : Nat → Nat
/-- The clean line that a full bank of a cluster's cache gives up (R176); log 52. -/
opaque ccVictim : Nat → Nat
/-- The status code of RELOC_RANGE, which R293 does not list, reduced to one that it does not list (R57); log 57. -/
opaque relocStatus : Nat → Nat
/-- What the next bring-up meets: whether each of the two signatures verifies, the step that fails with its cause, and 68-byte
flit mode, by the draw (R363, R370, R371); log 58. -/
opaque bringUp : Nat → Bool × Bool × Option (Fin 6 × Nat) × Bool
/-- The Cuffs whose ROM parity fails in the next bring-up, and the unsupported features that the host requests in it, as the bits of
two numbers, by the draw (R363, R370); log 58. -/
opaque bringUpBits : Nat → Nat × Nat
/-- What a block demands in watts at a sample that the environment says nothing of, or a temperature then, by the draw (R374);
log 46. -/
opaque powerDraw : Nat → BitVec 16
/-- The power of a throttled block, reduced to what its demand and the cap allow (R374, R375); log 46. -/
opaque blockPower : Nat → Nat
/-- A byte of the device identity (R372, R373); log 18. -/
opaque identityByte : Nat → Byte
/-- A byte of the ROM's hash (R372); log 18. -/
opaque romHashByte : Nat → Byte
/-- A byte of the hash of a boot configuration (R372); log 18. -/
opaque bootHashByte : List Nat → Nat → Byte
/-- A byte of an attestation report beyond the fields that R372 names; log 18. -/
opaque reportByte : Nat → Byte
/-- The result a rule leaves unstated on some operands, by rule number and operands; log 19. -/
opaque unstated : Nat → Nat → Nat

end Sys2Proof.Config
end

