-- ==== Sys2Proof/Machine/Bits.lean ====
section
/-! DEFINITION. Bit fields, sign extension and byte order over Nat and BitVec, written once (R3, R5). -/

namespace Sys2Proof.Machine

/-- Bits `lo + len - 1` down to `lo` of `w`, as a number (R5: bits). -/
def field (w lo len : Nat) : Nat := w / 2 ^ lo % 2 ^ len

/-- Whether bit `i` of `w` is set. -/
def bitAt (w i : Nat) : Bool := w / 2 ^ i % 2 == 1

/-- The two's complement value of the low `len` bits of `x` (R5: sext, s). -/
def signed (len x : Nat) : Int :=
  if x % 2 ^ len < 2 ^ (len - 1) then (x % 2 ^ len : Nat) else (x % 2 ^ len : Nat) - (2 ^ len : Nat)

/-- The lowest set bit among bits `lo` to `lo + len - 1` of `w`. -/
def lowestSet (w lo : Nat) : Nat → Option Nat
  | 0 => none
  | n + 1 => if bitAt w lo then some lo else lowestSet w (lo + 1) n

/-- `v` reduced to `len` bits from an exact integer (R5: arithmetic modulo 2^len). -/
def wrap (len : Nat) (v : Int) : Nat := (v % (2 ^ len : Nat)).toNat

/-- The 64-bit word of an exact integer. -/
def wordOf (v : Int) : Word := BitVec.ofInt 64 v

/-- A natural number as a word. -/
def natW (n : Nat) : Word := BitVec.ofNat 64 n

/-- A Bool as a word: 1 or 0. -/
def boolW (b : Bool) : Word := if b then 1 else 0

/-- The value of a list of bytes, the first the least significant (R3). -/
def leNat : List Byte → Nat
  | [] => 0
  | b :: bs => b.toNat + 256 * leNat bs

/-- The `n` bytes of `v`, the least significant first (R3). -/
def leBytes : Nat → Nat → List Byte
  | 0, _ => []
  | n + 1, v => BitVec.ofNat 8 v :: leBytes n (v / 256)

/-- `n` items of `f` from index `i` on. -/
def tabulate {α : Type} (f : Nat → α) (i : Nat) : Nat → List α
  | 0 => []
  | n + 1 => f i :: tabulate f (i + 1) n

/-- The least index from `i` on, among `n`, at which `p` holds. -/
def firstFrom (p : Nat → Bool) (i : Nat) : Nat → Option Nat
  | 0 => none
  | n + 1 => if p i then some i else firstFrom p (i + 1) n

/-- The elements of `w` bits each that the low `n * w` bits of `x` hold, the lowest first. -/
def chunks (w x : Nat) : Nat → List Nat
  | 0 => []
  | n + 1 => x % 2 ^ w :: chunks w (x / 2 ^ w) n

/-- The number whose `w`-bit elements, lowest first, are `xs`. -/
def unchunks (w : Nat) : List Nat → Nat
  | [] => 0
  | x :: xs => x % 2 ^ w + 2 ^ w * unchunks w xs

/-- ceil (a / b). -/
def ceilDiv (a b : Nat) : Nat := (a + b - 1) / b

/-- The number of one bits among the low `n` bits of `x`. -/
def popCount (x : Nat) : Nat → Nat
  | 0 => 0
  | n + 1 => x % 2 + popCount (x / 2) n

/-- Whether the list holds no element twice. -/
def noDup : List Nat → Bool
  | [] => true
  | x :: xs => !xs.contains x && noDup xs

/-- `l` with the element at index `i` left out. -/
def dropAt {α : Type} : List α → Nat → List α
  | [], _ => []
  | _ :: xs, 0 => xs
  | x :: xs, i + 1 => x :: dropAt xs i

/-- `l` with `f` applied to the element at index `i`. -/
def modifyAt {α : Type} (f : α → α) : List α → Nat → List α
  | [], _ => []
  | x :: xs, 0 => f x :: xs
  | x :: xs, i + 1 => x :: modifyAt f xs i

/-- The 64-bit mixing function of R86. -/
def mix64 (z : Word) : Word :=
  let z := (z ^^^ (z >>> 30)) * 0xBF58476D1CE4E5B9
  let z := (z ^^^ (z >>> 27)) * 0x94D049BB133111EB
  z ^^^ (z >>> 31)

end Sys2Proof.Machine
end

