-- ==== Sys2Proof/Machine/SMap.lean ====
section
/-! DEFINITION. Sparse maps from Nat keys: lists of pairs with strictly rising keys. A map with a DEFAULT lists no
entry equal to what an unlisted key reads as, so equal maps are equal lists. -/

namespace Sys2Proof.Machine

/-- A sparse map: pairs with strictly rising keys. -/
abbrev SMap (α : Type) := List (Nat × α)

/-- The entry at key `k`, if one is listed. -/
def SMap.find {α : Type} : SMap α → Nat → Option α
  | [], _ => none
  | (i, x) :: m, k => if i = k then some x else SMap.find m k

/-- The value at key `k`; `d` where none is listed. -/
def SMap.get {α : Type} (d : α) (m : SMap α) (k : Nat) : α :=
  (SMap.find m k).getD d

/-- Lists `v` at key `k`, whatever stood there. -/
def SMap.put {α : Type} : SMap α → Nat → α → SMap α
  | [], k, v => [(k, v)]
  | (i, x) :: m, k, v =>
    if k < i then (k, v) :: (i, x) :: m
    else if i = k then (k, v) :: m
    else (i, x) :: SMap.put m k v

/-- Lists nothing at key `k`. -/
def SMap.del {α : Type} : SMap α → Nat → SMap α
  | [], _ => []
  | (i, x) :: m, k => if i = k then SMap.del m k else (i, x) :: SMap.del m k

/-- The map with value `v` at key `k`, where an unlisted key reads as `d`. -/
def SMap.set {α : Type} [DecidableEq α] (d : α) (m : SMap α) (k : Nat) (v : α) : SMap α :=
  if v = d then SMap.del m k else SMap.put m k v

/-- Keys rise strictly, every one above `lo`. -/
def SMap.sortedFrom {α : Type} : Nat → SMap α → Bool
  | _, [] => true
  | lo, (i, _) :: m => decide (lo ≤ i) && SMap.sortedFrom (i + 1) m

/-- The canonical form of a map with default `d`: keys rise strictly and no entry equals `d`. -/
def SMap.wf {α : Type} [DecidableEq α] (d : α) (m : SMap α) : Bool :=
  SMap.sortedFrom 0 m && m.all (fun e => decide (e.2 ≠ d))

end Sys2Proof.Machine
end

