-- ==== Sys2Proof/Syntax.lean ====
section
/-! DEFINITION. The operations and events of spec/opcode_table.json, one constructor a row.

The first constructor is a whole bundle. The slot operations follow in the table's order; each carries the fields
R39 to R45 give it, and those of the vector and copy classes carry the slot they stand in. The rows of the table
that name no syllable are EVENTS of the machine: indivisible steps of an engine, of the front end, of the Fleus
firmware, of the memory system or of an outside agent. An event's fields say which unit it befalls, and the values
that the manual leaves to that agent. -/

namespace Sys2Proof

inductive Instr where
  -- bundles
  | bundleIssue (h : Header) (syls : List Word)
  | nop (sl : Slot)
  -- S slot: R59 to R61
  | add (d a b : SReg)
  | sub (d a b : SReg)
  | and (d a b : SReg)
  | or (d a b : SReg)
  | xor (d a b : SReg)
  | shl (d a b : SReg)
  | shr (d a b : SReg)
  | sra (d a b : SReg)
  | mul (d a b : SReg)
  | mulh (u : Bool) (d a b : SReg)
  | div (u : Bool) (d a b : SReg)
  | rem (u : Bool) (d a b : SReg)
  | min (u : Bool) (d a b : SReg)
  | max (u : Bool) (d a b : SReg)
  | clz (d a : SReg)
  | popc (d a : SReg)
  | bext (d a b : SReg)
  | bins (d a b : SReg)
  -- immediates: R62, R63
  | ldih (d : SReg) (imm : BitVec 19)
  | addi (d a : SReg) (imm : BitVec 33)
  | andi (d a : SReg) (imm : BitVec 33)
  | ori (d a : SReg) (imm : BitVec 33)
  | xori (d a : SReg) (imm : BitVec 33)
  | shli (d a : SReg) (n : BitVec 6)
  | shri (d a : SReg) (n : BitVec 6)
  | srai (d a : SReg) (n : BitVec 6)
  | ldi (d : SReg) (imm : BitVec 45)
  -- compares, selects, predicates: R64 to R66
  | cmp (cc : Cond) (d : PReg) (a b : SReg)
  | cmpi (cc : Cond) (d : PReg) (a : SReg) (imm : BitVec 33)
  | sel (d a b : SReg) (p : PReg) (neg : Bool)
  | plog (op : LogOp) (d a b : PReg)
  -- loads and stores: R67 to R71
  | ld (sz : MSize) (d a : SReg) (reuse : BitVec 3) (off : BitVec 33)
  | st (sz : MSize) (d a : SReg) (off : BitVec 33)
  | ldp (d a : SReg) (reuse : BitVec 3) (off : BitVec 33)
  | stp (d a : SReg) (off : BitVec 33)
  | ldc (sz : MSize) (d a : SReg) (off : BitVec 33)
  -- control: R72 to R76
  | br (disp : BitVec 32)
  | bri (a : SReg)
  | call (disp : BitVec 32)
  | calli (a : SReg)
  | ret
  | loop (lvl : Bool) (disp : BitVec 20) (c : SReg)
  | loopi (lvl : Bool) (disp : BitVec 20) (count : BitVec 30)
  -- special registers, handles, shapes: R77 to R79
  | movx (d : SReg) (x : BitVec 12)
  | movxw (x : BitVec 12) (a : SReg)
  | hmov (h h2 : HReg)
  | hget (d : SReg) (h : HReg) (w : BitVec 2)
  | hset (h : HReg) (w : BitVec 2) (a : SReg)
  | hadv (h : HReg) (dim : BitVec 2) (a : SReg)
  | tshape (t : Tile) (fmt : Fmt) (rows : BitVec 6) (cols : BitVec 10)
  -- tensor table, atomics: R228 to R233
  | tidw (h : HReg) (a : SReg)
  | tidr (h : HReg) (a : SReg)
  | tidi (a : SReg)
  | amo (op : AmoOp) (d a b : SReg)
  | cas (d a b : SReg)
  | cas2 (d a b : SReg)
  -- traps and return: R80, R81, R346
  | trap (imm : BitVec 16)
  | sysc (imm : BitVec 16)
  | eret
  | tlbi (f : TlbiForm) (a : SReg)
  -- V slots: R130
  | vadd (sl : VSlot) (c : VCom) (d a b : RowRef)
  | vsub (sl : VSlot) (c : VCom) (d a b : RowRef)
  | vmul (sl : VSlot) (c : VCom) (d a b : RowRef)
  | vfma (sl : VSlot) (c : VCom) (d a b : RowRef)
  | vfms (sl : VSlot) (c : VCom) (d a b : RowRef)
  | vmin (sl : VSlot) (c : VCom) (d a b : RowRef)
  | vmax (sl : VSlot) (c : VCom) (d a b : RowRef)
  | vabs (sl : VSlot) (c : VCom) (d a : RowRef)
  | vneg (sl : VSlot) (c : VCom) (d a : RowRef)
  | vrcp (c : VCom) (d a : RowRef)
  | vrsq (c : VCom) (d a : RowRef)
  | vexp2 (c : VCom) (d a : RowRef)
  | vlog2 (c : VCom) (d a : RowRef)
  | vcmul (sl : VSlot) (c : VCom) (d a b : RowRef)
  -- R132
  | viadd (sl : VSlot) (c : VCom) (d a b : RowRef)
  | visub (sl : VSlot) (c : VCom) (d a b : RowRef)
  | vimul (sl : VSlot) (c : VCom) (d a b : RowRef)
  | vand (sl : VSlot) (c : VCom) (d a b : RowRef)
  | vor (sl : VSlot) (c : VCom) (d a b : RowRef)
  | vxor (sl : VSlot) (c : VCom) (d a b : RowRef)
  | vshl (sl : VSlot) (c : VCom) (d a b : RowRef)
  | vshr (sl : VSlot) (c : VCom) (d a b : RowRef)
  | vsra (sl : VSlot) (c : VCom) (d a b : RowRef)
  -- R133 to R136
  | vcmp (sl : VSlot) (c : VCom) (cc : FCond) (d : PReg) (a b : RowRef)
  | vicmp (sl : VSlot) (c : VCom) (cc : Cond) (d : PReg) (a b : RowRef)
  | vsel (sl : VSlot) (c : VCom) (d a b : RowRef)
  | vplen (sl : VSlot) (c : VCom) (d : PReg) (n : SReg)
  | vplog (sl : VSlot) (c : VCom) (op : LogOp) (d a b : PReg)
  -- R137 to R145
  | vmov (sl : VSlot) (c : VCom) (d a : RowRef)
  | vbc (sl : VSlot) (c : VCom) (d : RowRef) (n : SReg)
  | vred (sl : VSlot) (c : VCom) (op : RedOp) (d a : RowRef)
  | vperm (sl : VSlot) (c : VCom) (d a b : RowRef)
  | vrot (sl : VSlot) (c : VCom) (d a : RowRef) (n : SReg)
  | vcvt (sl : VSlot) (c : VCom) (d a : RowRef) (src : Fmt) (part : BitVec 3)
  | vqnt (sl : VSlot) (c : VCom) (stat : Bool) (d a : RowRef) (src : Fmt)
  | vdq (sl : VSlot) (c : VCom) (d a : RowRef) (src : Fmt)
  | vamax (sl : VSlot) (c : VCom) (d a : RowRef)
  | vsplit (sl : VSlot) (c : VCom) (d a b : RowRef)
  | vsnap (sl : VSlot) (c : VCom) (d a : RowRef) (n : SReg)
  -- R146
  | vld (f : VMemF) (reuse : BitVec 3)
  | vst (f : VMemF)
  | vlds (f : VMemF) (ty : Fmt) (reuse : BitVec 3)
  -- M slot: R151 to R157
  | mcfg (a : SReg)
  | mstep (v : MVar) (tc ta tb : Tile)
  | mzero (tc : Tile)
  | mfin (f : Fmt) (td tc : Tile)
  | mtrn (td ta : Tile)
  | mdup (h : HReg)
  | arrayStepStart (core : Nat)
  | arrayStepWrite (core : Nat)
  -- C slots: R218 to R227
  | cpy (sl : CSlot) (hd hs : HReg) (e : PrmCnt) (st : StepF)
  | cpyq (sl : CSlot) (stat : Bool) (hd hs : HReg) (e : PrmCnt) (st : StepF)
  | cpyd (sl : CSlot) (hd hs : HReg) (e : PrmCnt) (st : StepF)
  | cpyr (sl : CSlot) (op : CpyrOp) (hd hs : HReg) (e : PrmCnt) (st : StepF)
  | cfill (sl : CSlot) (hd : HReg) (e : PrmCnt) (step : BitVec 16) (sdim : BitVec 2)
  | cgat (sl : CSlot) (hd hs hx : HReg) (e : PrmCnt) (st : StepF)
  | csct (sl : CSlot) (hd hs hx : HReg) (e : PrmCnt) (st : StepF)
  | wopen (sl : CSlot) (hw hv : HReg) (e : PrmCnt)
  | wadv (sl : CSlot) (hw : HReg) (k : BitVec 16) (e : PrmCnt)
  | wclose (sl : CSlot) (hw : HReg) (cnt : SReg)
  | cpref (sl : CSlot) (hs : HReg) (cnt : SReg) (step : BitVec 16) (sdim : BitVec 2)
  | cflush (sl : CSlot) (hs : HReg) (cnt : SReg) (step : BitVec 16) (sdim : BitVec 2)
  | fpush (sl : CSlot) (t : Tile) (r n1 : BitVec 6) (bank : BitVec 4) (cnt : SReg)
  | fpop (sl : CSlot) (t : Tile) (r n1 : BitVec 6) (bank : BitVec 4) (cnt : SReg)
  | cbank (sl : CSlot) (bank : BitVec 4) (mode : BankMode)
  | copyOpStart (core : Nat) (sl : CSlot)
  | nocSlotSend (core : Nat) (sl : CSlot)
  | copyOpComplete (core : Nat) (sl : CSlot)
  | copyPageResume (core : Nat) (sl : CSlot)
  -- O slot: R267 to R271
  | omode (ap : Aperture) (rec : Recovery)
  | omask (h : HReg) (e : PrmCnt)
  | oft (hd hs : HReg) (x : SReg) (e : PrmCnt) (logn : BitVec 4)
  | oift (hd hs : HReg) (x : SReg) (e : PrmCnt) (logn : BitVec 4)
  | oconv (hd hs : HReg) (x : SReg) (e : PrmCnt) (logn : BitVec 4)
  | ocal (e : PrmCnt)
  | ostat (d : SReg) (r : OReg)
  | veilShot (chiplet : Nat)
  | veilFramesWritten (chiplet : Nat)
  | veilMaskLoaded (chiplet : Nat)
  | veilCalComplete (chiplet : Nat)
  | veilWindowStart (chiplet : Nat)
  | veilCalSlotStart (chiplet : Nat)
  | calibrationStale (chiplet : Nat)
  -- L slot: R272 to R279
  | lsend (port : BitVec 5) (h : HReg) (e : PrmCnt)
  | lrecv (port : BitVec 5) (h : HReg) (e : PrmCnt)
  | lradd (i32 : Bool) (port : BitVec 5) (a l : SReg) (e : PrmCnt)
  | lqadd (port : BitVec 5) (a l : SReg) (e : PrmCnt)
  | ltmo (port : BitVec 5) (t : SReg)
  | lring (a : SReg)
  | lstat (d : SReg) (port : BitVec 5)
  | lcadd (dev c v : SReg)
  | linkMatch (recv : Nat)
  | linkMessageArrival (port src : Nat) (dtag : MsgTag) (data : List Byte)
  | linkOpComplete (op : LinkEnd)
  | remoteCounterAdd (ctr val : Nat)
  | linkTimeout (op : Nat)
  | portDown (port : Nat)
  | portLanesLost (port : Nat)
  | flitRetry (port : Nat)
  -- K slot, tasks: R158 to R164
  | spawn (off : BitVec 3) (e c : SReg)
  | yield
  | endTask
  | endComplete (core : Nat)
  | barg (sc : BScope)
  | barrierComplete (lid : Nat) (sc : BScope) (group : Nat)
  | barrierWaiterResume (core : Nat)
  | sleept (t : SReg)
  | sleeptWake (core : Nat)
  | waito (l s : BitVec 8) (c : BitVec 10) (t : BitVec 6)
  | waitoMet (core : Nat)
  -- counters, waits, drains: R234 to R238
  | cadd (c v : SReg) (rel : Bool) (sc : Scope) (cls : BitVec 5)
  | counterAddApply (i : Nat)
  | cwait (c t : SReg) (acq : Bool) (sc : Scope)
  | cwaitMet (core : Nat)
  | cread (d c : SReg)
  | waita (a v : SReg) (sc : Scope)
  | waitaMet (core : Nat)
  | drain (sc : Scope) (cls : BitVec 5)
  | drainDone (core : Nat)
  | waitTimeout (core : Nat)
  -- launches and the trace: R281 to R284
  | lnch (d cnt : SReg)
  | rlnch (w : BitVec 4) (cnt : SReg)
  | trarm (w : BitVec 4) (l : SReg)
  | trstat (d : SReg) (w : BitVec 4)
  -- checking and system: R347 to R352
  | chk (f : ChkForm)
  | kalu (d a : SReg) (src : KaluSrc)
  | digr (launch : Bool) (d : SReg)
  | digx (launch : Bool) (a : SReg)
  | ctxs (a : SReg)
  | ctxl (a : SReg)
  -- events of the cores and of the front end
  | exposedResultLand (core : Nat)
  | pendingResultLand (core i : Nat)
  | atomicPerform (core i : Nat)
  | storePerform (core : Nat)
  | pageWalkComplete (core va : Nat)
  | tlbiRemovalComplete (core : Nat)
  | watchBindComplete (core : Nat)
  | asyncFaultReport (core : Nat) (cause : Nat) (info : Word)
  | asyncFaultDelivery (core : Nat)
  | yieldOverrun (core : Nat)
  | fifoRelief (cluster : Nat)
  | launchStart (lid ptb spill : Nat) (tables : LaunchMap)
  | taskStart (core : Nat)
  | segLoadComplete (core : Nat)
  | relaunchAccept (w : Nat)
  | relaunchTaskAdd (w tix by_ : Nat)
  | launchReexecute (lid : Nat)
  -- the Fleus executive: R288 to R295
  | cuffPoll (q : Nat)
  | packetDispatch (cuff : Nat)
  | packetCompletion (p : PktRef)
  -- packets: R292
  | launch (p : PktRef) (desc : Nat) (ctr : Option Nat)
  | relaunch (p : PktRef) (w : Nat) (ctr : Option Nat)
  | copy (p : PktRef) (src dst len : Nat)
  | fill (p : PktRef) (dst len : Nat) (pat : Word)
  | counterAdd (p : PktRef) (ctr val : Nat)
  | counterWait (p : PktRef) (ctr thr : Nat)
  | traceArm (p : PktRef) (w lid : Nat)
  | veilCal (p : PktRef) (mask : BitVec 4)
  | query (p : PktRef) (item chiplet ans lid : Nat)
  | tidWrite (p : PktRef) (rec chiplet cluster id : Nat)
  | queueCtlEnable (p : PktRef) (target : Nat)
  | queueCtlDisable (p : PktRef) (target : Nat)
  | queueCtlRehome (p : PktRef) (target home : Nat)
  | queueCtlClear (p : PktRef) (target : Nat)
  | nopPacket (p : PktRef)
  | qtail (q : Nat) (v : PostedWord)
  | registerWrite (off : Nat) (v : PostedWord)
  | cuffRomParity (cuff : Nat)
  | cuffTableEcc (cuff : Nat) (queues : List Nat)
  -- the host
  | hostCxlMemAccess (off n : Nat) (write : Option (List Byte))
  | hostCxlIoWrite (addr : Nat) (data : List Byte) (order : PostOrder)
  -- the memory system: R180 to R187, R340 to R343, R354 to R356
  | hemWriteback (chunk : Nat)
  | writebackAck (chunk : Nat) (parity : Bool)
  | reconstructRead (chunk : Nat)
  | stackLost (stack : Nat)
  | stackRebuildStripe (stripe : Nat)
  | refresh (bank row : Nat)
  | refreshInterrupt (bank : BankRows)
  | patrolScrub (addr : Nat) (written : Bool)
  | wearRefresh (words : List Word)
  -- power and management: R370 to R375
  | powerSample (blocks temps : List (BitVec 16))
  | powerOn
  | identify
  | attest (nonce : List Byte)
  | setDevnum (n : Nat)
  | setWindow (base : RingPlace) (size : Nat)
  | setEventRing (addr : RingPlace) (size : Nat)
  | setIdeKeys (keys : List Byte)
  | setCap (watts : Nat)
  | telemetry
  | resetPartition (part lo hi : Nat)
  | resetModule
  | portUp (port : Nat)
  | chipletLost (what : ModuleLoss)
  | softError (site : ErrorSite)
  | dieTemperatureChange (chiplet temp : Nat)
  | peerMemoryAccess (dev off n : Nat) (write : Option (List Byte))
  deriving DecidableEq, Repr

end Sys2Proof
end

