-- ==== Sys2Proof/Machine/State.lean ====
section
/-! DEFINITION. The state of the whole device as plain data: the cores with their tasks, the engines, the front end,
the Fleus executive, the memory system and what management reaches. Register files are sparse maps whose unlisted
entries read as zero. -/

namespace Sys2Proof.Machine

/-- Where a value in flight goes: a scalar, a predicate, a vector predicate (with its taint), a handle, a tile row
(row number 64 × tile + row), or an increment of X.QTROUB. -/
inductive Dest where
  | s (n : Nat)
  | p (n : Nat)
  | q (n : Nat)
  | h (n : Nat)
  | row (i : Nat)
  | trouble
  deriving DecidableEq, Repr

/-- A value in flight and the first cycle in which it is readable (R33, R321). For a tile row, `mask` marks the bytes
written. In a shadow buffer `due` is the offset o of R321. `seq` is its place among all that its task has put in flight:
of two results that land in one register in one cycle, the one put in flight later stands (R35). -/
structure Result where
  dest   : Dest
  val    : Row
  mask   : VMask
  taint  : Bool
  poison : Option Nat
  due    : Nat
  seq    : Nat
  deriving DecidableEq, Repr

/-- A tile row: its bits, its taint bit (R98) and the address it is poisoned by (R131). -/
structure RowCell where
  data   : Row
  taint  : Bool
  poison : Option Nat
  deriving DecidableEq, Repr

/-- What makes a pending-marked result known: it is known already, or it is read between issue and landing (CREAD,
OSTAT, LSTAT, TRSTAT, DIGR.LAUNCH), or its home answers (AMO, CAS, CAS2). `calc` is a known one that is no load (DIV, REM, TIDR). -/
inductive PendSrc where
  | ready
  | calc
  | cread (i : Nat)
  | ostat (r : OReg)
  | lstat (port : Nat)
  | trstat (w : Nat)
  | digest
  | atomic (op : Option AmoOp) (va pa n : Nat) (arg expect : Nat)
  deriving DecidableEq, Repr

/-- A pending-marked result (R36): its destinations with their values, and its landing cycle. `fpop` is the queue of an FPOP, which
WAITO counts as a copy (R164); `read` is the cycle at which a word that is read between issue and landing is taken, while it has not
been; `seq` is its place among what the task has put in flight. -/
structure Pend where
  src  : PendSrc
  res  : List Result
  issue : Nat
  due  : Nat
  fpop : Option CSlot
  read : Option Nat
  seq  : Nat
  deriving DecidableEq, Repr

/-- The private operand copy of a sticky operation (R30): the scalars and handles its syllable names. -/
structure Cap where
  w0 : Word
  w1 : Word
  h0 : Handle
  h1 : Handle
  h2 : Handle
  deriving DecidableEq, Repr

/-- A sticky slot's previous operation: its guard, the operation with its rows as last stepped, and its private
operand copy (R29, R30). -/
structure Sticky where
  g   : Guard
  op  : Instr
  cap : Cap
  deriving DecidableEq, Repr

/-- The five sticky slots; `none` is quiet (R29). -/
structure StickySet where
  v0 : Option Sticky
  v1 : Option Sticky
  m  : Option Sticky
  c0 : Option Sticky
  c1 : Option Sticky
  deriving DecidableEq, Repr

/-- One hardware-loop level (R74). -/
structure Level where
  lc     : Word
  ls     : Word
  le     : Word
  active : Bool
  deriving DecidableEq, Repr

/-- Both hardware-loop levels; `last1` holds when level 1 was armed later than level 0 (R75). -/
structure Loops where
  l0    : Level
  l1    : Level
  last1 : Bool
  deriving DecidableEq, Repr

/-- What the iterations of a repeated bundle have decided so far: a taken branch's target, a zero-count loop's
target, and whether END or YIELD issued (R31, R74, R158). -/
structure Flow where
  jump : Option Nat
  skip : Option Nat
  endk : Bool
  yk   : Bool
  deriving DecidableEq, Repr

/-- What trap entry saves beside the special registers (R321). -/
structure Trapped where
  sticky : StickySet
  loops  : Loops
  flow   : Flow
  deriving DecidableEq, Repr

/-- A pending asynchronous fault (R325). -/
structure AFault where
  cause : Nat
  info  : Word
  deriving DecidableEq, Repr

/-- The matrix loop state (R103): indices, counts, the MCFG configuration and X.MSP. -/
structure MatLoop where
  ik  : Nat
  inn : Nat
  im  : Nat
  mlm : Nat
  mln : Nat
  mlk : Nat
  cfg : Nat
  msp : Nat
  deriving DecidableEq, Repr

/-- What MDUP bound (R107, R153): the map as (s, t) pairs, and the scale base and format when the record is scaled. -/
structure MBind where
  map    : List (Nat × Nat)
  scaled : Bool
  sbase  : Nat
  sfmt   : Nat
  deriving DecidableEq, Repr

/-- A step in the array or its queue (R105, R106): the task it writes to, its resolved operands, the scale bytes read
at issue, the binding, and once it has started the rows of A and B with the OR of their tiles' taint. -/
structure MStepRec where
  uid     : Nat
  var     : MVar
  c       : Nat
  a       : Nat
  b       : Nat
  ablk    : Nat
  bblk    : Nat
  rowsA   : Nat
  rowsB   : Nat
  quarters : Nat
  zeroC   : Bool
  kpos    : Nat
  bind    : MBind
  ascale  : List Nat
  bscale  : List Nat
  te      : Bool
  issue   : Nat
  start   : Option Nat
  ra      : List Row
  rb      : List Row
  taint   : Bool
  deriving DecidableEq, Repr

/-- An MZERO, MFIN or MTRN in flight: the tiles it keeps busy, the rows it writes, its trouble count (R154 to R156). -/
structure MOp where
  uid     : Nat
  kind    : Nat
  tiles   : List Nat
  rows    : List (Nat × RowCell)
  trouble : Nat
  due     : Nat
  seq     : Nat
  deriving DecidableEq, Repr

/-- The register budget s:h:t of a task (R84). -/
structure Budget where
  s : Nat
  h : Nat
  t : Nat
  deriving DecidableEq, Repr

/-- The register files of a core's task (R7 to R9, R96 to R100, R194). A poisoned scalar is listed in `sp` with its
address (R70). -/
structure Regs where
  s  : SMap Word
  sp : SMap Nat
  p  : BitVec 16
  q  : SMap VMask
  qt : BitVec 16
  h  : SMap Handle
  rows : SMap RowCell
  ts : SMap Word
  deriving DecidableEq, Repr

/-- The special registers of R10 but those derived (X.CYC, X.COORD), the loop registers and the matrix registers. -/
structure XRegs where
  tix : Word
  ntask : Word
  stage : Word
  seed : Word
  launch : Word
  arg : Word
  wtmo : Word
  qtroub : Word
  dig : Word
  sv : Bool
  psv : Bool
  dm : Bool
  ste : Bool
  te : Bool
  epc : Word
  ecause : Word
  einfo : Word
  erpt : Word
  tvec : Word
  ptb : Word
  segt : Word
  deriving DecidableEq, Repr

/-- An open window of a copy queue (R196 to R198): its ring handle at WOPEN, its view and record, rows
fetched so far; `bad` once a fetch has ended in a fault (R224). -/
structure Win where
  hw   : Handle
  view : Handle
  lrec : Record
  next : Nat
  bad  : Bool
  deriving DecidableEq, Repr

/-- An access record of a task (R304, R305): first tile, run length, write or read, and the cycle of its first access. -/
structure TraceRec where
  tile : Nat
  run  : Nat
  wr   : Bool
  at_  : Nat
  deriving DecidableEq, Repr

/-- A barrier that a task has come to (R90): its scope and number, when the task arrived, and whether it has completed. -/
structure BarEnt where
  sc  : BScope
  n   : Nat
  at_ : Nat
  met : Bool
  deriving DecidableEq, Repr

/-- What a held bundle waits for (R158). `wide` says that the scope reaches beyond the cluster. -/
inductive WaitKind where
  | cwait (i thr : Nat)
  | waita (va pa : Nat) (v : Word) (wide : Bool)
  | waito (l s c t : Nat)
  | sleept (w : Nat)
  | drain (cls : Nat) (wide : Bool)
  | barg (sc : BScope) (lid group n : Nat)
  | digx
  deriving DecidableEq, Repr

/-- A bundle held before issue: what for, its reach_cycle, X.WTMO read then, whether the wait is met (R158). -/
structure WaitRec where
  kind  : WaitKind
  reach : Nat
  tmo   : Nat
  met   : Bool
  deriving DecidableEq, Repr

/-- A task and everything R328 puts in its context. `arrived` counts the barriers of each scope it has come to, `bars` lists
those whose BARG's bundle has not issued yet (R90, R325), and `held` is the wait at a barrier that the trap now handled has
interrupted, with its bundle's address. `told` lists the scalars whose poison an ECC_UNCORR trap has
delivered, `logs` the addresses of poison that a write cleared and that Fleus has still to log (R70, R131). `seq` counts what the
task has put in flight (R35); `joined` is the cycle of the last calibration whose completion the task has joined (R270). -/
structure Task where
  uid    : Nat
  lid    : Nat
  parent : Option Nat
  spawnCtr : Option Nat
  budget : Budget
  regs   : Regs
  x      : XRegs
  mat    : MatLoop
  bind   : MBind
  loops  : Loops
  sticky : StickySet
  flow   : Flow
  pc     : Nat
  iter   : Nat
  flight : List Result
  pend   : List Pend
  shadow : List Result
  trapped : Trapped
  faults : List AFault
  ninth  : Option AFault
  aperture : Aperture
  recovery : Recovery
  wins0  : List Win
  wins1  : List Win
  stated : Nat
  runStart : Nat
  arrived : List (BScope × Nat)
  bars   : List BarEnt
  held   : Option (Nat × WaitRec)
  traced : Bool
  recs   : List TraceRec
  recAll : Bool
  rerun  : Option Nat
  flags  : Nat
  told   : List Nat
  logs   : List Nat
  seq    : Nat
  joined : Nat
  deriving DecidableEq, Repr

/-- A Skovak port (R278, R280, R359): STATE, ERR, and until when messages take up its two directions. -/
structure Port where
  state : Nat
  err   : Nat
  inTo  : Nat
  outTo : Nat
  deriving DecidableEq, Repr

/-- The state of an instruction-memory half (R299); a load took its segment's address and length when it was requested. -/
inductive Half where
  | empty
  | loading (k va len done : Nat)
  | holds (k : Nat)
  deriving DecidableEq, Repr

/-- Why a task that is out of its core waits (R91, R327, R337). -/
inductive OutKind where
  | preempted
  | barrier
  | spilled
  deriving DecidableEq, Repr

/-- What a core's last OMASK left of its mask (R253): the number of that operation, its view and record, and its size. -/
structure MaskDesc where
  id   : Nat
  view : Handle
  rec_ : Record
  n    : Nat
  deriving DecidableEq, Repr

/-- A task out of its core: the cycle it left in, since when its waits are satisfied, the replay its first issue starts,
and what its core held for it: the mask of its next OCONV and the promises that its next ones follow (R321, R327, R329). -/
structure Saved where
  task   : Task
  kind   : OutKind
  left   : Nat
  since  : Nat
  wait   : Option WaitRec
  ended  : Bool
  replay : List Result
  half0  : Half
  half1  : Half
  mask   : Option MaskDesc
  qprom0 : Nat
  qprom1 : Nat
  oprom  : Nat
  lprom  : SMap Nat
  deriving DecidableEq, Repr

/-- A task that could run on a core: one that is out, or one not yet started; with its rank, since when it waits, and its
stated run (R93). -/
structure Cand where
  out   : Option Nat
  start : Option (Nat × Nat)
  rank  : Nat
  since : Nat
  stated : Nat
  deriving DecidableEq, Repr

/-- A store issued and not performed (R200): its physical address, its bytes with their mask, the cycle of
its issue; for a vector store its taint. `more` holds when a further part of the same store follows (R149). -/
structure Store where
  pa     : Nat
  bytes  : List (Option Byte)
  taint  : Option Bool
  issue  : Nat
  more   : Bool
  deriving DecidableEq, Repr

/-- A line of the L1 (R175): its line address, re-reference value and bytes. `new` marks the bytes that the level below has not
got yet, none in a clean line; `since` is the cycle of issue of the oldest store that it holds, `due` the cycle by which it is
written back, and `err` the addresses of its 8-byte words with an uncorrectable error (R340). -/
structure L1Line where
  line  : Nat
  v     : Nat
  data  : List Byte
  new   : List (Option Byte)
  since : Option Nat
  due   : Nat
  err   : List Nat
  deriving DecidableEq, Repr

/-- A line of the constant cache (R185). -/
structure CLine where
  line : Nat
  data : List Byte
  deriving DecidableEq, Repr

/-- A line of a cluster's cache (R176, R177): the bank it lies in and its bytes. `new` marks the bytes that its home has not
got yet, none in a clean line; `tag` is the launch of its latest store (R307), `since` the cycle of issue of the
oldest store it holds, `due` the cycle by which it is written back, and `err` the addresses of its 8-byte
words with an uncorrectable error (R340). -/
structure SLine where
  line : Nat
  bank : Nat
  data : List Byte
  new  : List (Option Byte)
  tag  : Nat
  since : Option Nat
  due  : Nat
  err  : List Nat
  deriving DecidableEq, Repr

/-- A TLB entry (R173, R345). -/
structure TlbEnt where
  asn  : Nat
  vpn  : Nat
  bits : Nat
  pa   : Nat
  rd   : Bool
  wr   : Bool
  us   : Bool
  na   : Bool
  deriving DecidableEq, Repr

/-- Where a queued copy operation stands (R216). A suspended one waits for the page of an address. -/
inductive CopyStage where
  | queued
  | running
  | suspended (va : Nat)
  deriving DecidableEq, Repr

/-- A write unit of a copy: the place of its granule in position order (R245), its address in the view, its physical
address, the bit it starts at, its width in bits, its value, and the taint of what was read for it (R217). -/
structure CUnit where
  place : Nat
  va    : Nat
  pa    : Nat
  bit   : Nat
  w     : Nat
  val   : Nat
  taint : Bool
  deriving DecidableEq, Repr

/-- A copy-queue operation (R215, R216, R241): the task that issued it and what it took at issue; `first` and `rows`
are a window operation's rows or an FPUSH's entries; `begin` is S, `lp` is Lp, `places` the granule places of R244 and
R245. Once started, the units not yet written, the bytes written so far by address, the physical ranges it
writes, and the chunks of HBM4E it touches (R187, R358). -/
structure CopyOp where
  id      : Nat
  op      : Instr
  uid     : Nat
  lid     : Nat
  hd      : Handle
  hs      : Handle
  hx      : Handle
  rd      : Record
  rs      : Record
  rx      : Record
  ctr     : Option Nat
  promise : Option Nat
  ptb     : Word
  te      : Bool
  dm      : Bool
  first   : Nat
  count   : Nat
  rows    : List RowCell
  issue   : Nat
  begin   : Nat
  lp      : Nat
  places  : Nat
  slots   : Bool
  held    : Bool
  stage   : CopyStage
  due     : Nat
  sent    : Nat
  send    : Nat
  units   : List CUnit
  wrote   : SMap Byte
  dst     : List (Nat × Nat)
  chunks  : List Nat
  trouble : Nat
  deriving DecidableEq, Repr

/-- What an engine operation that has not yet read its sources must not see: the bytes that its own core's later stores
replaced, as they were (R209). -/
structure Fork where
  id   : Nat
  hide : SMap Byte
  deriving DecidableEq, Repr

/-- A fault of an engine operation on its way to the core that issued it (R324). -/
structure Report where
  core  : Nat
  uid   : Nat
  cause : Nat
  info  : Word
  deriving DecidableEq, Repr

/-- What the bundle after a TLBI or the bundle of a TRARM waits for (R283, R346): the removal of TLB entries under the ASN
then in force, or the binding of a watch to a launch record, with the cycle it is done; `bound` once that TRARM may
issue. -/
inductive Fence where
  | tlbi (f : TlbiForm) (v : Word) (asn due : Nat)
  | trarm (w lid due : Nat)
  | bound (w lid : Nat)
  deriving DecidableEq, Repr

/-- One core (R6): the task it holds, the tasks assigned and not started, the tasks out of it, its instruction
memory, caches, array and queues. `fifoWait` is the FIFO bank that the present bundle stalls on and `reach` the cycle in
which it first did; `mdup` is the cycle in which its MDUP first held it (R157); `pick` is the task that the arbiter has
chosen at a switch and that has not begun yet (R93); `yielded` holds from a yield point of a D-mode task until the core next
issues (R374). -/
structure Core where
  task   : Option Task
  todo   : List (Nat × Nat)
  saved  : List Saved
  pick   : Option Cand
  yielded : Bool
  ready  : Nat
  reach  : Option Nat
  mdup   : Option Nat
  wait   : Option WaitRec
  walk   : Option Nat
  walkBad : Option Nat
  fence  : List Fence
  ended  : Bool
  imem   : SMap Word
  imemErr : List Nat
  half0  : Half
  half1  : Half
  stores : List Store
  l1     : SMap L1Line
  cc     : List CLine
  tlb    : List TlbEnt
  steps  : List MStepRec
  arrayFree : Nat
  mops   : List MOp
  cq0    : List CopyOp
  cq1    : List CopyOp
  qprom0 : Nat
  qprom1 : Nat
  forks  : List Fork
  fifoWait : Option Nat
  mask   : Option MaskDesc
  oprom  : Nat
  lprom  : SMap Nat
  sliceEnd : Nat
  recf   : List (Nat × Bool)
  deriving DecidableEq, Repr

/-- A counter addition on its way to its home (R204, R234): the core and task an overflow is reported to, the cycle
of issue, the class mask a release waits for (0 without REL), and whether its scope reaches beyond the cluster. -/
structure CtrAdd where
  i     : Nat
  val   : Nat
  core  : Nat
  uid   : Nat
  issue : Nat
  cls   : Nat
  wide  : Bool
  deriving DecidableEq, Repr

/-- A cluster SRAM bank (R176, R226): its mode, the launch that claims it, the FIFO it is lent to, its FIFO entries, oldest
first, and whether it goes back to cache mode once these are gone and its loan has ended (R177, R178). -/
structure Bank where
  mode  : BankMode
  claim : Option Nat
  lent  : Option Nat
  fifo  : List RowCell
  back  : Bool
  deriving DecidableEq, Repr

/-- A launch descriptor's fields (R297), with the stage table read through STAGET (R83). -/
structure Desc where
  image  : Nat
  ilen   : Nat
  entry  : Nat
  ntask  : Nat
  stages : Nat
  dmode  : Bool
  gang   : Bool
  te     : Bool
  super  : Bool
  cmask  : Nat
  budget : Budget
  qthr   : Nat
  seed   : Nat
  tvec   : Nat
  arg    : Nat
  trace  : Nat
  segt   : Nat
  nseg   : Nat
  banks  : Nat
  bufl   : Nat
  nbuf   : Nat
  staget : Nat
  first  : List Nat
  dtag   : Nat
  devs   : Nat
  deriving DecidableEq, Repr

/-- Who started a launch: a packet of a queue, an LNCH of a task, or a relaunch of a watch (R281, R292, R308). -/
inductive Origin where
  | packet (q n : Nat)
  | lnch (core uid : Nat)
  deriving DecidableEq, Repr

/-- Where a launch stands: accepted and not started (R87, R178, R281); running; re-executing serially (R337); re-running
selected tasks for a relaunch (R309); complete. -/
inductive Phase where
  | waiting
  | running
  | reexec
  | rerun
  | complete
  deriving DecidableEq, Repr

/-- What a trace buffer says of a task (R305). -/
structure TaskRecs where
  tix    : Nat
  status : Nat
  all    : Bool
  recs   : List TraceRec
  deriving DecidableEq, Repr

/-- A launch (R82 to R94, R281, R297, R335 to R337), keyed by its record number, which is X.LAUNCH (log 7). `assign` lists the core
of each task by index; `left` counts the tasks of the present run that have not ended; `next` is the next task of a serial
re-execution; `ranAt` is the last cycle in which a task of that ended or was set aside; `exchange` holds during an exchange phase
(R92); `ring` is the neighbour table (R272) and `ltmo` the time-outs set by LTMO (R277); `depth` counts LNCHs below a packet (R281);
`writes` lists the buffer handles it writes (R298); `tbase` the 64 KiB pages of its trace buffer as they translated when it started
(R305); `only` lists the tasks that run in a relaunch (R308, R310); `kept` holds the records of its ended tasks by index, in the
order of first access (R304); `daddr` is its descriptor's address, `relix` the relocation that did not fit (R57). -/
structure Launch where
  lid    : Nat
  desc   : Desc
  origin : Origin
  queue  : Nat
  part   : Nat
  ctr    : Option Nat
  phase  : Phase
  start  : Nat
  ptb    : Word
  spill  : Nat
  assign : List Nat
  ended  : Nat
  left   : Nat
  digest : Nat
  discard : Nat
  fault  : Bool
  marked : Bool
  again  : Bool
  next   : Nat
  ranAt  : Nat
  reex   : Nat
  status : Nat
  lnfail : Nat
  lnaddr : Nat
  exchange : Bool
  ring   : SMap Word
  ltmo   : SMap Nat
  depth  : Nat
  writes : List Nat
  tbase  : SMap Nat
  only   : Option (List Nat)
  kept   : SMap TaskRecs
  daddr  : Nat
  relix  : Option Nat
  deriving DecidableEq, Repr

/-- An LNCH whose descriptor the front end has not read yet (R281). -/
structure LnchReq where
  n     : Nat
  core  : Nat
  uid   : Nat
  lid   : Nat
  addr  : Nat
  ctr   : Option Nat
  ptb   : Word
  issue : Nat
  deriving DecidableEq, Repr

/-- A task stopped under R21: where, and the cause reported to the front end, with the state of R19. -/
structure StopRec where
  core  : Nat
  lid   : Nat
  tix   : Nat
  epc   : Nat
  erpt  : Nat
  cause : Nat
  info  : Word
  deriving DecidableEq, Repr

/-- A relaunch requested and not accepted, or accepted (R282, R308): who asked, and its counter. -/
structure RelReq where
  core  : Nat
  uid   : Nat
  packet : Option PktRef
  ctr   : Option Nat
  queue : Nat
  deriving DecidableEq, Repr

/-- A relaunch in progress (R308 to R311): who asked, the records it found, the tasks selected, and for each added task the
tasks whose records added it. -/
structure RelRun where
  req   : RelReq
  old   : List TaskRecs
  sel   : List Nat
  added : List (Nat × List Nat)
  deriving DecidableEq, Repr

/-- A watch (R284, R307 to R311): the launch record it is bound to, its dirty tiles in rising order, the relaunches
that wait, the one in progress, and what the last one left. -/
structure Watch where
  bound   : Option Nat
  dirty   : List Nat
  reqs    : List RelReq
  run     : Option RelRun
  orphans : Nat
  ovf     : Bool
  deriving DecidableEq, Repr

/-- A write-back in flight (R182, R355): the chunk, the data it carries, the parity delta, and which parts are
acknowledged. -/
structure WbFlight where
  chunk : Nat
  data  : List Byte
  delta : List Byte
  dataAck : Bool
  parAck  : Bool
  deriving DecidableEq, Repr

/-- The HBM4E stacks below the Hem slices (R181, R182, R186, R354 to R357): the stored data and parity bytes, the chunks
a slice holds dirty with the 8-byte words of these that hold an uncorrectable error, the stripes whose parity chunk holds
one, the write-backs in flight, the stacks lost, the stripes rebuilt so far, the rows that a scrub has moved to another
refresh class, when rows were last refreshed, and when a stack was first lost (R358). -/
structure Hbm where
  data   : SMap Byte
  parity : SMap Byte
  dirty  : List Nat
  errs   : List Nat
  parErr : List Nat
  flight : List WbFlight
  lost   : List Nat
  rebuilt : Nat
  classes : SMap Nat
  refreshed : SMap Nat
  lostAt : Option Nat
  deriving DecidableEq, Repr

/-- The engine state of R328 that a context image holds beside the registers it lists (R351). -/
structure EngineState where
  trapped : Trapped
  mat     : MatLoop
  bind    : MBind
  aperture : Aperture
  recovery : Recovery
  wins0   : List Win
  wins1   : List Win
  half0   : Half
  half1   : Half
  shadow  : List Result
  faults  : List AFault
  sp      : SMap Nat
  rowp    : SMap Nat
  told    : List Nat
  deriving DecidableEq, Repr

/-! ## Veil and links -/

/-- Frames that a shot has produced and the engine has not written yet (R258). -/
structure VeilWrite where
  due   : Nat
  units : List CUnit
  deriving DecidableEq, Repr

/-- An O operation in engine order (R258 to R260, R268 to R270): what it took at issue; `root` is the core in whose windows
it runs; `shots` and `time` are its shots and their spacing; `start` is when its first shot may fire or its work began, in
D-mode when its next step is due; `bad` is the fault it ends in. -/
structure VeilOp where
  id    : Nat
  op    : Instr
  core  : Nat
  root  : Nat
  uid   : Nat
  lid   : Nat
  hd    : Handle
  hs    : Handle
  rd    : Record
  rs    : Record
  ctr   : Option Nat
  promise : Option Nat
  ptb   : Word
  te    : Bool
  dm    : Bool
  ex    : Int
  logn  : Nat
  ap    : Aperture
  recovery : Recovery
  desc  : Option MaskDesc
  shots : Nat
  time  : Nat
  issue : Nat
  begin : Nat
  start : Nat
  fired : Nat
  flying : List VeilWrite
  bad   : Option AFault
  deriving DecidableEq, Repr

/-- What a mask load left in the mask plane (R253): the descriptor, the elements, and the fault of the first one that
cannot be loaded. -/
structure Plane where
  desc : MaskDesc
  vals : List Nat
  bad  : Option AFault
  deriving DecidableEq, Repr

/-- What decides staleness, since a cycle (R256). -/
structure VeilMark where
  since : Nat
  aged  : Bool
  temp  : Nat
  tempCal : Nat
  deriving DecidableEq, Repr

/-- A Veil engine (R247 to R260): its calibration registers, the marks of the last cycles with the newest first, the mask plane, the
task and the counter of its last OCAL, its operations in engine order, the window loads of D-mode owners in progress, and the last
cycle whose window and calibration-slot starts have been served. -/
structure Veil where
  serial : Nat
  calAt  : Option Nat
  limit  : Nat
  marks  : List VeilMark
  plane  : Option Plane
  calBy  : Nat × Option Nat
  ops    : List VeilOp
  loads  : List (Nat × Nat)
  served : Option Nat
  slotServed : Option Nat
  deriving DecidableEq, Repr

/-- An L operation (R272 to R280): what it took at issue; `peer` is the device its entry named; once it has started, when, and
its number `k` among the sends or receives of its port, peer and tag (R274); `moved` once its message has moved, and then
`due`, the cycle in which it may complete. -/
structure LinkOp where
  id    : Nat
  op    : Instr
  core  : Nat
  uid   : Nat
  lid   : Nat
  dtag  : Nat
  port  : Nat
  peer  : Nat
  h     : Handle
  r     : Record
  addr  : Nat
  len   : Nat
  val   : Nat
  ctr   : Option Nat
  promise : Option Nat
  ptb   : Word
  te    : Bool
  dm    : Bool
  tmo   : Nat
  issue : Nat
  begin : Option Nat
  k     : Nat
  moved : Bool
  due   : Nat
  wrote : SMap Byte
  deriving DecidableEq, Repr

/-- A message on a port: the other device, its tag, its number among the sends of that port, device and tag, and its bytes
(R274). An LCADD to another device leaves as a message of 10 bytes, its counter and its value. -/
structure LinkMsg where
  port : Nat
  dev  : Nat
  dtag : Nat
  k    : Nat
  data : List Byte
  deriving DecidableEq, Repr

/-- A packet in a queue's window (R294): its number among all admissions, which rises, its 64 bytes as a number, whether it has
started, whether its action has been taken, its status once it is done and waits for its completion slot, and the
INFO of its event. -/
structure WinEnt where
  n       : Nat
  bytes   : Nat
  started : Bool
  ran     : Bool
  done    : Option Nat
  info    : Nat
  deriving DecidableEq, Repr

/-- The state of a queue (R289). -/
inductive QState where
  | disabled
  | enabled
  | faulted
  | held
  deriving DecidableEq, Repr

/-- A command queue (R289 to R296) with its effective rank (R93). -/
structure Queue where
  state   : QState
  base    : Nat
  cfg     : Nat
  tail    : Nat
  head    : Nat
  seq     : Nat
  fail    : Nat
  pending : Bool
  tokens  : BitVec 64
  poison  : BitVec 64
  window  : List WinEnt
  misses  : Nat
  rank    : Nat
  streak  : Nat
  deriving DecidableEq, Repr

/-- An event not yet accepted by the ring (R301). -/
structure Event where
  type   : Nat
  status : Nat
  queue  : Nat
  cuff   : Nat
  pseq   : Nat
  info   : Nat
  deriving DecidableEq, Repr

/-- The event ring of a partition (R301, R373). -/
structure Ring where
  addr : Nat
  size : Nat
  eseq : Nat
  held : List Event
  lost : Nat
  deriving DecidableEq, Repr

/-- A buffer's last writer (R298): a launch, by its record number, a packet, or the host. -/
inductive Writer where
  | none
  | launch (lid : Nat)
  | packet
  | host
  deriving DecidableEq, Repr

/-- An entry of the buffer-handle table (R298): its range, as the pieces of physical memory that it is; last writer, the
count of writers so far, and for each cluster the writer it last read after. -/
structure Buf where
  ranges : List (Nat × Nat)
  writer : Writer
  stamp  : Nat
  seen   : SMap Nat
  deriving DecidableEq, Repr

/-- The Fleus executive and what management reaches (R287 to R301, R343, R364, R370 to R375). `boot`, the model's own, is what
the next bring-up meets (log 58); `booting` holds from a reset until the bring-up that follows it; `bootCap` is the power cap of the
boot configuration; `sampleAt` is the cycle of the next power sample; `refused` lists the features that the host link was refused;
`responses` are the device's answers to the host's accesses of the CXL.mem window, a refusal or the bytes read. -/
structure Fleus where
  queues : SMap Queue
  cuffs  : List Nat
  rings  : SMap Ring
  bufs   : SMap Buf
  lids   : Nat
  parts  : SMap Nat
  wear   : List Word
  window : Nat × Nat
  flit68 : Bool
  keys   : List Byte
  cap    : Nat
  bootCap : Nat
  duty   : Nat
  spaced : Bool
  halved : Bool
  holdD  : Bool
  telemetry : List Byte
  sampleAt : Nat
  booting : Bool
  refused : List LinkFeature
  responses : List (Bool × List Byte)
  resets : Nat
  boot   : BringUp
  calLimit : Nat
  rebuild : Bool
  queueSet : List Nat
  replies : List (Bool × List Byte)
  deriving DecidableEq, Repr

/-- The whole device. `up` holds once bring-up has ended (R370), `lost` once the module has not survived a loss (R353). `cyc` is
X.CYC; `fresh`, `uids`, `cur` and `agenda` are the model's own: the counter that free values are applied to, the counter that
numbers tasks and operations from 1, the core that moves, and what befalls the machine from outside or from its hardware's timing,
in order; `images` lists the engine states that context images refer to; `peers` is what this device wrote last to bytes of its
peers' memory (R171); `lcounts` counts the sends and receives of each port, device and tag (R274); `relief` holds the cycle since
which each cluster that is blocked with a full FIFO has been so (R95); of the host's posted writes those before number `ioNext` have
performed, and those that `ioEarly` lists ahead of others (R212). `devnum` is the device's Skovak number. -/
structure State where
  up     : Bool
  lost   : Bool
  cyc    : Nat
  fresh  : Nat
  cur    : Nat
  uids   : Nat
  agenda : List Instr
  devnum : Nat
  cores  : SMap Core
  mem    : SMap Byte
  peers  : SMap Byte
  gtaint : SMap Bool
  err    : List Nat
  ctrs   : SMap Nat
  adds   : List CtrAdd
  tables : SMap Record
  banks  : SMap Bank
  ccache : SMap (List SLine)
  ctlb   : SMap (List TlbEnt)
  discard : SMap Nat
  relief : SMap Nat
  hbm    : Hbm
  watches : SMap Watch
  launches : SMap Launch
  lreqs  : List LnchReq
  veils  : SMap Veil
  links  : List LinkOp
  msgs   : List LinkMsg
  outbox : List LinkMsg
  lcounts : SMap Nat
  images : List EngineState
  stops  : List StopRec
  reports : List Report
  fl     : Fleus
  ports  : SMap Port
  ioNext : Nat
  ioEarly : List Nat
  deriving DecidableEq, Repr

/-- Why the machine stops. -/
inductive Fault where
  /-- A chiplet, the interposer or an HBM4E base die has been lost and the module has not survived it (R353). Raised by
  step. Safe: the manual lets nothing run on after it. -/
  | moduleLost
  deriving DecidableEq, Repr

/-- Why a step has no meaning. -/
inductive Refusal where
  /-- The operation named has no meaning in this model. Raised by exec. Safe. -/
  | notModelled (mnemonic : String)
  /-- An event was said to befall the machine in a state in which the manual does not let it happen. Raised by the
  events' meanings. Safe: the machine never does such a step. -/
  | notEnabled
  deriving DecidableEq, Repr

/-- The Fleus executive at reset: every queue disabled, no Cuff lost, no event ring placed (log 6). -/
def Fleus.start : Fleus :=
  { queues := [], cuffs := [], rings := [], bufs := [], lids := 0, parts := [], wear := List.replicate 21 0
    window := (0, 0), flit68 := false, keys := [], cap := 4400, bootCap := 4400, duty := 16, spaced := false, halved := false, holdD := false
    telemetry := List.replicate 64 0
    sampleAt := 180000, booting := true, refused := [], responses := []
    resets := 0, boot := ⟨true, true, none, false, [], []⟩, calLimit := 100000, rebuild := true, queueSet := [0], replies := [] }

/-- The machine right after reset, before bring-up (R205, R370): every counter 0, no task on any core, memory with
nothing listed, every table entry invalid (log 1). Registers without a reset value in the manual read as zero (log 1); the fields of
queues and management are those of log 6, of banks log 4, of Veil engines log 5. -/
def State.reset : State :=
  { up := false, lost := false, cyc := 0, fresh := 0, cur := 0, uids := 1, agenda := [], devnum := 0, cores := [], mem := [], peers := []
    gtaint := [], err := [], ctrs := [], adds := [], tables := [], banks := [], ccache := [], ctlb := [], discard := [], relief := []
    hbm := ⟨[], [], [], [], [], [], [], 0, [], [], none⟩, watches := [], launches := [], lreqs := [], veils := [], links := [], msgs := []
    outbox := [], lcounts := [], images := [], stops := [], reports := [], fl := Fleus.start, ports := [], ioNext := 0, ioEarly := [] }

end Sys2Proof.Machine
end

