-- ==== Sys2Proof/Machine/Registers.lean ====
section
/-! DEFINITION. The registers of a task: reads and writes with their hard-wired members, values in flight, shapes. -/

namespace Sys2Proof.Machine

/-- A row of zeros, untainted and not poisoned. -/
def RowCell.zero : RowCell := ⟨0, false, none⟩

/-- A core and its task while a bundle of it issues: `s` is the rest of the device, `c` and `t` the working copies. -/
structure Mach where
  s : State
  c : Core
  t : Task

/-- An effect of an operation on the machine. -/
abbrev Act := Mach → Mach

/-- The device with the working copies written back. -/
def Mach.put (m : Mach) : State :=
  { m.s with cores := SMap.put m.s.cores m.s.cur { m.c with task := some m.t } }

/-- The device with the core written back and no task on it. -/
def Mach.putIdle (m : Mach) : State :=
  { m.s with cores := SMap.put m.s.cores m.s.cur { m.c with task := none } }

/-- A changed task. -/
def Mach.onT (m : Mach) (f : Task → Task) : Mach := { m with t := f m.t }
/-- A changed core. -/
def Mach.onC (m : Mach) (f : Core → Core) : Mach := { m with c := f m.c }
/-- A changed device. -/
def Mach.onS (m : Mach) (f : State → State) : Mach := { m with s := f m.s }
/-- Changed special registers. -/
def Mach.onX (m : Mach) (f : XRegs → XRegs) : Mach := m.onT fun t => { t with x := f t.x }
/-- Changed register files. -/
def Mach.onR (m : Mach) (f : Regs → Regs) : Mach := m.onT fun t => { t with regs := f t.regs }

/-! ## Register files -/

/-- Every register at zero (R15). -/
def Regs.zero : Regs := ⟨[], [], 0, [], 0, [], [], []⟩

/-- S[n]; S0 reads as zero (R7). -/
def Regs.sreg (r : Regs) (n : Nat) : Word := if n = 0 then 0 else SMap.get 0 r.s n

/-- S[n] written, poisoned by address `p` or clean; a write to S0 is discarded (R7, R70). -/
def Regs.setSreg (r : Regs) (n : Nat) (v : Word) (p : Option Nat := none) : Regs :=
  if n = 0 then r else
  { r with s := SMap.set 0 r.s n v
           sp := match p with
             | some a => SMap.put r.sp n a
             | none => SMap.del r.sp n }

/-- The address that poisons S[n], if it is poisoned (R70). -/
def Regs.spoison (r : Regs) (n : Nat) : Option Nat := if n = 0 then none else SMap.find r.sp n

/-- P[n]; P0 reads as true (R9). -/
def Regs.preg (r : Regs) (n : Nat) : Bool := n == 0 || r.p.getLsbD n

/-- `w` with bit `n` set to `b`. -/
def putBit {k : Nat} (w : BitVec k) (n : Nat) (b : Bool) : BitVec k :=
  (w &&& ~~~(BitVec.ofNat k (2 ^ n))) ||| (if b then BitVec.ofNat k (2 ^ n) else 0)

/-- P[n] written; a write to P0 is discarded (R9). -/
def Regs.setPreg (r : Regs) (n : Nat) (b : Bool) : Regs := if n = 0 then r else { r with p := putBit r.p n b }

/-- Q[n]; Q0 reads all ones (R100). -/
def Regs.qreg (r : Regs) (n : Nat) : VMask := if n = 0 then BitVec.allOnes 256 else SMap.get 0 r.q n

/-- The taint bit of Q[n] (R129). -/
def Regs.qtaint (r : Regs) (n : Nat) : Bool := n != 0 && r.qt.getLsbD n

/-- Q[n] written with its taint bit; a write to Q0 is discarded (R100). -/
def Regs.setQreg (r : Regs) (n : Nat) (v : VMask) (taint : Bool) : Regs :=
  if n = 0 then r else { r with q := SMap.set 0 r.q n v, qt := putBit r.qt n taint }

/-- H[n] (R194). -/
def Regs.hreg (r : Regs) (n : Nat) : Handle := SMap.get 0 r.h n

/-- H[n] written. -/
def Regs.setHreg (r : Regs) (n : Nat) (v : Handle) : Regs := { r with h := SMap.set 0 r.h n v }

/-- The number of row `r` of tile `t` among all rows. -/
def rowIx (t r : Nat) : Nat := 64 * t + r % 64

/-- Row number `i` (R96). -/
def Regs.row (r : Regs) (i : Nat) : RowCell := SMap.get RowCell.zero r.rows i

/-- Row number `i` written whole. -/
def Regs.setRow (r : Regs) (i : Nat) (c : RowCell) : Regs := { r with rows := SMap.set RowCell.zero r.rows i c }

/-- TS[t] (R97). -/
def Regs.shape (r : Regs) (t : Nat) : Word := SMap.get 0 r.ts t

/-- TS[t] written. -/
def Regs.setShape (r : Regs) (t : Nat) (v : Word) : Regs := { r with ts := SMap.set 0 r.ts t v }

/-- The FMT field of a shape (R97). -/
def shapeFmt (w : Word) : Nat := field w.toNat 0 4
/-- The number of rows of a shape (R97). -/
def shapeRows (w : Word) : Nat := field w.toNat 4 6 + 1

/-! ## Values in flight -/

/-- The row mask that covers the bytes `m` marks, from byte `i` on. -/
def maskBytes (m : VMask) : Nat → Nat → Nat
  | _, 0 => 0
  | i, n + 1 => (if m.getLsbD i then 255 * 2 ^ (8 * i) else 0) + maskBytes m (i + 1) n

/-- The row whose byte b is all ones when bit b of `m` is set. -/
def rowMask (m : VMask) : Row :=
  if m = BitVec.allOnes 256 then BitVec.allOnes 2048 else BitVec.ofNat 2048 (maskBytes m 0 256)

/-- `old` with the bytes `m` marks taken from `new` (R99). -/
def mergeRow (m : VMask) (new old : Row) : Row :=
  let k := rowMask m
  (new &&& k) ||| (old &&& ~~~k)

/-- X.QTROUB saturates (R121). -/
def addTrouble (x : Word) (n : Nat) : Word := BitVec.ofNat 64 (Nat.min (x.toNat + n) (2 ^ 64 - 1))

/-- The errors whose poison a write clears, left to log. -/
def Task.clears (t : Task) (p : Option Nat) : Task :=
  match p with
  | none => t
  | some a => { t with logs := t.logs ++ [a] }

/-- A scalar written over: poison that no trap has delivered is left to log (R70). -/
def Task.overScalar (t : Task) (n : Nat) : Task :=
  { t.clears (if t.told.contains n then none else t.regs.spoison n) with told := t.told.filter fun k => k != n }

/-- A row written, `whole` or in part: poison that goes is left to log (R131). A partial poisoned load over a poisoned row leaves
the row the later address and logs the earlier one (log 50). -/
def Task.writeRow (t : Task) (i : Nat) (c : RowCell) (whole : Bool) : Task :=
  let old := (t.regs.row i).poison
  { t.clears (if !whole && c.poison == old then none else old) with regs := t.regs.setRow i c }

/-- A landed result written to its destination. A row takes its marked bytes; a whole write clears poison, a partial
one keeps it (R70, R99, R131). -/
def Task.land (t : Task) (r : Result) : Task :=
  match r.dest with
  | .s n =>
    { t.overScalar n with regs := t.regs.setSreg n (r.val.setWidth 64) r.poison }
  | .p n => { t with regs := t.regs.setPreg n (r.val.getLsbD 0) }
  | .q n => { t with regs := t.regs.setQreg n (r.val.setWidth 256) r.taint }
  | .h n => { t with regs := t.regs.setHreg n (r.val.setWidth 256) }
  | .row i =>
    let old := t.regs.row i
    let whole := r.mask == BitVec.allOnes 256
    let cell : RowCell :=
      ⟨mergeRow r.mask r.val old.data, r.taint, if whole then r.poison else r.poison <|> old.poison⟩
    t.writeRow i cell whole
  | .trouble => { t with x := { t.x with qtroub := addTrouble t.x.qtroub r.val.toNat } }

/-- Values in flight are kept in the order of their cycles, those of one cycle in issue and slot order (R35). -/
def insertDue (r : Result) : List Result → List Result
  | [] => [r]
  | x :: xs => if x.due ≤ r.due then x :: insertDue r xs else r :: x :: xs

/-- A result put in flight (R33). -/
def Task.fly (t : Task) (r : Result) : Task := { t with flight := insertDue { r with seq := t.seq } t.flight, seq := t.seq + 1 }

/-- A pending-marked result put in flight (R36). -/
def Task.pendOn (t : Task) (p : Pend) : Task := { t with pend := t.pend ++ [{ p with seq := t.seq }], seq := t.seq + 1 }

/-- The exposed results that `f` marks, landed (R33, R35). -/
def Task.landIf (f : Result → Bool) (t : Task) : Task :=
  { (t.flight.filter f).foldl Task.land t with flight := t.flight.filter fun r => !f r }

/-- Every exposed result readable before cycle `lim`, landed (R33, R35). -/
def Task.landFlight (lim : Nat) (t : Task) : Task := t.landIf fun r => decide (r.due < lim)

/-- Whether a result in flight lands before one that was put in flight as number `q` and lands in cycle `d` (R35). -/
def Result.before (d q : Nat) (r : Result) : Bool := decide (r.due < d) || (r.due == d && decide (r.seq < q))

/-- A 64-bit result for S[d], `lat` cycles after issue (R34). -/
def Mach.flyS (m : Mach) (lat : Nat) (d : Nat) (v : Word) : Mach :=
  m.onT fun t => t.fly ⟨.s d, v.setWidth 2048, BitVec.allOnes 256, false, none, m.s.cyc + lat, 0⟩

/-- A predicate result and its negation for P[d] and P[d+1] (R9). -/
def Mach.flyP (m : Mach) (lat : Nat) (d : Nat) (b : Bool) : Mach :=
  m.onT fun t =>
    (t.fly ⟨.p d, if b then 1 else 0, 0, false, none, m.s.cyc + lat, 0⟩).fly
      ⟨.p (d + 1), if b then 0 else 1, 0, false, none, m.s.cyc + lat, 0⟩

/-- A pair of vector predicates with their taint (R100). -/
def Mach.flyQ (m : Mach) (lat : Nat) (d : Nat) (v w : VMask) (taint : Bool) : Mach :=
  m.onT fun t =>
    (t.fly ⟨.q d, v.setWidth 2048, 0, taint, none, m.s.cyc + lat, 0⟩).fly
      ⟨.q (d + 1), w.setWidth 2048, 0, taint, none, m.s.cyc + lat, 0⟩

/-- A handle result (R78). -/
def Mach.flyH (m : Mach) (lat : Nat) (d : Nat) (v : Handle) : Mach :=
  m.onT fun t => t.fly ⟨.h d, v.setWidth 2048, 0, false, none, m.s.cyc + lat, 0⟩

/-- A row result under a byte mask (R99). -/
def Mach.flyRow (m : Mach) (lat : Nat) (i : Nat) (v : Row) (mask : VMask) (taint : Bool) : Mach :=
  m.onT fun t => t.fly ⟨.row i, v, mask, taint, none, m.s.cyc + lat, 0⟩

/-- An increment of X.QTROUB (R121); none when it is zero. -/
def Mach.flyTrouble (m : Mach) (lat : Nat) (n : Nat) : Mach :=
  if n = 0 then m else
  m.onT fun t => t.fly ⟨.trouble, BitVec.ofNat 2048 n, 0, false, none, m.s.cyc + lat, 0⟩

/-- Whether a guard holds (R25). -/
def Regs.guard (r : Regs) (g : Guard) : Bool := r.preg g.gp.toNat != g.gn

/-! ## Initial values -/

/-- An inactive loop level. -/
def Level.off : Level := ⟨0, 0, 0, false⟩
/-- Both levels inactive (R15). -/
def Loops.off : Loops := ⟨Level.off, Level.off, false⟩
/-- Every slot quiet (R15). -/
def StickySet.quiet : StickySet := ⟨none, none, none, none, none⟩
/-- No iteration has decided anything yet. -/
def Flow.none : Flow := ⟨Option.none, Option.none, false, false⟩
/-- No trap has been taken. -/
def Trapped.none : Trapped := ⟨StickySet.quiet, Loops.off, Flow.none⟩
/-- An empty operand copy. -/
def Cap.zero : Cap := ⟨0, 0, 0, 0, 0⟩
/-- Nothing bound: every scale 1, no duplication map (R107, R153). -/
def MBind.none : MBind := ⟨[], false, 0, 0⟩

/-- A core that holds no task, with empty instruction memory and caches. -/
def Core.idle : Core :=
  { task := none, todo := [], saved := [], pick := none, yielded := false, ready := 0, reach := none, mdup := none, wait := none, walk := none, walkBad := none,
    fence := [], ended := false, imem := [], imemErr := [], half0 := .empty, half1 := .empty, stores := [], l1 := [], cc := [],
    tlb := [], steps := [], arrayFree := 0, mops := [], cq0 := [], cq1 := [], qprom0 := 0, qprom1 := 0, forks := [], fifoWait := none,
    mask := none, oprom := 0, lprom := [], sliceEnd := 0, recf := [] }

/-- Core number `k`: chiplet × 128 + cluster × 8 + core. -/
def State.core (s : State) (k : Nat) : Core := SMap.get Core.idle s.cores k

/-- Core number `k` replaced. -/
def State.setCore (s : State) (k : Nat) (c : Core) : State := { s with cores := SMap.put s.cores k c }

/-- The chiplet of core number `k`. -/
def chipletOf (k : Nat) : Nat := k / 128
/-- The number of the cluster of core `k` in the module, 0 to 63. -/
def clusterOf (k : Nat) : Nat := k / 8
/-- X.COORD of core number `k` (R10). -/
def coordOf (k : Nat) : Nat := k / 128 * 256 + k / 8 % 16 * 16 + k % 8

end Sys2Proof.Machine
end

