-- ==== Sys2Proof/Machine/Memory.lean ====
section
/-! DEFINITION. Physical memory: the address map, bytes with their taint granules and error marks, the L1, stores in
the core's buffer, and translation. -/

namespace Sys2Proof.Machine

/-! ## The physical address map (R168) -/

/-- What a physical address names (R168). A hole is named by no row. -/
inductive Region where
  | hbm
  | lpddr
  | rebuild
  | host
  | mmio
  | counter
  | scratch
  | peer
  | hole
  deriving DecidableEq, Repr

/-- The row of R168 that holds physical address `pa`. The own-cluster view is replaced by `canon` before. -/
def regionOf (pa : Nat) : Region :=
  if pa ≤ 0x00B3FFFFFFFF then .hbm
  else if 0x020000000000 ≤ pa ∧ pa ≤ 0x03F3FFFFFFFF then .lpddr
  else if 0x03F400000000 ≤ pa ∧ pa ≤ 0x03FFFFFFFFFF then .rebuild
  else if 0x400000000000 ≤ pa ∧ pa ≤ 0x4FFFFFFFFFFF then .host
  else if 0x7C0000000000 ≤ pa ∧ pa ≤ 0x7C00FFFFFFFF then .mmio
  else if 0x7D0000000000 ≤ pa ∧ pa < 0x7D0000000000 + 8 * 65536 then .counter
  else if 0x7E0000000000 ≤ pa ∧ pa < 0x7E0000000000 + 16 * 2 ^ 20 then .scratch
  else if 0x7F0000000000 ≤ pa ∧ pa < 0x7F0000000000 + 4 * 2 ^ 28 then .scratch
  else if 0x8000000000000 ≤ pa ∧ pa < 0x8000000000000 + 512 * 2 ^ 40 then .peer
  else .hole

/-- Whether an address lies in the own-cluster scratchpad view. -/
def isOwnView (pa : Nat) : Bool := decide (0x7E0000000000 ≤ pa) && decide (pa < 0x7E0000000000 + 16 * 2 ^ 20)

/-- The address that an access of device `dev` to its own peer number is served at: the offset (R171). -/
def localPa (dev pa : Nat) : Nat :=
  if regionOf pa = .peer ∧ (pa - 0x8000000000000) / 2 ^ 40 = dev then pa % 2 ^ 40 else pa

/-- One address for each storage byte: the own-cluster view of cluster `cl` becomes the global view (R168), and an
access to the device's own peer number becomes a local one (R171). -/
def canon (cl dev pa : Nat) : Nat :=
  if isOwnView pa then 0x7F0000000000 + cl / 16 * 2 ^ 28 + cl % 16 * 2 ^ 24 + pa % 2 ^ 24 else localPa dev pa

/-- The chiplet that counter `n` is homed in (R168). -/
def counterHome (n : Nat) : Nat := n % 4
/-- The package that holds an LPDDR-6 address, and the chiplet that serves it (R183). -/
def packageOf (pa : Nat) : Nat := pa / 4096 % 16
def packageChiplet (pa : Nat) : Nat := packageOf pa / 4

/-- The bank, numbered cluster × 16 + bank, of a global scratchpad address. -/
def bankOf (pa : Nat) : Nat := (pa - 0x7F0000000000) / 2 ^ 20 % 1024

/-- Whether an address lies in counter or MMIO space. -/
def isCtrMmio (pa : Nat) : Bool :=
  match regionOf pa with
  | .counter => true
  | .mmio => true
  | _ => false

/-- The same question of a VIRTUAL address: these spaces and the scratchpad views are mapped at equal addresses (R174),
and the span checks of R67, R147 and R231 stand before translation. -/
def isScratch (a : Nat) : Bool := decide (regionOf a = .scratch)

/-- Whether the L1 may hold data of this address (R167, R175). -/
def cacheable (pa : Nat) : Bool :=
  match regionOf pa with
  | .hbm => true
  | .lpddr => true
  | .host => true
  | _ => false

/-! ## Bytes -/

/-- What a byte of memory that nothing has written reads as: log 2. -/
def blank : Byte := 0

/-- One byte of physical memory. -/
def State.byte (s : State) (pa : Nat) : Byte := SMap.get blank s.mem pa

/-- `n` bytes from `pa` on. -/
def State.bytes (s : State) (pa n : Nat) : List Byte := tabulate s.byte pa n

/-- One byte of a peer's memory: what another agent there has written since this device did, a free value, else what this
device wrote last, else what the peer held before, again a free value (R18, R171, R200, log 51). -/
def State.peerSeen (s : State) (pa : Nat) : Byte :=
  match Config.peerNews s.cyc pa with
  | some b => b
  | none => (SMap.find s.peers pa).getD (Config.peerByte s.cyc pa)

/-- One byte as an access reads it at its home. -/
def State.seen (s : State) (pa : Nat) : Byte := if regionOf pa = .peer then s.peerSeen pa else s.byte pa

/-- The little-endian value of `n` bytes from `pa` on (R3). -/
def State.value (s : State) (pa n : Nat) : Nat := leNat (s.bytes pa n)

/-- Memory with one byte written. -/
def memSet (m : SMap Byte) (pa : Nat) (b : Byte) : SMap Byte := SMap.set blank m pa b

/-- Memory with a run of bytes written from `pa` on; a byte that is `none` is left. -/
def memPut (m : SMap Byte) (pa : Nat) : List (Option Byte) → SMap Byte
  | [] => m
  | some b :: bs => memPut (memSet m pa b) (pa + 1) bs
  | none :: bs => memPut m (pa + 1) bs

/-- A run of bytes listed from `pa` on, zeros among them. -/
def listBytes (m : SMap Byte) (pa : Nat) : List (Option Byte) → SMap Byte
  | [] => m
  | some b :: bs => listBytes (SMap.put m pa b) (pa + 1) bs
  | none :: bs => listBytes m (pa + 1) bs

/-- The canonical form of memory: addresses rise strictly and no entry equals what an unlisted address reads as. -/
abbrev Memory.wf (m : SMap Byte) : Prop := SMap.wf blank m = true

/-- Bytes of the protected word that holds `pa`: 8 in SRAM, the 64-byte sector in HBM4E and LPDDR-6 (R340). -/
def wordBytes (pa : Nat) : Nat := if regionOf pa = .scratch then 8 else 64

/-- The first address of the protected word that holds `pa`. -/
def wordBase (pa : Nat) : Nat := pa / wordBytes pa * wordBytes pa

/-- `x` put into a rising list without repeats. -/
def insertNat (x : Nat) : List Nat → List Nat
  | [] => [x]
  | y :: ys => if x < y then x :: y :: ys else if x = y then y :: ys else y :: insertNat x ys

/-! ### HBM4E chunks and uncorrectable errors (R181, R340, R341, R357) -/

/-- The chunk of an HBM4E address. -/
def chunkOf (pa : Nat) : Nat := pa / 512
/-- The stripe of a chunk. -/
def stripeOf (c : Nat) : Nat := c / 15
/-- The stack that stores a data chunk. -/
def stackOf (c : Nat) : Nat := (c / 15 + 1 + c % 15) % 16
/-- The stack that stores a stripe's parity chunk. -/
def parityStack (s : Nat) : Nat := s % 16
/-- The number of stripes. -/
def stripeCount : Nat := 0x00B400000000 / 7680
/-- The offset of an HBM4E address in its stack. -/
def stackOffset (pa : Nat) : Nat := stripeOf (chunkOf pa) * 512 + pa % 512
/-- The quadrant and the home chiplet of an HBM4E address. -/
def homeOf (pa : Nat) : Nat := field (stackOffset pa) 9 2
/-- The chunks that `n` bytes from `pa` on touch. -/
def chunksIn (pa n : Nat) : List Nat := tabulate id (pa / 512) ((pa + n + 511) / 512 - pa / 512)

/-- The lost stacks whose chunk of stripe `st` has no rebuilt copy. -/
def State.gone (s : State) (st : Nat) : List Nat := if st < s.hbm.rebuilt then s.hbm.lost.drop 1 else s.hbm.lost

/-- Whether a chunk's slice holds bytes of it that its stack may not have got yet (R182). -/
def State.inSlice (s : State) (c : Nat) : Bool := s.hbm.dirty.contains c || s.hbm.flight.any fun w => w.chunk == c

/-- Whether an error at word `w` is one of a chunk of HBM4E that the other chunks of its stripe rebuild (R341): none of
them is bad or lost. -/
def State.rebuildable (s : State) (w : Nat) : Bool :=
  let c := chunkOf w
  regionOf w == .hbm && (s.gone (stripeOf c)).isEmpty && !s.hbm.parErr.contains (stripeOf c) &&
    s.err.all fun v => !(regionOf v == .hbm && stripeOf (chunkOf v) == stripeOf c) || chunkOf v == c

/-- Whether a chunk of a lost stack cannot be reconstructed: its stripe has lost a second chunk, or another one of it is bad.
Its slice still gives one that it holds (R354, R357). -/
def State.unreadable (s : State) (c : Nat) : Bool :=
  let st := stripeOf c
  (s.gone st).contains (stackOf c) && !s.inSlice c &&
    (decide (2 ≤ (s.gone st).length) || s.hbm.parErr.contains st ||
      s.err.any fun v => regionOf v == .hbm && stripeOf (chunkOf v) == st)

/-- Where, of `n` bytes from `pa` on, some cannot be read right at their home: in a word with an uncorrectable error that no
rebuild clears, or in a chunk that is lost. -/
def State.badSpots (s : State) (pa n : Nat) : List Nat :=
  (s.err.filter fun w => decide (w < pa + n) && decide (pa < w + wordBytes w) && !s.rebuildable w).map (Nat.max pa) ++
  (s.hbm.errs.filter fun w => decide (w < pa + n) && decide (pa < w + 8)).map (Nat.max pa) ++
  if s.hbm.lost.isEmpty || regionOf pa != .hbm then [] else ((chunksIn pa n).filter s.unreadable).map fun c => Nat.max pa (512 * c)

/-- Whether any of `n` bytes from `pa` on cannot be read right at its home. -/
def State.badRange (s : State) (pa n : Nat) : Bool := !(s.badSpots pa n).isEmpty

/-- The errors that an access to `n` bytes from `pa` on meets, rebuilt and written back (R341). -/
def State.heal (s : State) (pa n : Nat) : State :=
  if s.err.isEmpty then s else
  { s with err := s.err.filter fun w => !((chunksIn pa n).contains (chunkOf w) && s.rebuildable w) }

/-- Whether a write of `bs` at `pa` replaces the whole protected word of `n` bytes at `w` (R340). -/
def coversWord (pa : Nat) (bs : List (Option Byte)) (n w : Nat) : Bool :=
  decide (pa ≤ w) && decide (w + n ≤ pa + bs.length) && ((bs.drop (w - pa)).take n).all Option.isSome

/-! ### Stored data and parity (R181, R182) -/

/-- The HBM state changed. -/
def State.onHbm (s : State) (f : Hbm → Hbm) : State := { s with hbm := f s.hbm }

/-- A chunk's 512 bytes as its slice shows them. -/
def chunkBytes (s : State) (c : Nat) : List Byte := s.bytes (512 * c) 512

/-- Bytes `i` by `i` combined by exclusive or. -/
def xorBytes (a b : List Byte) : List Byte := List.zipWith (fun x y => x ^^^ y) a b

/-- 512 bytes of a stored map from `512 * k` on. -/
def storedAt (m : SMap Byte) (k : Nat) : List Byte := tabulate (SMap.get blank m) (512 * k) 512

/-- 512 bytes put into a stored map. -/
def storeAt (m : SMap Byte) (k : Nat) (bs : List Byte) : SMap Byte := memPut m (512 * k) (bs.map some)

/-- Where the rebuilt copy of stripe `st` lies, as a chunk number of memory (R356). -/
def copyChunk (st : Nat) : Nat := 0x03F400000000 / 512 + st

/-- Whether a stack is lost. -/
def Hbm.isLost (h : Hbm) (k : Nat) : Bool := h.lost.contains k
/-- Whether the lost chunk of a stripe has its copy. -/
def Hbm.copied (h : Hbm) (st : Nat) : Bool := decide (st < h.rebuilt) && decide (st < stripeCount)

/-- The stored data of a chunk in its stack, or in its stripe's copy. -/
def storedChunk (s : State) (c : Nat) : List Byte :=
  if s.hbm.isLost (stackOf c) && s.hbm.copied (stripeOf c) then storedAt s.mem (copyChunk (stripeOf c)) else storedAt s.hbm.data c

/-- The stored parity of a stripe, or its copy. -/
def storedParity (s : State) (st : Nat) : List Byte :=
  if s.hbm.isLost (parityStack st) && s.hbm.copied st then storedAt s.mem (copyChunk st) else storedAt s.hbm.parity st

/-- 512 bytes put into a stripe's copy; no watch is marked (R356). -/
def putCopy (s : State) (st : Nat) (bs : List Byte) : State := { s with mem := storeAt s.mem (copyChunk st) bs }

/-- A chunk's stored data replaced. -/
def putChunk (s : State) (c : Nat) (bs : List Byte) : State :=
  if s.hbm.isLost (stackOf c) then (if s.hbm.copied (stripeOf c) then putCopy s (stripeOf c) bs else s)
  else s.onHbm fun h => { h with data := storeAt h.data c bs }

/-- A parity delta taken into a stripe's parity. -/
def addParity (s : State) (st : Nat) (delta : List Byte) : State :=
  let new := xorBytes (storedParity s st) delta
  if s.hbm.isLost (parityStack st) then (if s.hbm.copied st then putCopy s st new else s)
  else s.onHbm fun h => { h with parity := storeAt h.parity st new }

/-- The data chunks of a stripe. -/
def chunksOf (st : Nat) : List Nat := tabulate id (15 * st) 15

/-- A chunk rebuilt from the other chunks of its stripe (R354). -/
def rebuiltChunk (s : State) (c : Nat) : List Byte :=
  ((chunksOf (stripeOf c)).filter fun d => d != c).foldl (fun acc d => xorBytes acc (storedChunk s d)) (storedParity s (stripeOf c))

/-- A stripe's parity rebuilt from its data chunks. -/
def rebuiltParity (s : State) (st : Nat) : List Byte :=
  (chunksOf st).foldl (fun acc d => xorBytes acc (storedChunk s d)) (List.replicate 512 0)

/-- The chunks of data that a slice has room for: 506 MiB (R180). -/
def sliceRoom : Nat := 506 * 2048

/-- A dirty chunk written back whole: its data and its parity delta acknowledged (R182). -/
def State.writeDown (s : State) (c : Nat) : State :=
  let new := chunkBytes s c
  let old := if s.hbm.isLost (stackOf c) && !s.hbm.copied (stripeOf c) then rebuiltChunk s c else storedChunk s c
  (putChunk (addParity s (stripeOf c) (xorBytes old new)) c new).onHbm fun h => { h with dirty := h.dirty.filter fun d => d != c }

/-- A slice that is full of dirty chunks writes one back before it takes another (R180): the first that holds no error and has
no write-back of its stripe in flight. -/
def State.makeRoom (s : State) (c : Nat) : State :=
  let h := s.hbm
  let ds := h.dirty.filter fun d => stackOf d == stackOf c
  if h.dirty.length < sliceRoom || decide (ds.length < sliceRoom) then s
  else match ds.find? fun d => !(h.errs.any fun w => chunkOf w == d) && !h.flight.any fun w => stripeOf w.chunk == stripeOf d with
    | some d => s.writeDown d
    | none => s

/-- A chunk taken into its slice to be written: an error of its stored data is rebuilt first, or else stays with the words of
the sector that it lies in (R340, R341). -/
def State.openChunk (s : State) (c : Nat) : State :=
  if s.hbm.dirty.contains c then s
  else
    let s := (s.makeRoom c).heal (512 * c) 1
    let bad := s.err.filter fun w => regionOf w == .hbm && chunkOf w == c
    { s with err := s.err.filter fun w => !bad.contains w
             hbm := { s.hbm with dirty := insertNat c s.hbm.dirty
                                 errs := bad.foldl (fun es w => (tabulate (fun i => w + 8 * i) 0 8).foldl (fun es a => insertNat a es) es) s.hbm.errs } }

/-! ### Tiles, watches and writes (R302, R306, R307) -/

/-- The trace tile of a physical address (R302): 64 KiB of HBM4E or LPDDR-6. -/
def tileOf (pa : Nat) : Option Nat :=
  match regionOf pa with
  | .hbm => some (pa / 2 ^ 16)
  | .lpddr => some (pa / 2 ^ 16)
  | .rebuild => some (pa / 2 ^ 16)
  | _ => none

/-- A place that Fleus reserves in HBM4E (log 15): the `off`-th tile of a free 4 MiB block. Places with different `off` share
no byte. -/
def fleusPlace (i off : Nat) : Nat := Config.fleusAddress i % 0x2D000 * 2 ^ 22 + off * 65536
/-- The first byte of map `i`, 0 to 7, of the Veil engines after `resets` resets: 256 KiB (R255). -/
def mapBase (resets i : Nat) : Nat := fleusPlace (24 * resets + i) (4 * i)
/-- The first byte of the orphan list of watch `w`: a trace tile (R311). -/
def orphanBase (w : Nat) : Nat := fleusPlace (8 + w) (32 + w)

/-- The physical ranges of a launch's trace buffer, page by page: first address, and the one after the last. -/
def Launch.traceRanges (x : Launch) : List (Nat × Nat) :=
  if x.desc.trace = 0 then [] else
  x.tbase.map fun (v, p) => (p + (x.desc.trace - 65536 * v), p + Nat.min 65536 (x.desc.trace + 512 * x.desc.ntask - 65536 * v))

/-- The trace buffers and orphan lists, writes to which are neither recorded nor watched (R306). -/
def State.quietRanges (s : State) : List (Nat × Nat) :=
  s.launches.flatMap (fun e => e.2.traceRanges) ++
    ((tabulate id 0 16).filter fun w => ((SMap.find s.watches w).map fun x => x.bound.isSome) == some true).map fun w =>
      (orphanBase w, orphanBase w + 65536)

/-- The first address from `a` on that no range of a list holds, looked for `n` times. -/
def beyond (rs : List (Nat × Nat)) : Nat → Nat → Nat
  | 0, a => a
  | n + 1, a => beyond rs n (rs.foldl (fun a r => if r.1 ≤ a ∧ a < r.2 then r.2 else a) a)

/-- Whether every address from `a` to before `b` lies in a trace buffer or an orphan list. -/
def State.quiet (s : State) (a b : Nat) : Bool := decide (b ≤ beyond s.quietRanges s.quietRanges.length a)

/-- What `n` bytes from `pa` on cover of each tile that they touch: first address, and the one after the last. -/
def tileParts (pa n : Nat) : List (Nat × Nat) :=
  tabulate (fun k => (Nat.max pa (65536 * k), Nat.min (pa + n) (65536 * k + 65536))) (pa / 65536)
    ((pa + n + 65535) / 65536 - pa / 65536)

/-- The watches with the tile of `pa` marked in every bound one, but for writes that carry the bound launch's
identifier (R307). `tag` is the writing launch's record number, if any. -/
def markWatches (ws : SMap Watch) (tag : Option Nat) (pa : Nat) : SMap Watch :=
  match tileOf pa with
  | none => ws
  | some t => ws.map fun (i, w) =>
      (i, match w.bound with
          | some l => if tag = some l then w else { w with dirty := insertNat t w.dirty }
          | none => w)

/-- The tiles of a write of `n` bytes marked. -/
def State.marked (s : State) (tag : Option Nat) (pa n : Nat) : SMap Watch :=
  if s.watches.isEmpty then s.watches
  else ((tileParts pa n).filter fun a => !s.quiet a.1 a.2).foldl (fun ws a => markWatches ws tag a.1) s.watches

/-- A write performed at its home, a peer's if it lies in peer memory: bytes, the errors that it clears or that are rebuilt first,
chunks that become dirty in their slices, watch marks (R180, R307, R340). -/
def State.write (s : State) (tag : Option Nat) (pa : Nat) (bs : List (Option Byte)) : State :=
  if bs.all Option.isNone then s else
  if regionOf pa = .peer then { s with peers := listBytes s.peers pa bs } else
  let s := if regionOf pa = .hbm then (chunksIn pa bs.length).foldl State.openChunk s else s
  { s with mem := memPut s.mem pa bs
           err := s.err.filter fun w => !coversWord pa bs (wordBytes w) w
           hbm := { s.hbm with errs := s.hbm.errs.filter fun w => !coversWord pa bs 8 w }
           watches := s.marked tag pa bs.length }

/-- The errors of the protected words that are replaced whole cleared, as `f` says of a word and its length (R340). -/
def State.mend (f : Nat → Nat → Bool) (s : State) : State :=
  { s with err := s.err.filter fun w => !f w (wordBytes w)
           hbm := { s.hbm with errs := s.hbm.errs.filter fun w => !f w 8 } }

/-- Whole bytes written. -/
def State.writeAll (s : State) (tag : Option Nat) (pa : Nat) (bs : List Byte) : State := s.write tag pa (bs.map some)

/-- An uncorrectable error at the protected word of an address: in HBM4E, of the slice where that holds the chunk to be written
back, else of the stack; a lost stack holds none (R340, R354). -/
def State.spoil (s : State) (a : Nat) : State :=
  match regionOf a with
  | .hbm =>
    if s.inSlice (chunkOf a) then { s with hbm := { s.hbm with errs := insertNat (a / 8 * 8) s.hbm.errs } }
    else if s.hbm.isLost (stackOf (chunkOf a)) && !s.hbm.copied (stripeOf (chunkOf a)) then s
    else { s with err := insertNat (wordBase a) s.err }
  | .lpddr => { s with err := insertNat (wordBase a) s.err }
  | .rebuild => { s with err := insertNat (wordBase a) s.err }
  | .scratch => { s with err := insertNat (wordBase a) s.err }
  | _ => s

/-- The taint bit of the granule of `pa`; memory beyond the cluster SRAM carries none (R148). -/
def State.taintAt (s : State) (pa : Nat) : Bool := SMap.get false s.gtaint (pa / 64)

/-- The OR of the taint of the granules of `n` bytes from `pa` on. -/
def State.taintRange (s : State) (pa n : Nat) : Bool :=
  !s.gtaint.isEmpty && (tabulate (fun g => SMap.get false s.gtaint g) (pa / 64) ((pa + n + 63) / 64 - pa / 64)).any id

/-- Taint of a write into the scratchpad granules it touches: a granule only partly written ORs in its old bit (R148,
R217). -/
def taintPut (g : SMap Bool) (pa : Nat) (bs : List (Option Byte)) (t : Bool) : Nat → SMap Bool
  | 0 => g
  | n + 1 =>
    let k := pa / 64 + n
    let lo := 64 * k
    let part := ((bs.drop (lo - pa)).take (if lo < pa then lo + 64 - pa else 64)).map Option.isSome
    let g' :=
      if part.any id then
        let whole := decide (pa ≤ lo) && decide (lo + 64 ≤ pa + bs.length) && part.all id
        SMap.set false g k (t || (!whole && SMap.get false g k))
      else g
    taintPut g' pa bs t n

/-- A write together with its taint. -/
def State.writeTaint (s : State) (tag : Option Nat) (pa : Nat) (bs : List (Option Byte)) (t : Bool) : State :=
  let s := s.write tag pa bs
  if regionOf pa = .scratch then
    { s with gtaint := taintPut s.gtaint pa bs t ((pa + bs.length + 63) / 64 - pa / 64) }
  else s

/-- A tile that its core's filter does not hold for its kind recorded in cycle `now` (R303, R304): it extends the latest record of
the kind, or opens a new one; a 57th record sets ALL instead (R306). -/
def Task.recordTile (wr : Bool) (now : Nat) (t : Task) (tile : Nat) : Task :=
  let more (r : TraceRec) : Bool := r.tile + r.run == tile && decide (r.run < 4096)
  let rev := t.recs.reverse
  match rev.findIdx? fun r => r.wr == wr with
  | some i =>
    if (rev[i]?.map more).getD false then { t with recs := (modifyAt (fun r => { r with run := r.run + 1 }) rev i).reverse }
    else if t.recs.length < 56 then { t with recs := t.recs ++ [⟨tile, 1, wr, now⟩] } else { t with recAll := true }
  | none => if t.recs.length < 56 then { t with recs := t.recs ++ [⟨tile, 1, wr, now⟩] } else { t with recAll := true }

/-- A core's record filter and a task of it, with which its accesses are recorded (R304). -/
abbrev Recorder := List (Nat × Bool) × Task

/-- An access to a tile taken through the filter; after ALL nothing is recorded (R304, R306). -/
def Recorder.tile (wr : Bool) (now : Nat) (r : Recorder) (tile : Nat) : Recorder :=
  if r.2.recAll || r.1.contains (tile, wr) then r
  else ((if r.1.length < 64 then r.1 else r.1.drop 1) ++ [(tile, wr)], r.2.recordTile wr now tile)

/-- An access of `n` bytes at physical address `pa` recorded in a traced task (R303); not of a trace buffer or an orphan
list (R306). -/
def Recorder.access (s : State) (wr : Bool) (pa n : Nat) (r : Recorder) : Recorder :=
  if !r.2.traced || n == 0 then r else
  (tileParts pa n).foldl (fun r a => match tileOf a.1 with
    | some k => if wr && s.quiet a.1 a.2 then r else r.tile wr s.cyc k
    | none => r) r

/-- An access of the issuing task recorded. -/
def Mach.record (wr : Bool) (pa n : Nat) (m : Mach) : Mach :=
  let r := Recorder.access m.s wr pa n (m.c.recf, m.t)
  { m with c := { m.c with recf := r.1 }, t := r.2 }

/-! ## Peers (R360) -/

/-- A port before link training: down, no errors (R278, R370). -/
def Port.start : Port := ⟨0, 0, 0, 0⟩

/-- Port `p`. -/
def State.port (s : State) (p : Nat) : Port := SMap.get Port.start s.ports p

/-- The first port an access to peer memory tries (R360). -/
def peerPort0 (pa : Nat) : Nat := (field pa 16 5 + (pa - 0x8000000000000) / 2 ^ 40) % 32

/-- The port an access to peer memory uses: the first, from p0 on, that is up (R360). -/
def peerPort (s : State) (pa : Nat) : Option Nat :=
  firstFrom (fun k => (s.port (k % 32)).state != 0) (peerPort0 pa) 32 |>.map (· % 32)

/-! ## Banks -/

/-- A bank as reset leaves it (log 4): banks 0 to 11 cache, 12 to 15 reserve (R176). -/
def Bank.start (b : Nat) : Bank := ⟨if b % 16 < 12 then .cache else .reserve, none, none, [], false⟩

/-- Bank number cluster × 16 + bank. -/
def State.bank (s : State) (b : Nat) : Bank := (SMap.find s.banks b).getD (Bank.start b)

/-- A bank replaced. -/
def State.setBank (s : State) (b : Nat) (x : Bank) : State := { s with banks := SMap.put s.banks b x }

/-- The partition of a cluster; the whole module is partition 0 unless the boot configuration says otherwise (log 6). -/
def State.partOf (s : State) (cl : Nat) : Nat := SMap.get 0 s.fl.parts cl

/-- Whether the bank of a scratchpad address serves as scratchpad to core `k` (R179): it is in that mode, and no other
partition owns it. -/
def State.bankOk (s : State) (k pa : Nat) : Bool :=
  regionOf pa != .scratch || ((s.bank (bankOf pa)).mode == .scratchpad && s.partOf (bankOf pa / 16) == s.partOf (clusterOf k))

/-- Whether an address lies in host memory that the link does not reach: 68-byte flit mode has no CXL.cache (R363; an access then
ends in PROT, DESIGN CHOICE, log 70). -/
def State.hostOff (s : State) (pa : Nat) : Bool := s.fl.flit68 && regionOf pa == .host

/-! ## The store buffer of a core (R18, R200) -/

/-- The byte at `pa` as a core's own stores leave it: the newest store of the buffer that covers it. -/
def bufByte (pa : Nat) : List Store → Option Byte
  | [] => none
  | st :: rest =>
    match bufByte pa rest with
    | some b => some b
    | none => if st.pa ≤ pa ∧ pa < st.pa + st.bytes.length then (st.bytes.getD (pa - st.pa) none) else none

/-- The byte at `pa` as memory beyond the caches shows it with this core's own buffered stores (R18). -/
def Mach.ownByte (m : Mach) (pa : Nat) : Byte := (bufByte pa m.c.stores).getD (m.s.byte pa)

/-- A store performed at its home. -/
def performStore (s : State) (tag : Option Nat) (st : Store) : State :=
  match st.taint with
  | some t => s.writeTaint tag st.pa st.bytes t
  | none => s.write tag st.pa st.bytes

/-- A core's stores performed in order. -/
def performStores (tag : Option Nat) : List Store → State → State
  | [], s => s
  | st :: rest, s => performStores tag rest (performStore s tag st)

/-- Memory as this core's own program order shows it: its buffered stores performed (R18). -/
def Mach.settled (m : Mach) : State := if m.c.stores.isEmpty then m.s else performStores none m.c.stores m.s

/-- The line addresses that `n` bytes from `pa` on touch, rising. -/
def linesIn (pa n : Nat) : List Nat := tabulate id (pa / 64) ((pa + n + 63) / 64 - pa / 64)

/-! ## The cluster caches (R167, R176, R177, R202, R225) -/

/-- The lines of a cluster's cache. -/
def State.cc (s : State) (cl : Nat) : List SLine := SMap.get [] s.ccache cl

/-- The lines of a cluster's cache replaced. -/
def State.setCc (s : State) (cl : Nat) (ls : List SLine) : State := { s with ccache := SMap.set [] s.ccache cl ls }

/-- The line of a cluster's cache with a line address. -/
def ccFind (ls : List SLine) (line : Nat) : Option SLine := ls.find? fun x => x.line == line

/-- Whether a line holds bytes that its home has not got yet. -/
def SLine.dirty (x : SLine) : Bool := x.since.isSome

/-- A line's newer bytes over older ones. -/
def overlay (new : List (Option Byte)) (old : List Byte) : List Byte :=
  if new.isEmpty then old else List.zipWith (fun n o => n.getD o) new old

/-- A line without newer bytes. -/
def SLine.clean (x : SLine) : SLine := { x with new := [], since := none, err := [] }

/-- A dirty line written back to the level below, an uncorrectable error with it (R177, R340). -/
def State.writeBack (s : State) (x : SLine) : State :=
  if x.dirty then x.err.foldl State.spoil (s.write (some x.tag) (64 * x.line) x.new) else s

/-- The lines of a cluster's cache that `f` marks written back. -/
def State.ccClean (s : State) (cl : Nat) (f : SLine → Bool) : State :=
  if s.ccache.isEmpty then s else
  ((s.cc cl).foldl (fun s x => if f x then s.writeBack x else s) s).setCc cl
    ((s.cc cl).map fun x => if f x then x.clean else x)

/-- The lines of a cluster's cache that `f` marks written back and invalidated. -/
def State.ccDrop (s : State) (cl : Nat) (f : SLine → Bool) : State :=
  if s.ccache.isEmpty then s else
  ((s.cc cl).foldl (fun s x => if f x then s.writeBack x else s) s).setCc cl ((s.cc cl).filter fun x => !f x)

/-- What an acquire beyond the cluster leaves of its cache: no clean line, and in a dirty one only its newer bytes and what its
home now holds (R202). -/
def State.ccAcquire (s : State) (cl : Nat) : State :=
  if s.ccache.isEmpty then s else
  s.setCc cl (((s.cc cl).filter SLine.dirty).map fun x => { x with data := overlay x.new (s.bytes (64 * x.line) 64) })

/-- Whether a line touches `n` bytes from `pa` on. -/
def lineMeets (pa n line : Nat) : Bool := decide (pa < 64 * line + 64) && decide (64 * line < pa + n)

/-- The cluster's lines under `n` bytes written back and invalidated: what an engine or an atomic does first that is about
to reach these bytes at their home (R208, R209). -/
def State.ccEvict (s : State) (cl pa n : Nat) : State := s.ccDrop cl fun x => lineMeets pa n x.line

/-- Bytes that an engine operation of cluster `cl` and launch `lid` writes: at their home, and the cluster's cache keeps no copy
of their lines (R209). -/
def State.engineWrite (s : State) (cl lid pa : Nat) (bs : List Byte) : State := (s.ccEvict cl pa bs.length).writeAll (some lid) pa bs

/-- Whether runs of bits, each a first bit and a width, cover every bit of the byte at `pa`. -/
def coversByte (rs : List (Nat × Nat)) (pa : Nat) : Bool :=
  (List.range 8).all fun b => rs.any fun r => decide (r.1 ≤ 8 * pa + b) && decide (8 * pa + b < r.1 + r.2)

/-- The errors cleared of the protected words that an engine's runs of bits replace whole, taken together (R340). -/
def State.mendRuns (rs : List (Nat × Nat)) (s : State) : State :=
  if s.err.isEmpty && s.hbm.errs.isEmpty then s else s.mend fun w n => (tabulate id w n).all (coversByte rs)

/-- The banks of a cluster in cache mode. -/
def State.cacheBanks (s : State) (cl : Nat) : List Nat :=
  (tabulate id (16 * cl) 16).filter fun b => (s.bank b).mode == .cache

/-- Whether a line may be allocated in a cache: its memory is one that caches hold, and reads right at its home. -/
def State.fillable (s : State) (line : Nat) : Bool := cacheable (64 * line) && !s.badRange (64 * line) 64

/-- The lines of a full bank with one clean line less, which the implementation chooses (log 52); `none` where all are dirty. -/
def ccVictim (k bank : Nat) (ls : List SLine) : Option (List SLine) :=
  let cs := ls.filter fun x => x.bank == bank && !x.dirty
  (cs[Config.ccVictim k % cs.length]?).map fun v => ls.filter fun x => x.line != v.line

/-- A line read at its home, where an error that its stripe rebuilds is rebuilt (R341), and brought into a cluster's cache, into the
bank that it hashes to (R176, log 52); 16,384 fill a bank. -/
def State.ccFill (s : State) (cl line : Nat) : State :=
  let ls := s.cc cl
  if (ccFind ls line).isSome then s else
  let s := s.heal (64 * line) 64
  let banks := s.cacheBanks cl
  if banks.isEmpty || !s.fillable line then s
  else
    let bank := banks.getD (Config.bankHash line % banks.length) 0
    let new : SLine := ⟨line, bank, s.bytes (64 * line) 64, [], 0, none, 0, []⟩
    if ls.countP (fun x => x.bank == bank) < 16384 then s.setCc cl (ls ++ [new])
    else match ccVictim s.fresh bank ls with
      | some ls => ({ s with fresh := s.fresh + 1 }).setCc cl (ls ++ [new])
      | none => s

/-- The bytes of a line that a store of `bs` at `pa` replaces. -/
def lineBytes (pa : Nat) (bs : List (Option Byte)) (line : Nat) : List (Option Byte) :=
  tabulate (fun a => if pa ≤ a then bs.getD (a - pa) none else none) (64 * line) 64

/-- A line of a cluster's cache with a store of launch `lid` in it. -/
def SLine.put (x : SLine) (lid issue due : Nat) (pa : Nat) (bs : List (Option Byte)) : SLine :=
  let nb := lineBytes pa bs x.line
  { x with data := overlay nb x.data
           new := if x.new.isEmpty then nb else List.zipWith (fun n o => n <|> o) nb x.new
           tag := lid
           since := x.since <|> some issue
           due := if x.dirty then x.due else due
           err := x.err.filter fun w => !coversWord pa bs 8 w }

/-- The part of a store that lies in a line performed in the cluster's cache, or at its home where that holds no such line. A
store of another launch first writes the line back (R307). -/
def State.ccStore (s : State) (k lid : Nat) (st : Store) (line : Nat) : State :=
  let cl := clusterOf k
  let s := s.ccFill cl line
  match ccFind (s.cc cl) line with
  | none => s.write (some lid) (64 * line) (lineBytes st.pa st.bytes line)
  | some x =>
    let s := if x.dirty && x.tag != lid then s.ccClean cl fun y => y.line == line else s
    let due := s.cyc + 1 + Config.extraLatency s.fresh
    ({ s with fresh := s.fresh + 1 }).setCc cl
      ((s.cc cl).map fun (y : SLine) => if y.line = line then y.put lid st.issue due st.pa st.bytes else y)

/-- Whether a cluster's cache holds a store that was issued before cycle `lim` and has not reached its home (R200, R202). -/
def State.ccHolds (s : State) (cl lim : Nat) : Bool :=
  (s.cc cl).any fun x => match x.since with
    | some i => decide (i < lim)
    | none => false

/-! ## The L1 (R175) -/

/-- The way of the L1 that holds `line`, as its key set × 20 + way. -/
def l1Way (l1 : SMap L1Line) (line : Nat) : Option Nat :=
  if l1.isEmpty then none else
  firstFrom (fun k => match SMap.find l1 k with
    | some x => x.line == line
    | none => false) (line % 256 * 20) 20

/-- The line of the L1 with a line address. -/
def l1Find (l1 : SMap L1Line) (line : Nat) : Option L1Line := (l1Way l1 line).bind (SMap.find l1)

/-- The largest re-reference value of a set. -/
def l1Max (l1 : SMap L1Line) (set : Nat) : Nat :=
  (tabulate (fun k => match SMap.find l1 k with
    | some x => x.v
    | none => 0) (set * 20) 20).foldl Nat.max 0

/-- The values of a set raised so that the largest becomes 7 (R175). -/
def l1Age (l1 : SMap L1Line) (set by_ : Nat) : SMap L1Line :=
  l1.map fun (k, x) => (k, if k / 20 = set then { x with v := x.v + by_ } else x)

/-- The victim: an empty way, else the lowest way with v = 7 after aging (R175). -/
def l1Victim (l1 : SMap L1Line) (set : Nat) : SMap L1Line × Nat :=
  match firstFrom (fun k => (SMap.find l1 k).isNone) (set * 20) 20 with
  | some k => (l1, k)
  | none =>
    let l1 := l1Age l1 set (7 - l1Max l1 set)
    (l1, (firstFrom (fun k => match SMap.find l1 k with
      | some x => x.v == 7
      | none => false) (set * 20) 20).getD (set * 20))

/-- Whether a line of the L1 holds bytes that the level below has not got yet. -/
def L1Line.dirty (x : L1Line) : Bool := x.since.isSome

/-- An uncorrectable error of an 8-byte word that a line of the L1 takes down with it: to the line of the cluster's cache, or to
its home (R340). -/
def State.ccSpoil (s : State) (cl w : Nat) : State :=
  match ccFind (s.cc cl) (w / 64) with
  | some _ => s.setCc cl ((s.cc cl).map fun x => if x.line = w / 64 then { x with err := insertNat w x.err } else x)
  | none => s.spoil w

/-- A dirty line of core `k`'s L1 written back to its cluster's cache, with its errors (R175, R340). -/
def State.l1Down (s : State) (k lid : Nat) (x : L1Line) : State :=
  match x.since with
  | some i => x.err.foldl (fun s w => s.ccSpoil (clusterOf k) w) (s.ccStore k lid ⟨64 * x.line, x.new, none, i, false⟩ x.line)
  | none => s

/-- The lines of the core's L1 that `f` marks written back; one with an error is then given up. -/
def Mach.l1Back (f : L1Line → Bool) (m : Mach) : Mach :=
  { m with s := m.c.l1.foldl (fun s e => if f e.2 then s.l1Down m.s.cur m.t.lid e.2 else s) m.s
           c := { m.c with l1 := (m.c.l1.filter fun e => !(f e.2 && !e.2.err.isEmpty)).map fun e =>
             (e.1, if f e.2 then { e.2 with new := [], since := none } else e.2) } }

/-- The lines of the core's L1 that `f` marks written back and invalidated. -/
def Mach.l1Leave (f : L1Line → Bool) (m : Mach) : Mach :=
  (m.l1Back f).onC fun c => { c with l1 := c.l1.filter fun e => !f e.2 }

/-- The bytes of a line in the nearest cache that holds it (R167). -/
def Mach.cached (m : Mach) (line : Nat) : Option (List Byte) :=
  match l1Find m.c.l1 line with
  | some x => some x.data
  | none => (ccFind (m.s.cc (clusterOf m.s.cur)) line).map SLine.data

/-- A byte that a load of this core returns, where `line` is what the caches hold of its line: its own latest store that has
not performed, else a cache's byte, which nothing keeps up with other agents' writes, else memory (R18, R175, R200). -/
def Mach.byteIn (m : Mach) (line : Option (List Byte)) (pa : Nat) : Byte :=
  match bufByte pa m.c.stores, line with
  | some b, _ => b
  | none, some l => l.getD (pa % 64) 0
  | none, none => m.s.seen pa

/-- `n` bytes from `pa` on as a load of this core returns them. -/
def Mach.loadBytes (m : Mach) (pa n : Nat) : List Byte :=
  let ls := (linesIn pa n).map m.cached
  tabulate (fun a => m.byteIn (ls.getD (a / 64 - pa / 64) none) a) pa n

/-- The byte at `pa` as a load of this core returns it. -/
def Mach.loadByte (m : Mach) (pa : Nat) : Byte := m.byteIn (m.cached (pa / 64)) pa

/-- The value of a load of `n` bytes (R3). -/
def Mach.loadNat (m : Mach) (pa n : Nat) : Nat := leNat (m.loadBytes pa n)

/-- An access to a line with reuse code `c`: a hit sets v to 0, a miss allocates in the L1, whose victim is written back if it is
dirty, and in the cluster's cache, there also with reuse 7 or NA (R69, R175, R176, DESIGN CHOICE, log 52). A line of the cluster's
cache with an error goes no further (R340). -/
def Mach.touch (c : Nat) (m : Mach) (line : Nat) : Mach :=
  match l1Way m.c.l1 line with
  | some k => m.onC fun core => { core with l1 := core.l1.map fun e => (e.1, if e.1 = k then { e.2 with v := 0 } else e.2) }
  | none =>
    let m := m.onS fun s => s.ccFill (clusterOf s.cur) line
    let bad := match ccFind (m.s.cc (clusterOf m.s.cur)) line with
      | some x => !x.err.isEmpty
      | none => !m.s.fillable line
    if c = 7 || bad then m else
    let (l1, k) := l1Victim m.c.l1 (line % 256)
    let data := m.loadBytes (64 * line) 64
    let m := match SMap.find l1 k with
      | some x => m.onS fun s => s.l1Down s.cur m.t.lid x
      | none => m
    m.onC fun core => { core with l1 := SMap.put l1 k ⟨line, if c = 0 then 6 else c, data, [], none, 0, []⟩ }

/-- The lines that `n` bytes from `pa` on touch accessed in rising order. -/
def Mach.touchAll (m : Mach) (pa n c : Nat) : Mach := (linesIn pa n).foldl (Mach.touch c) m

/-- Whether every line of a range hits. -/
def l1Hits (l1 : SMap L1Line) (pa n : Nat) : Bool := (linesIn pa n).all fun line => (l1Way l1 line).isSome

/-- The lines of the L1 with the bytes of a store in them. -/
def l1Store (l1 : SMap L1Line) (pa : Nat) (bs : List (Option Byte)) : SMap L1Line :=
  l1.map fun (k, x) => (k, if lineMeets pa bs.length x.line then
    { x with data := overlay (lineBytes pa bs x.line) x.data, err := x.err.filter fun w => !coversWord pa bs 8 w } else x)

/-! ## Stores that perform (R200, R209) -/

/-- The bytes that a write replaces, as they were, kept for a fork that has not kept them yet (R209). -/
def shieldBytes (mem : SMap Byte) (h : SMap Byte) (pa : Nat) : List (Option Byte) → SMap Byte
  | [] => h
  | some _ :: bs =>
    shieldBytes mem (if (SMap.find h pa).isNone then SMap.put h pa (SMap.get blank mem pa) else h) (pa + 1) bs
  | none :: bs => shieldBytes mem h (pa + 1) bs

/-- A core whose own write is about to perform: its waiting engine operations keep the old bytes (R209). -/
def Core.shield (mem : SMap Byte) (pa : Nat) (bs : List (Option Byte)) (c : Core) : Core :=
  if c.forks.isEmpty then c
  else { c with forks := c.forks.map fun f => { f with hide := shieldBytes mem f.hide pa bs } }

/-- A line of the L1 with a performed store in it, dirty until it is written back. -/
def L1Line.put (x : L1Line) (st : Store) (due : Nat) : L1Line :=
  let nb := lineBytes st.pa st.bytes x.line
  { x with new := List.zipWith (fun n o => n <|> o) nb (x.new ++ List.replicate 64 none)
           since := x.since <|> some st.issue
           due := if x.dirty then x.due else due }

/-- The part of a store that lies in a line performed: in the L1, to be written back after a free time (log 21), or in the
cluster's cache where the L1 holds no such line. -/
def Mach.performLine (st : Store) (m : Mach) (line : Nat) : Mach :=
  match l1Way m.c.l1 line with
  | some k =>
    let due := m.s.cyc + 1 + Config.extraLatency m.s.fresh
    (m.onC fun c => { c with l1 := c.l1.map fun e => (e.1, if e.1 = k then e.2.put st due else e.2) }).onS fun s =>
      { s with fresh := s.fresh + 1 }
  | none => m.onS fun s => s.ccStore s.cur m.t.lid st line

/-- A store that has left the core's buffer performed: one to memory that caches hold in the L1 or the cluster's cache, any other
at its home. -/
def Mach.perform (m : Mach) (st : Store) : Mach :=
  let m := m.onC (Core.shield m.s.mem st.pa st.bytes)
  if cacheable st.pa then (linesIn st.pa st.bytes.length).foldl (Mach.performLine st) m
  else m.onS fun s => performStore s (some m.t.lid) st

/-- The core's buffered stores performed now, and its L1 written back. -/
def Mach.flush (m : Mach) : Mach :=
  (m.c.stores.foldl Mach.perform { m with c := { m.c with stores := [] } }).l1Back fun _ => true

/-- The core's stores of earlier bundles performed now, and the dirty lines of its L1 and its cluster's cache written back: an engine
operation sees what its core was ordered after, and none of its own bundle (R209). -/
def Mach.flushOld (m : Mach) : Mach :=
  let cyc := m.s.cyc
  let m := (m.c.stores.filter fun st => decide (st.issue < cyc)).foldl Mach.perform
    { m with c := { m.c with stores := m.c.stores.filter fun st => !decide (st.issue < cyc) } }
  (m.l1Back fun _ => true).onS fun s => s.ccClean (clusterOf s.cur) fun _ => true

/-- A free value used: the counter it is applied to, and the state with the counter advanced. -/
def Mach.fresh (m : Mach) : Nat × Mach := (m.s.fresh, { m with s := { m.s with fresh := m.s.fresh + 1 } })

/-- The load-to-use time of an access and the machine with its caches updated: `hit` cycles on an L1 hit or, for a vector
access, in scratchpad; else a free number of cycles more (R34, R36, R68, R167). -/
def Mach.loadTime (m : Mach) (pa n hit reuse : Nat) : Nat × Mach :=
  if cacheable pa ∧ l1Hits m.c.l1 pa n then (hit, m.touchAll pa n reuse)
  else if regionOf pa = .scratch ∧ hit = 6 ∧ (pa - 0x7F0000000000) / 2 ^ 24 = clusterOf m.s.cur then (6, m)
  else
    let (k, m) := (if cacheable pa then m.touchAll pa n reuse else m).fresh
    (hit + 1 + Config.extraLatency k, m)

/-! ## Translation (R172, R173) -/

/-- What a walk finds: no translation, or an entry. -/
def rangeHole (pa bits : Nat) : Bool :=
  let last := pa + 2 ^ bits - 1
  regionOf pa == .hole || regionOf last == .hole ||
    (regionOf pa != regionOf last &&
      !(regionOf pa == .lpddr && regionOf last == .rebuild)) ||
    (isOwnView pa != isOwnView last)

/-- A leaf checked: reserved bits, alignment of ADDR, holes (R172). -/
def leafEnt (asn dev va e bits : Nat) : Option TlbEnt :=
  let pa := field e 12 40 * 4096
  if pa % 2 ^ bits ≠ 0 ∨ rangeHole (localPa dev pa) bits then none
  else some ⟨asn, va / 2 ^ bits, bits, pa, bitAt e 2, bitAt e 3, bitAt e 4, bitAt e 5⟩

/-- The level-`lvl` table at `base` walked on, `n` levels remaining (R172). Walks read memory at its home. -/
def walkFrom (s : State) (asn va : Nat) : Nat → Nat → Nat → Option TlbEnt
  | 0, _, _ => none
  | n + 1, lvl, base =>
    let i := if lvl = 4 then field va 16 5 else field va (48 - 9 * lvl) 9
    let e := s.value (base + 8 * i) 8
    if regionOf base ≠ .hbm ∧ regionOf base ≠ .lpddr then none
    else if !bitAt e 0 || field e 6 6 != 0 || field e 52 12 != 0 then none
    else if bitAt e 1 then
      (if lvl < 2 then none else leafEnt asn s.devnum va e (if lvl = 2 then 30 else if lvl = 3 then 21 else 16))
    else if lvl = 4 then none
    else walkFrom s asn va n (lvl + 1) (field e 12 40 * 4096)

/-- The page that Fleus maps for an orphan list: read-only, at its own address, in the tables of the partition that armed the
watch (R311). -/
def orphanPage (s : State) (ptb : Word) (va : Nat) : Option TlbEnt :=
  if s.watches.isEmpty then none else
  (tabulate id 0 16).findSome? fun w => match (SMap.find s.watches w).bind Watch.bound with
    | none => none
    | some l =>
      let mine : Bool := match SMap.find s.launches l with
        | some x => s.launches.any fun e => e.2.part == x.part && e.2.ptb == ptb
        | none => false
      if mine && va / 65536 * 65536 == orphanBase w then some ⟨field ptb.toNat 0 12, va / 65536, 16, orphanBase w, true, false, true, false⟩
      else none

/-- The translation that X.PTB gives an address (R172, R311, R344). -/
def walk (s : State) (ptb : Word) (va : Nat) : Option TlbEnt :=
  walkFrom s (field ptb.toNat 0 12) va 5 0 (field ptb.toNat 12 40 * 4096) <|> orphanPage s ptb va

/-- The first entry of a TLB that matches an address under an ASN (R345). -/
def tlbFind (asn va : Nat) (es : List TlbEnt) : Option TlbEnt :=
  es.find? fun e => e.asn == asn && e.vpn == va / 2 ^ e.bits

/-- The physical address an entry gives. -/
def TlbEnt.phys (e : TlbEnt) (va : Nat) : Nat := e.pa + va % 2 ^ e.bits

/-- A TLB of `cap` entries with one put in front; the oldest leaves when it is full. -/
def tlbFill (cap : Nat) (e : TlbEnt) (es : List TlbEnt) : List TlbEnt := (e :: es).take cap

/-- What translating one address for an access answers. -/
inductive Xlat where
  | ok (pa : Nat) (na : Bool)
  | absent
  | denied
  | miss
  deriving DecidableEq, Repr

/-- A virtual address translated for a read, a write, or both (R172). A miss in the micro-TLB and the cluster TLB waits
for a walk; `walkBad` holds the page a walk has just found absent. -/
def Mach.xlat (m : Mach) (va : Nat) (rd wr : Bool) : Xlat :=
  let asn := field m.t.x.ptb.toNat 0 12
  let chk (e : TlbEnt) : Xlat :=
    if (rd && !e.rd) || (wr && !e.wr) || (!m.t.x.sv && !e.us) then .denied
    else .ok (canon (clusterOf m.s.cur) m.s.devnum (e.phys va)) e.na
  match tlbFind asn va m.c.tlb with
  | some e => chk e
  | none =>
    match tlbFind asn va (SMap.get [] m.s.ctlb (clusterOf m.s.cur)) with
    | some e => chk e
    | none => if m.c.walkBad = some (va / 2 ^ 16) then .absent else .miss

end Sys2Proof.Machine
end

