-- ==== Sys2Proof/Machine/Pending.lean ====
section
/-! DEFINITION. What a task has in flight: pending results and how they land, busy tiles, digests, atomics and forks; and
changing a bank's mode, which what is in flight to it precedes (R33 to R37, R106, R177 to R179, R208, R209, R231 to R233, R334). -/

namespace Sys2Proof.Machine

/-! ## Pending results (R36) -/

/-- A memory-wide value of a counter (R204). -/
def State.ctr (s : State) (i : Nat) : Nat := SMap.get 0 s.ctrs i

/-- Whether a pending result lands before cycle `lim`. An atomic lands only once its home has answered. -/
def Pend.lands (lim : Nat) (p : Pend) : Bool :=
  decide (p.due < lim) && match p.src with
    | .atomic .. => false
    | _ => true

/-- Whether the word of a pending result is to be taken by now. -/
def Pend.reads (now : Nat) (p : Pend) : Bool :=
  match p.read with
  | some r => decide (r ≤ now)
  | none => false

/-- A pending result whose word has been taken: the one its source now holds, unless it was taken before. -/
def Mach.taken (valOf : State → Core → Task → PendSrc → Option Word) (m : Mach) (p : Pend) : Pend :=
  match p.read, valOf m.s m.c m.t p.src with
  | some _, some v => { p with res := p.res.map fun (r : Result) => { r with val := v.setWidth 2048 }, read := none }
  | some _, none => { p with read := none }
  | none, _ => p

/-- A pending result landed: its registers written. -/
def Mach.landPend (valOf : State → Core → Task → PendSrc → Option Word) (m : Mach) (p : Pend) : Mach :=
  let p := m.taken valOf p
  m.onT fun t => p.res.foldl Task.land t

/-- A pending result inserted into a list kept in the order of landing (R35). -/
def insertPend (p : Pend) : List Pend → List Pend
  | [] => [p]
  | x :: xs => if x.due ≤ p.due then x :: insertPend p xs else p :: x :: xs

/-- Pending results in the order in which they land. -/
def sortPends (ps : List Pend) : List Pend := ps.foldl (fun l p => insertPend p l) []

/-- A pending result landed after the exposed ones that come before it (R35). -/
def Mach.landNext (valOf : State → Core → Task → PendSrc → Option Word) (m : Mach) (p : Pend) : Mach :=
  (m.onT (Task.landIf (Result.before p.due p.seq))).landPend valOf p

/-- Whether a result goes to a tile row. -/
def Result.isRow (r : Result) : Bool :=
  match r.dest with
  | .row _ => true
  | _ => false

/-- A pending result's rows landed after the exposed rows that come before them. -/
def Task.landPendRows (t : Task) (p : Pend) : Task :=
  p.res.foldl Task.land (t.landIf fun r => r.isRow && r.before p.due p.seq)

/-- The rows in flight landed, exposed or pending, that come before a result put in flight as number `q` which lands in cycle
`d` (R35). -/
def Task.landRows (d q : Nat) (t : Task) : Task :=
  let now (p : Pend) : Bool := p.res.any Result.isRow && (decide (p.due < d) || (p.due == d && decide (p.seq < q)))
  ((sortPends (t.pend.filter now)).foldl Task.landPendRows { t with pend := t.pend.filter fun p => !now p }).landIf
    fun r => r.isRow && r.before d q

/-- Every result that lands before cycle `lim`, exposed or pending: in the order of their cycles, and within one cycle in the
order of the bundles and slots that put them in flight (R33, R35, R36). -/
def Mach.landAll (valOf : State → Core → Task → PendSrc → Option Word) (lim : Nat) (m : Mach) : Mach :=
  let (now, later) := m.t.pend.partition (Pend.lands lim)
  ((sortPends now).foldl (Mach.landNext valOf) { m with t := { m.t with pend := later } }).onT (Task.landFlight lim)

/-- A pending-marked result put in flight: `lat` cycles to its landing. -/
def Mach.pendS (m : Mach) (src : PendSrc) (lat d : Nat) (v : Word) (poison : Option Nat := none) : Mach :=
  let r : Result := ⟨.s d, v.setWidth 2048, BitVec.allOnes 256, false, poison, 0, 0⟩
  m.onT fun t => t.pendOn ⟨src, [r], m.s.cyc, m.s.cyc + lat, none, none, 0⟩

/-- A word that is read at some cycle from issue to landing put in flight: the landing and the cycle of the read depend on the
free number `k` (log 10, log 24). -/
def Mach.pollS (m : Mach) (src : PendSrc) (k d : Nat) : Mach :=
  let r : Result := ⟨.s d, 0, BitVec.allOnes 256, false, none, 0, 0⟩
  let lat := 1 + Config.extraLatency k
  m.onT fun t => t.pendOn ⟨src, [r], m.s.cyc, m.s.cyc + lat, none, some (m.s.cyc + Config.readCycle k % (lat + 1)), 0⟩

/-- The scalars, handles and rows that are pending. -/
def Task.pendDests (t : Task) : List Dest := t.pend.flatMap fun p => p.res.map Result.dest

/-! ## Busy tiles (R37, R106) -/

/-- Whether an MZERO, MFIN or MTRN keeps a tile busy. -/
def Core.opBusy (c : Core) (t : Nat) : Bool := c.mops.any fun o => o.tiles.contains t

/-- Whether an issued step keeps a tile busy. -/
def Core.stepBusy (c : Core) (t : Nat) : Bool := c.steps.any fun x => x.a == t || x.b == t || x.c == t

/-- Whether a tile is busy. -/
def Core.busy (c : Core) (t : Nat) : Bool := c.opBusy t || c.stepBusy t

/-! ## Digests (R334) -/

/-- One term of a digest: granule address, bytes in their positions, byte mask (R334). -/
def digestTerm (a d m : Nat) : Word :=
  let rot := (BitVec.ofNat 64 d).rotateLeft 17
  mix64 (BitVec.ofNat 64 a ^^^ rot ^^^ (BitVec.ofNat 64 m <<< 56))

/-- The written bytes of one granule: their value in position and their mask. -/
def granule (g va : Nat) (bs : List (Option Byte)) : Nat → Nat × Nat
  | 0 => (0, 0)
  | n + 1 =>
    let b := 7 - n
    let (d, m) := granule g va bs n
    let x := if va ≤ g + b then bs.getD (g + b - va) none else none
    match x with
    | some y => (d + y.toNat * 2 ^ (8 * b), m + 2 ^ b)
    | none => (d, m)

/-- The sum of the terms of a write of `bs` at virtual address `va` (R334): one for each granule it touches. -/
def digestOf (va : Nat) (bs : List (Option Byte)) : Word :=
  (tabulate id (va / 8) ((va + bs.length + 7) / 8 - va / 8)).foldl (fun acc k =>
    let (d, m) := granule (8 * k) va bs 8
    if m = 0 then acc else acc + digestTerm (8 * k) d m) 0

/-- A task changed wherever it is on a core: running, or out of it. -/
def Core.onUid (c : Core) (uid : Nat) (f : Task → Task) : Core :=
  { c with task := c.task.map fun t => if t.uid = uid then f t else t
           saved := c.saved.map fun x => if x.task.uid = uid then { x with task := f x.task } else x }

/-- Whether a core holds the task with a uid, running or out. -/
def Core.hasUid (c : Core) (uid : Nat) : Bool :=
  (match c.task with
   | some t => t.uid == uid
   | none => false) || c.saved.any fun x => x.task.uid == uid

/-- A task changed wherever it is on the machine. -/
def State.onUid (s : State) (uid : Nat) (f : Task → Task) : State :=
  { s with cores := s.cores.map fun (k, c) => (k, if c.hasUid uid then c.onUid uid f else c) }

/-- Accesses of an engine operation of task `uid` on core `k` recorded, each a physical address and a length. -/
def State.record (k uid : Nat) (wr : Bool) (as : List (Nat × Nat)) (s : State) : State :=
  let c := s.core k
  match c.task.toList.find? (fun t => t.uid == uid) <|> (c.saved.find? fun y => y.task.uid == uid).map Saved.task with
  | none => s
  | some t =>
    let r := as.foldl (fun (r : Recorder) a => r.access s wr a.1 a.2) (c.recf, t)
    s.setCore k { c.onUid uid (fun _ => r.2) with recf := r.1 }

/-- The task with a uid. -/
def State.findUid (s : State) (uid : Nat) : Option Task :=
  s.cores.findSome? fun (_, c) =>
    match c.task with
    | some t => if t.uid = uid then some t else (c.saved.find? fun x => x.task.uid == uid).map Saved.task
    | none => (c.saved.find? fun x => x.task.uid == uid).map Saved.task

/-- The task a sub-task's stores fold into: the root of its chain of parents (R88, R334), `n` parents at most. -/
def rootUid (s : State) : Nat → Nat → Nat
  | 0, u => u
  | n + 1, u =>
    match s.findUid u with
    | some t => match t.parent with
      | some p => rootUid s n p
      | none => u
    | none => u

/-- A digest sum folded into the task with a uid, or into the parent at the root of its chain (R334). -/
def State.fold (s : State) (uid : Nat) (v : Word) : State :=
  s.onUid (rootUid s 512 uid) fun t => { t with x := { t.x with dig := t.x.dig + v } }

/-- A store of the issuing task folded (R334). -/
def Mach.fold (m : Mach) (v : Word) : Mach :=
  match m.t.parent with
  | none => m.onX fun x => { x with dig := x.dig + v }
  | some p => m.onS fun s => s.fold p v

/-! ## Atomics (R208, R232, R233) -/

/-- The value AMO stores (R232). -/
def AmoOp.apply (o : AmoOp) (old arg : Word) : Word :=
  match o with
  | .add => old + arg
  | .min => if old.toInt ≤ arg.toInt then old else arg
  | .max => if old.toInt ≤ arg.toInt then arg else old
  | .and => old &&& arg
  | .or => old ||| arg
  | .xor => old ^^^ arg
  | .swp => arg

/-- The value an atomic stores over `old`; `none` for a CAS that fails (R232, R233). -/
def atomicNew (op : Option AmoOp) (old arg expect : Nat) : Option Nat :=
  match op with
  | some o => some (AmoOp.apply o (natW old) (natW arg)).toNat
  | none => if old = expect then some arg else none

/-- An atomic of the task performed at its home: the old value, the write and its digest term (R208, R334). -/
def Mach.atomic (m : Mach) (op : Option AmoOp) (va pa n arg expect : Nat) : Nat × Mach :=
  let old := leNat (tabulate m.s.seen pa n)
  match atomicNew op old arg expect with
  | none => (old, m)
  | some v =>
    let bs := (leBytes n v).map some
    let m := m.onC (Core.shield m.s.mem pa bs)
    (old, (m.onS fun s => s.write (some m.t.lid) pa bs).fold (digestOf va bs))

/-- A location about to be reached at its home: the core's L1 and its cluster's cache give up their copies of its line (R208),
and an error that its stripe rebuilds is rebuilt (R341). -/
def Mach.toHome (m : Mach) (pa n : Nat) : Mach :=
  (m.l1Leave fun x => lineMeets pa n x.line).onS fun s => (s.ccEvict (clusterOf s.cur) pa n).heal pa n

/-- A pending atomic performed: its registers become known (R231). -/
def Mach.answer (m : Mach) (p : Pend) : Pend × Mach :=
  match p.src with
  | .atomic op va pa n arg expect =>
    let m := m.toHome pa n
    let poison := if m.s.badRange pa n then some va else none
    let (old, m) := m.atomic op va pa n arg expect
    let val (i : Nat) : Row := BitVec.ofNat 2048 (field old (64 * i) 64)
    let rs := ((tabulate id 0 p.res.length).zip p.res).map fun (i, r) => { r with val := val i, poison := poison }
    ({ p with src := .ready, res := rs, due := m.s.cyc }, m)
  | _ => (p, m)

/-- The pending atomics that `f` marks performed, in issue order. -/
def Mach.answerIf (f : Pend → Bool) (m : Mach) : Mach :=
  m.t.pend.foldl (fun m p =>
    let (p, m) := if f p then m.answer p else (p, m)
    m.onT fun t => { t with pend := t.pend ++ [p] }) { m with t := { m.t with pend := [] } }

/-- Whether an address lies in the scratchpad of core `k`'s cluster. -/
def isOwnScratch (k pa : Nat) : Bool := regionOf pa == .scratch && (pa - 0x7F0000000000) / 2 ^ 24 == clusterOf k

/-- Whether a pending result is an atomic that performs before a later access of core `k` to `n` bytes from `pa` on: it reaches
some of these bytes (R18), or both lie in the cluster's own scratchpad (R206). -/
def Pend.precedes (k pa n : Nat) (p : Pend) : Bool :=
  match p.src with
  | .atomic _ _ qa l _ _ => (decide (qa < pa + n) && decide (pa < qa + l)) || (isOwnScratch k pa && isOwnScratch k qa)
  | _ => false

/-- The core's earlier atomics that an access to `n` bytes from `pa` on must not overtake performed; how soon an atomic's home
replies else is free (R18, R206, R208). -/
def Mach.early (m : Mach) (pa n : Nat) : Mach :=
  if m.t.pend.any (Pend.precedes m.s.cur pa n) then m.answerIf (Pend.precedes m.s.cur pa n) else m

/-- What an engine operation sees when it forks: everything that earlier bundles issued to memory has performed; `id`
names the fork (R209). -/
def Mach.fork (m : Mach) (id : Nat) : Mach :=
  let cyc := m.s.cyc
  ((m.answerIf fun p => decide (p.issue < cyc)).flushOld).onC fun c => { c with forks := c.forks ++ [⟨id, []⟩] }

/-- A fork that has read its sources. -/
def Core.joined (c : Core) (id : Nat) : Core := { c with forks := c.forks.filter fun f => f.id != id }

/-- A byte as the fork `id` reads it (R209). -/
def Core.forkByte (s : State) (c : Core) (id pa : Nat) : Byte :=
  match (c.forks.find? fun f => f.id == id).bind fun f => SMap.find f.hide pa with
  | some b => b
  | none => s.seen pa

/-- `n` bytes as the fork reads them. -/
def Core.forkNat (s : State) (c : Core) (id pa n : Nat) : Nat := leNat (tabulate (c.forkByte s id) pa n)

/-- A unique number taken. -/
def Mach.uid (m : Mach) : Nat × Mach := (m.s.uids, m.onS fun s => { s with uids := s.uids + 1 })

/-- Everything the core has issued to memory performed: what a task that leaves its core for good has done. -/
def Mach.settle (m : Mach) : Mach := (m.answerIf fun _ => true).flush

/-- A machine view of core `k`, when it holds a task. -/
def State.mach (s : State) (k : Nat) : Option Mach :=
  (s.core k).task.map fun t => ⟨{ s with cur := k }, s.core k, t⟩

/-- The lines of core `k`'s L1 that `f` marks written back and invalidated, after the stores that reach them. -/
def State.leaveL1 (f : Nat → Bool) (s : State) (k : Nat) : State :=
  match s.mach k with
  | some m =>
    let m := if m.c.stores.any fun st => (linesIn st.pa st.bytes.length).any f then m.flush else m
    { (m.l1Leave fun x => f x.line).put with cur := s.cur }
  | none => s.setCore k { s.core k with l1 := (s.core k).l1.filter fun e => !f e.2.line }

/-! ## Changing a bank's mode (R177, R179) -/

/-- Whether a pending result is an atomic on bank `no`. -/
def Pend.onBank (no : Nat) (p : Pend) : Bool :=
  match p.src with
  | .atomic _ _ pa _ _ _ => regionOf pa == .scratch && bankOf pa == no
  | _ => false

/-- The task of a machine view written back to where it is. -/
def Mach.putBack (m : Mach) : State :=
  m.s.setCore m.s.cur (m.c.onUid m.t.uid fun _ => m.t)

/-- What the tasks of core `k` have issued to bank `no` performed. -/
def State.settleBank (no : Nat) (s : State) (k : Nat) : State :=
  let s : State := match s.mach k with
    | some m =>
      if m.t.pend.any (Pend.onBank no) || m.c.stores.any (fun (st : Store) => regionOf st.pa == .scratch && bankOf st.pa == no) then
        { (m.answerIf (Pend.onBank no)).flush.put with cur := s.cur }
      else s
    | none => s
  (s.core k).saved.foldl (fun (s : State) (y : Saved) =>
    if y.task.pend.any (Pend.onBank no) then
      { ((Mach.mk { s with cur := k } (s.core k) y.task).answerIf (Pend.onBank no)).putBack with cur := s.cur }
    else s) s

/-- The first byte of a bank. -/
def bankBase (no : Nat) : Nat := 0x7F0000000000 + no / 256 * 2 ^ 28 + no % 256 * 2 ^ 20

/-- A bank filled with contents and taint that the manual leaves undefined: free values (R177, log 12). -/
def State.scramble (s : State) (no : Nat) : State :=
  let base := bankBase no
  let f := s.fresh
  { s with fresh := f + 1048576
           mem := memPut s.mem base (tabulate (fun i => some (Config.bankByte (f + i))) 0 1048576)
           err := s.err.filter fun w => !(decide (base ≤ w) && decide (w < base + 1048576))
           gtaint := (tabulate id 0 16384).foldl (fun t i =>
             SMap.set false t (base / 64 + i) (Config.bankTaint (f + i))) s.gtaint }

/-- Bank `no` put into another mode under a claim (R177): a cache bank's lines are written back and invalidated, and what has been
issued to a scratchpad bank reaches it under the old mode (R179). -/
def State.setMode (s : State) (no : Nat) (claim : Option Nat) (mode : BankMode) : State :=
  let old := (s.bank no).mode
  let s := if old = .cache then s.ccDrop (no / 16) fun x => x.bank == no else 
    if old = .scratchpad then s.cores.foldl (fun s e => s.settleBank no e.1) s else s
  let s := s.setBank no ⟨mode, claim, none, [], false⟩
  if mode = .scratchpad then s.scramble no else s

/-- Bank `no` given back to the cluster's cache, at once or when its FIFO and its loan let it (R177, R178). -/
def State.toCache (s : State) (no : Nat) : State :=
  let b := s.bank no
  if b.fifo.isEmpty && b.lent.isNone then (if b.mode = .cache then s.setBank no { b with claim := none } else s.setMode no none .cache)
  else s.setBank no { b with claim := none, back := true }

end Sys2Proof.Machine
end

