-- ==== Sys2Proof/Machine/Launches.lean ====
section
/-! DEFINITION. The event rings, and what a launch's record goes through as its tasks end (R89, R178, R281, R301, R335 to
R337). -/

namespace Sys2Proof.Machine

/-! ## Events (R301) -/

/-- The partitions of the module. -/
def State.partitions (s : State) : List Nat := (s.fl.parts.map Prod.snd).foldl (fun acc p => insertNat p acc) [0]

/-- The 32 bytes of an event record. -/
def Event.bytes (e : Event) (eseq lost time : Nat) : List Byte :=
  leBytes 1 e.type ++ leBytes 1 e.status ++ leBytes 2 eseq ++ leBytes 1 e.queue ++ leBytes 1 e.cuff ++ leBytes 2 e.pseq ++
    leBytes 8 time ++ leBytes 8 e.info ++ leBytes 4 lost ++ leBytes 4 0

/-- A ring that no SET_EVENT_RING has placed. -/
def Ring.unset : Ring := ⟨0, 0, 0, [], 0⟩

/-- The event ring of a partition (R301, R373). -/
def State.ring (s : State) (part : Nat) : Ring := SMap.get Ring.unset s.fl.rings part

/-- The event ring of a partition replaced. -/
def State.setRing (s : State) (part : Nat) (r : Ring) : State := { s with fl := { s.fl with rings := SMap.put s.fl.rings part r } }

/-- Where the next record goes, if the ring has room: its slot is free when its TYPE byte reads 0 (log 31). -/
def ringSlot (s : State) (r : Ring) : Option Nat :=
  let n := r.size / 32
  if n = 0 then none else
  let a := r.addr + 32 * (r.eseq % n)
  if s.byte a = 0 then some a else none

/-- Held events of a partition accepted while its ring has room, `n` at most. -/
def flushEvents (part : Nat) (s : State) : Nat → State
  | 0 => s
  | n + 1 =>
    let r := s.ring part
    match r.held, ringSlot s r with
    | e :: es, some a =>
      let s := s.writeAll none a (e.bytes (r.eseq % 65536) r.lost s.cyc)
      flushEvents part (s.setRing part { r with held := es, eseq := r.eseq + 1, lost := 0 }) n
    | _, _ => s

/-- Every held event accepted for which its ring has room. -/
def State.flushRings (s : State) : State :=
  s.fl.rings.foldl (fun s e => if e.2.held.isEmpty then s else flushEvents e.1 s 257) s

/-- An event posted to the ring of a partition: accepted, held, or with 256 held dropped and counted (R301). -/
def State.post (s : State) (part : Nat) (e : Event) : State :=
  let r := s.ring part
  let r := if r.held.length < 256 then { r with held := r.held ++ [e] } else { r with lost := r.lost + 1 }
  flushEvents part (s.setRing part r) 257

/-- An event of the whole module, posted to the ring of every partition (log 31). -/
def State.postAll (s : State) (e : Event) : State := s.partitions.foldl (fun s p => s.post p e) s

/-- A counter addition on its way to its home, free to apply after cycle `at_` (R204, R234): `core` and `uid` say which task
an overflow is reported to, `wide` whether its release reaches beyond the cluster. -/
def State.sendAddAt (s : State) (at_ : Nat) (ctr : Option Nat) (val core uid cls : Nat) (wide : Bool := false) : State :=
  match ctr with
  | none => s
  | some i => { s with adds := s.adds ++ [⟨i, val, core, uid, at_, cls, wide⟩] }

/-- A counter addition sent by an instruction. -/
def State.sendAdd (s : State) (ctr : Option Nat) (val core uid cls : Nat) (wide : Bool := false) : State :=
  s.sendAddAt s.cyc ctr val core uid cls wide

/-- The counter addition of an operation that completes in this cycle, in which it may apply (R216, R245). -/
def State.sendDone (s : State) (ctr : Option Nat) (val core uid : Nat) : State := s.sendAddAt (s.cyc - 1) ctr val core uid 0

/-- A launch record changed. -/
def State.onLaunch (s : State) (l : Nat) (f : Launch → Launch) : State :=
  match SMap.find s.launches l with
  | some x => { s with launches := SMap.put s.launches l (f x) }
  | none => s

/-- Whether launch `l` still runs on the machine. -/
def Launch.live (x : Launch) : Bool :=
  match x.phase with
  | .running => true
  | .reexec => true
  | .rerun => true
  | .waiting => false
  | .complete => false

/-- The core numbers a launch may use: the eligible cores of the partition in order (R85). -/
def eligible (cores : List Nat) (cmask : Nat) : List Nat := cores.filter fun k => bitAt cmask (k % 8)

/-- The clusters in which a launch has tasks assigned or may place them: those of its eligible cores. -/
def clustersOf (ks : List Nat) : List Nat := ks.foldl (fun acc k => insertNat (clusterOf k) acc) []

/-- The mode code a descriptor asks of bank `b`, 0 to 11 (R297). -/
def Desc.bankCode (d : Desc) (b : Nat) : Nat := field d.banks (2 * b) 2

/-- Whether a running launch other than `l` asks bank `no` as cache (R178). -/
def wantsCache (s : State) (l no : Nat) : Bool :=
  s.launches.any fun (j, x) => j != l && x.live && decide (no % 16 < 12) && x.desc.bankCode (no % 16) == 0 &&
    x.assign.any fun c => clusterOf c == no / 16

/-- The claims of a completed launch ended (R178): a bank keeps its mode, unless a running launch of its cluster asked it as
cache. -/
def endClaims (s : State) (l : Nat) : State :=
  s.banks.foldl (fun s e =>
    if e.2.claim = some l then (if wantsCache s l e.1 then s.toCache e.1 else s.setBank e.1 { s.bank e.1 with claim := none })
    else s) s

/-! ## The trace buffer (R305, R306) -/

/-- The pages of a launch's trace buffer as they translate when it starts (R305); `none` where one is not mapped writable. -/
def traceBase (s : State) (ptb : Word) (d : Desc) : Option (SMap Nat) :=
  if d.trace = 0 then some [] else
  (tabulate id (d.trace / 65536) ((d.trace + 512 * d.ntask + 65535) / 65536 - d.trace / 65536)).mapM fun v =>
    (walk s ptb (65536 * v)).bind fun e => if e.wr then some (v, e.phys (65536 * v)) else none

/-- The physical place of a task's block of the trace buffer (R305). -/
def traceBlock (x : Launch) (tix : Nat) : Option Nat :=
  let va := x.desc.trace + 512 * tix
  if x.desc.trace = 0 then none else (SMap.find x.tbase (va / 65536)).map fun p => p + va % 65536

/-- A record's 8 bytes as a number (R305). -/
def TraceRec.word (r : TraceRec) : Nat := r.tile % 2 ^ 36 + (r.run - 1) % 2 ^ 12 * 2 ^ 36 + r.wr.toNat * 2 ^ 48

/-- Bytes written to a trace buffer or an orphan list: no watch is marked (R306). -/
def State.writeQuiet (s : State) (pa : Nat) (bs : List Byte) : State :=
  { s.writeAll none pa bs with watches := s.watches }

/-- A task's block written: header and records; RUNS rises by `more` (R305, R306). -/
def writeTrace (s : State) (x : Launch) (t : Task) (status flags more : Nat) (recs : List TraceRec) : State :=
  match traceBlock x t.x.tix.toNat with
  | none => s
  | some pa =>
    let runs := s.value (pa + 8) 8 + more
    s.writeQuiet pa (leBytes 3 t.x.tix.toNat ++ leBytes 1 0 ++ leBytes 1 status ++ leBytes 1 flags ++
      leBytes 1 recs.length ++ leBytes 1 0 ++ leBytes 8 runs ++ leBytes 8 x.lid ++ leBytes 40 0 ++
      recs.flatMap fun r => leBytes 8 r.word)

/-- A record of 8 bytes (R305). -/
def traceRecOf (v : Nat) : TraceRec := ⟨field v 0 36, field v 36 12 + 1, bitAt v 48, 0⟩

/-- What the trace buffer says of a task; an unreadable block counts as a task that has not run. -/
def readTrace (s : State) (x : Launch) (tix : Nat) : TaskRecs :=
  match traceBlock x tix with
  | none => ⟨tix, 0, false, []⟩
  | some pa => ⟨tix, s.value (pa + 4) 1, bitAt (s.value (pa + 5) 1) 0,
      tabulate (fun i => traceRecOf (s.value (pa + 64 + 8 * i) 8)) 0 (Nat.min (s.value (pa + 6) 1) 56)⟩

/-- A record put among others in the order of first access. -/
def insertRec (r : TraceRec) : List TraceRec → List TraceRec
  | [] => [r]
  | x :: xs => if x.at_ ≤ r.at_ then x :: insertRec r xs else r :: x :: xs

/-- The records of a sub-task join its parent's, as far as there is room (R304, R306). -/
def Task.joinRecs (t sub : Task) : Task :=
  let all := sub.recs.foldl (fun l r => insertRec r l) t.recs
  { t with recs := all.take 56, recAll := t.recAll || sub.recAll || decide (56 < all.length) }

/-- A task's records written to its buffer and kept with its launch. -/
def endTrace (s : State) (x : Launch) (t : Task) (status flags : Nat) : State :=
  let tix := t.x.tix.toNat
  (writeTrace s x t status flags 0 t.recs).onLaunch x.lid fun x => { x with kept := SMap.put x.kept tix ⟨tix, status, t.recAll, t.recs⟩ }

/-- The records of a sub-task whose task has been stopped joined to those that its buffer holds, in the order of first access. -/
def lateRecs (s : State) (x : Launch) (sub : Task) : State :=
  match SMap.find x.kept sub.x.tix.toNat, traceBlock x sub.x.tix.toNat with
  | some old, some pa =>
    let t := { sub with recs := old.recs, recAll := old.all }.joinRecs sub
    let flags := s.value (pa + 5) 1
    endTrace s x t old.status (if t.recAll && !bitAt flags 0 then flags + 1 else flags)
  | _, _ => s

/-- The task that a sub-task's records join: its parent, or, where that has been stopped, the task of its index (R304). -/
def recordHeir (s : State) (sub : Task) (p : Nat) : Option Nat :=
  if s.cores.any (fun e => e.2.hasUid p) then some p else
  s.cores.findSome? fun e => ((e.2.task.toList ++ e.2.saved.map Saved.task).find? fun t =>
    t.lid == sub.lid && t.x.tix == sub.x.tix && t.parent.isNone && t.rerun == sub.rerun).map Task.uid

/-- The end of a traced task's records: a sub-task's join its parent's, a task's go to its buffer with STATUS 2 or 3. -/
def traceEnd (s : State) (t : Task) (fault : Bool) : State :=
  if !t.traced then s else
  match SMap.find s.launches t.lid with
  | none => s
  | some x => match t.parent with
    | none => endTrace s x t (if fault then 3 else 2) (t.flags + t.recAll.toNat)
    | some p => match recordHeir s t p with
      | some u => s.onUid u fun y => y.joinRecs t
      | none => lateRecs s x t

/-- A packet of a queue's window done, with its status and, where one is given, the INFO of its event (R295, R301). -/
def State.packetDone (s : State) (q n status : Nat) (info : Option Nat := none) : State :=
  match SMap.find s.fl.queues q with
  | none => s
  | some x =>
    let w := x.window.map fun e => if e.n = n then { e with done := some status, info := info.getD e.info } else e
    { s with fl := { s.fl with queues := SMap.put s.fl.queues q { x with window := w } } }

/-- Elements that operations of launch `lid` discard in a cluster (R193, R335). -/
def State.countDiscard (s : State) (cl lid n : Nat) : State :=
  if n = 0 then s else
  let s := { s with discard := SMap.put s.discard cl (SMap.get 0 s.discard cl + n) }
  s.onLaunch lid fun x => { x with discard := x.discard + n }

/-- A buffer's last writer recorded (R298). -/
def wroteBuf (l : Nat) (m : SMap Buf) (h : Nat) : SMap Buf :=
  match SMap.find m h with
  | some b => SMap.put m h { b with writer := .launch l, stamp := b.stamp + 1 }
  | none => m

/-- The buffers that a completed launch writes record it as their last writer (R298). -/
def recordWriter (s : State) (l : Nat) (hs : List Nat) : State :=
  { s with fl := { s.fl with bufs := hs.foldl (wroteBuf l) s.fl.bufs } }

/-- A launch record closed: status, re-execution, claims, buffers (R178, R298, R335). -/
def closeLaunch (s : State) (l : Nat) (x : Launch) (status reex : Nat) : State :=
  let s := s.onLaunch l fun x => { x with phase := .complete, status := status, reex := reex }
  recordWriter (endClaims s l) l x.writes

/-- A launch whose last task has ended completes: its claims end, and its counter addition or its packet's completion
follows (R178, R281). -/
def completeLaunch (s : State) (l : Nat) (x : Launch) (status reex : Nat) : State :=
  let s := closeLaunch s l x status reex
  match x.origin with
  | .lnch core uid => s.sendAdd x.ctr 1 core uid 0
  | .packet q n => (s.sendAdd x.ctr 1 0 0 0).packetDone q n status

/-- Whether a launch all of whose tasks have ended is to be re-executed first (R337). -/
def Launch.redo (x : Launch) : Bool := x.desc.dmode && x.marked && !x.again

/-- The status a launch or relaunch ends with (R337). -/
def Launch.endStatus (x : Launch) : Nat := if x.fault || (x.again && x.marked) then 7 else 0
/-- Its REEX (R335, R337). -/
def Launch.endReex (x : Launch) : Nat := if x.again then (if x.endStatus = 7 then 2 else 1) else 0

/-- A launch all of whose tasks have ended: a marked D-mode launch is first re-executed once (R337), which
LAUNCH_REEXECUTE begins; otherwise it completes. -/
def launchDone (s : State) (l : Nat) (x : Launch) : State :=
  if x.redo then s else completeLaunch s l x x.endStatus x.endReex

/-- The errors that writes to a task's registers and rows have cleared, logged by Fleus in the ring of its partition (R70, R131,
R301). -/
def State.logCleared (s : State) (t : Task) : State :=
  let part := match SMap.find s.launches t.lid with
    | some x => x.part
    | none => 0
  t.logs.foldl (fun s a => s.post part ⟨7, 0, 0xFF, 0, 0, a⟩) s

/-- A task counted as ended (R89, R335, R367): the digest of the launch or of the relaunch takes mix64(X.DIG XOR i), and the
last task ends the launch; a relaunch ends once no task is added to it. `fault` says that the task was stopped under R21,
which marks the launch (R326, R336). -/
def taskEnded (s : State) (t : Task) (fault : Bool) : State :=
  let s := traceEnd (s.logCleared t) t fault
  let s := s.onLaunch t.lid fun x => { x with fault := x.fault || fault, marked := x.marked || fault }
  match t.parent with
  | some _ => s
  | none =>
    let s := s.onLaunch t.lid fun x =>
      { x with ended := x.ended + 1, left := x.left - 1, ranAt := s.cyc
               digest := (x.digest + (mix64 (t.x.dig ^^^ t.x.tix)).toNat) % 2 ^ 64 }
    match SMap.find s.launches t.lid with
    | some x => if x.live && x.left == 0 && x.only.isNone then launchDone s t.lid x else s
    | none => s

end Sys2Proof.Machine
end

