-- ==== Sys2Proof/Machine/Ops.lean ====
section
/-! DEFINITION. The named operations every meaning shares: the causes, the answer of an operation, reporting an asynchronous fault,
stopping a task, taking a trap and returning from one (R19 to R21, R319 to R321, R324). -/

namespace Sys2Proof.Machine

/-! ## Causes (R319) -/

def Cause.illBundle : Nat := 0x01
def Cause.illOperand : Nat := 0x02
def Cause.priv : Nat := 0x03
def Cause.memAlign : Nat := 0x04
def Cause.memSpan : Nat := 0x05
def Cause.pageFault : Nat := 0x06
def Cause.prot : Nat := 0x07
def Cause.eccUncorr : Nat := 0x08
def Cause.tableReserved : Nat := 0x09
def Cause.tidInvalid : Nat := 0x0A
def Cause.tileShape : Nat := 0x0B
def Cause.loopReg : Nat := 0x0C
def Cause.spawnBusy : Nat := 0x0D
def Cause.promiseMissed : Nat := 0x0E
def Cause.fifoExhausted : Nat := 0x0F
def Cause.waitTimeout : Nat := 0x10
def Cause.chkMismatch : Nat := 0x11
def Cause.digestMismatch : Nat := 0x12
def Cause.detTaint : Nat := 0x13
def Cause.veilStaleCal : Nat := 0x14
def Cause.veilRange : Nat := 0x15
def Cause.linkTimeout : Nat := 0x16
def Cause.linkDown : Nat := 0x17
def Cause.copyOverlap : Nat := 0x18
def Cause.segAbsent : Nat := 0x19
def Cause.quantTrouble : Nat := 0x1A
def Cause.brk : Nat := 0x1B
def Cause.syscall : Nat := 0x1C
def Cause.divZero : Nat := 0x1D
def Cause.counterOverflow : Nat := 0x1E

/-- X.EINFO of ILL_OPERAND: the sub-code in bits 63:60, a value in bits 56:0 (R319). -/
def illInfo (sub : Nat) (v : Nat := 0) : Word := BitVec.ofNat 64 (sub * 2 ^ 60 + v % 2 ^ 57)

/-- What an operation does when its bundle would issue: its effect, a trap, or a stall that may leave a mark of what it
waits for; a `last` stall is one that counts once nothing else stalls the bundle. -/
inductive OpRes where
  | ok (act : Act)
  | trap (cause : Nat) (info : Word)
  | hold (act : Act)
  | last (act : Act)

/-- ILL_OPERAND with sub-code 4 (R58). -/
def ill4 (v : Nat := 0) : OpRes := .trap Cause.illOperand (illInfo 4 v)

/-- A plain stall. -/
def stall : OpRes := .hold id

/-- The launch digest that DIGR.LAUNCH reads; 0 in an F-mode launch (R349). -/
def launchDigest (s : State) (l : Nat) : Nat :=
  match SMap.find s.launches l with
  | some x => if x.desc.dmode then x.digest else 0
  | none => 0

/-! ## Asynchronous faults (R324, R325) -/

/-- A fault of an engine operation sent to the core that issued it (R324). -/
def State.report (s : State) (core uid cause : Nat) (info : Word) : State :=
  { s with reports := s.reports ++ [⟨core, uid, cause, info⟩] }

/-! ## Traps (R19 to R21, R321) -/

/-- Whether a wait is at a barrier. -/
def WaitRec.isBarg (w : WaitRec) : Bool :=
  match w.kind with
  | .barg .. => true
  | _ => false

/-- Whether a fence is that of a TLBI, which outlives the task that issued it. -/
def Fence.isTlbi : Fence → Bool
  | .tlbi .. => true
  | .trarm .. => false
  | .bound .. => false

/-- A task stopped under R21: the cause and the state of R19 are reported to the front end, the task counts as ended,
and its launch fails. -/
def Mach.stop (m : Mach) (cause : Nat) (info : Word) (pc iter : Nat) : State :=
  let m := m.settle
  let rec' : StopRec := ⟨m.s.cur, m.t.lid, m.t.x.tix.toNat, pc, iter, cause, info⟩
  let m := m.onC fun c => { c with reach := none, mdup := none, fifoWait := none, wait := none, walk := none, walkBad := none, ended := false,
                                   fence := c.fence.filter Fence.isTlbi }
  let s := m.putIdle
  taskEnded { s with stops := s.stops ++ [rec'] } m.t true

/-- What a trap entry records in X.ECAUSE beside its code (R318). -/
structure TrapKind where
  async : Bool
  more  : Bool
  endw  : Bool
  deriving DecidableEq, Repr

/-- A precise trap. -/
def TrapKind.precise : TrapKind := ⟨false, false, false⟩

/-- X.ECAUSE (R318). -/
def ecauseWord (cause : Nat) (k : TrapKind) : Word :=
  BitVec.ofNat 64 (cause + (if k.async then 256 else 0) + (if k.more then 512 else 0) + (if k.endw then 1024 else 0))

/-- The results that a stop at cycle `t` captures, with their offsets o = L − t (R321, R323). -/
def capture (t : Nat) (fl : List Result) : List Result :=
  (fl.filter fun r => decide (t ≤ r.due)).map fun r => { r with due := r.due - t }

/-- The task as the entry of a delivered trap leaves it (R321): results in flight captured, sticky and loop state
saved, every slot quiet and every level inactive, the cause recorded, supervisor level, the pc at X.TVEC. -/
def Task.enter (t : Task) (cyc cause : Nat) (info : Word) (k : TrapKind) (pc iter : Nat) : Task :=
  let t := t.landFlight cyc
  { t with
    shadow := capture cyc t.flight
    flight := []
    trapped := ⟨t.sticky, t.loops, t.flow⟩
    sticky := StickySet.quiet
    loops := Loops.off
    flow := Flow.none
    iter := 0
    pc := t.x.tvec.toNat
    x := { t.x with epc := BitVec.ofNat 64 pc, erpt := BitVec.ofNat 64 iter, ecause := ecauseWord cause k, einfo := info,
                    psv := t.x.sv, sv := true } }

/-- TAKING AN EXCEPTION (R20, R21, R321): delivered to the handler, whose first bundle issues three cycles later; or, with X.TVEC
zero or in supervisor mode, the task is stopped. A wait at a barrier is kept for the return (R325). A delivered DIGEST_MISMATCH
marks the launch (R336). -/
def takeTrap (m : Mach) (cause : Nat) (info : Word) (k : TrapKind) (pc iter : Nat) : State :=
  if m.t.x.tvec = 0 ∨ m.t.x.sv then m.stop cause info pc iter
  else
    let m := if cause = Cause.digestMismatch then
        m.onS fun s => s.onLaunch m.t.lid fun x => { x with marked := true }
      else m
    let wait := match m.c.wait with
      | some w => if w.isBarg then some (pc, w) else none
      | none => none
    ((m.onC fun c => { c with fence := c.fence.filter Fence.isTlbi, ready := m.s.cyc + 3, reach := none, mdup := none, fifoWait := none,
                              wait := none, walk := none, walkBad := none, ended := false }).onT
      fun t => { t.enter m.s.cyc cause info k pc iter with held := wait }).put

/-- The results of a replay that starts at cycle `r`, put in flight behind those already there, as number `q` (R321,
R322). -/
def replay (r q : Nat) (sh fl : List Result) : List Result :=
  sh.foldl (fun fl x => insertDue { x with due := r + x.due, seq := q } fl) fl

/-- RETURN FROM AN EXCEPTION, issued at cycle `cyc` (R20, R321): the level, the sticky and loop state and the pc are
restored, and the shadow buffer lands relative to the resumed issue three cycles later. -/
def Task.return (t : Task) (cyc : Nat) : Task :=
  { t with
    x := { t.x with sv := t.x.psv }
    sticky := t.trapped.sticky
    loops := t.trapped.loops
    flow := if t.x.erpt = 0 then Flow.none else t.trapped.flow
    flight := replay (cyc + 3) t.seq t.shadow t.flight
    seq := t.seq + 1
    shadow := []
    pc := t.x.epc.toNat
    iter := t.x.erpt.toNat }

/-- The wait of the bundle that a return goes back to: at the barrier at which a trap has found it, its arrival made (R325). A
bundle that the handler skips has left its barrier. -/
def Task.heldWait (t : Task) : Option WaitRec :=
  match t.held with
  | some (pc, w) =>
    if t.x.epc.toNat = pc then
      some { w with met := w.met || match w.kind with
        | .barg sc _ _ n => t.bars.any fun b => b.sc == sc && b.n == n && b.met
        | _ => false }
    else none
  | none => none

/-- Whether X.ECAUSE says that the trap was delivered during END's wait (R318, R325). -/
def XRegs.endw (x : XRegs) : Bool := bitAt x.ecause.toNat 10

end Sys2Proof.Machine
end

