-- ==== Sys2Proof/Machine/Mmio.lean ====
section
/-! DEFINITION. The queue registers and wear words in MMIO space, and queue control (R170, R289, R292, R300, R343). -/

namespace Sys2Proof.Machine

/-- A queue as reset leaves it (log 6). -/
def Queue.start : Queue := ⟨.disabled, 0, 0, 0, 0, 0, 0, false, 0, 0, [], 0, 0, 0⟩

/-- Queue `q`. -/
def State.queue (s : State) (q : Nat) : Queue := SMap.get Queue.start s.fl.queues q

/-- Queue `q` replaced. -/
def State.setQueue (s : State) (q : Nat) (x : Queue) : State :=
  { s with fl := { s.fl with queues := SMap.put s.fl.queues q x } }

/-- The Cuff on which a queue is homed (R289). -/
def Queue.home (x : Queue) : Nat := field x.cfg 16 2
/-- The partition of a queue (R289). -/
def Queue.part (x : Queue) : Nat := field x.cfg 8 8
/-- The set rank of a queue (R289). -/
def Queue.setRank (x : Queue) : Nat := field x.cfg 4 3
/-- The number of ring entries (R289). -/
def Queue.entries (x : Queue) : Nat := 2 ^ field x.cfg 0 4

/-! ## Queue control (R289, R292, R300) -/

/-- A packet of a window ends with CUFF_LOST: its SET tokens are cleared, and its failure posts an event (R293,
R300). -/
def loseEntry (q : Nat) (s : State) (e : WinEnt) : State :=
  let x := s.queue q
  let set := BitVec.ofNat 64 (field e.bytes (8 * 12) 64)
  let s := s.setQueue q { x with tokens := x.tokens &&& ~~~set, fail := 8 }
  s.post x.part ⟨1, 8, q, x.home, field e.bytes 16 16, e.info⟩

/-- A queue re-homed (R292, R300): a HELD or FAULTED queue becomes ENABLED and its unfinished packets are lost. -/
def rehome (s : State) (q home : Nat) : State :=
  let x := s.queue q
  let cfg := x.cfg - field x.cfg 16 2 * 2 ^ 16 + home * 2 ^ 16
  match x.state with
  | .held | .faulted =>
    let s := x.window.foldl (loseEntry q) s
    let x := s.queue q
    s.setQueue q { x with cfg := cfg, state := .enabled, window := [], pending := true }
  | _ => s.setQueue q { x with cfg := cfg }

/-- An action of QUEUE_CTL on queue `q` (R289, R292); `none` is BAD_PACKET. -/
def queueCtl (s : State) (q action home : Nat) : Option State :=
  let x := s.queue q
  match action with
  | 0 =>
    match x.state with
    | .held | .faulted => some s
    | _ => some (s.setQueue q { x with state := .enabled, tokens := 0, poison := 0, window := [], head := 0, misses := 0,
                                       rank := x.setRank, streak := 0 })
  | 1 => if x.window.isEmpty then some (s.setQueue q { x with state := .disabled }) else none
  | 2 => if home < 4 then some (rehome s q home) else none
  | 3 =>
    match x.state with
    | .faulted => some (s.setQueue q { x with state := .disabled, window := [] })
    | _ => none
  | _ => none

/-! ## The registers (R170, R289, R343) -/

/-- QSTAT (R289). -/
def Queue.qstat (x : Queue) : Nat :=
  (match x.state with
   | .disabled => 0
   | .enabled => 1
   | .faulted => 2
   | .held => 3) + x.fail * 2 ^ 8 + x.window.length * 2 ^ 16

/-- A register of queue `x` as it reads; QTAIL and QCTL read 0 (R289). -/
def Queue.read (x : Queue) (off : Nat) : Nat :=
  if off = 0x00 then x.base
  else if off = 0x08 then x.cfg
  else if off = 0x18 then x.head
  else if off = 0x20 then x.seq
  else if off = 0x28 then x.qstat
  else 0

/-- A write to a register of queue `q` (R289). -/
def queueWrite (s : State) (q off v : Nat) : State :=
  let x := s.queue q
  let bad := s.setQueue q { x with fail := 1 }
  if off = 0x00 then
    match x.state with
    | .disabled => if v % 64 ≠ 0 then bad else s.setQueue q { x with base := v }
    | _ => s
  else if off = 0x08 then
    match x.state with
    | .disabled =>
      if bitAt v 7 || field v 19 13 != 0 || field v 48 16 != 0 then s else s.setQueue q { x with cfg := v, rank := field v 4 3 }
    | _ => s
  else if off = 0x10 then s.setQueue q { x with tail := v % 65536, pending := true }
  else if off = 0x20 then
    match x.state with
    | .disabled => s.setQueue q { x with seq := v % 65536 }
    | _ => s
  else if off = 0x30 then
    if field v 10 54 ≠ 0 then bad else
    match queueCtl s q (field v 0 8) (field v 8 2) with
    | some s' => s'
    | none => bad
  else s

/-- Whether an MMIO address belongs to the queue block, and its queue and offset. -/
def mmioQueue (pa : Nat) : Option (Nat × Nat) :=
  if 0x7C0000010000 ≤ pa ∧ pa < 0x7C0000010000 + 64 * 64 then
    some ((pa - 0x7C0000010000) / 64, (pa - 0x7C0000010000) % 64)
  else none

/-- The 64-bit register of MMIO space that holds address `pa`, as it reads. A register that no rule describes reads a
free value (log 19). -/
def mmioReg (s : State) (pa : Nat) : Nat :=
  match mmioQueue (pa / 8 * 8) with
  | some (q, off) => (s.queue q).read off
  | none =>
    if 0x7C0000020000 ≤ pa ∧ pa < 0x7C0000020000 + 8 * 21 then
      (s.fl.wear.getD ((pa - 0x7C0000020000) / 8) 0).toNat
    else Config.unstated 170 pa

/-- An aligned 4-byte or 8-byte read of MMIO space (R170). -/
def mmioRead (s : State) (pa n : Nat) : Nat := field (mmioReg s pa) (8 * (pa % 8)) (8 * n)

/-- An aligned 4-byte or 8-byte write to MMIO space (R170): a 4-byte write replaces its half of the register. -/
def mmioWrite (s : State) (pa n v : Nat) : State :=
  match mmioQueue (pa / 8 * 8) with
  | some (q, off) =>
    let old := if off = 0x10 then (s.queue q).tail else (s.queue q).read off
    let new := if n = 8 then v else if pa % 8 = 0 then old / 2 ^ 32 * 2 ^ 32 + v % 2 ^ 32 else v * 2 ^ 32 + old % 2 ^ 32
    queueWrite s q off new
  | none => s

end Sys2Proof.Machine
end

