-- ==== Sys2Proof/WellFormed.lean ====
section
/-! DEFINITION. Which terms of `Instr` an encoding can hold: the field rules of R24, R27 and R39 to R45 that the types
do not already impose. -/

namespace Sys2Proof

/-- Type set F of R40. -/
def Fmt.inF (f : Fmt) : Bool := f == 1 || f == 2 || f == 3
/-- Type set I of R40. -/
def Fmt.inI (f : Fmt) : Bool := f == 7 || f == 8 || f == 9 || f == 12
/-- Type set C of R40. -/
def Fmt.inC (f : Fmt) : Bool := f == 13 || f == 14
/-- Type set W of R40: every whole-byte format. -/
def Fmt.inW (f : Fmt) : Bool := f.inF || f == 4 || f == 5 || f.inI || f.inC
/-- Type set N of R40. -/
def Fmt.inN (f : Fmt) : Bool := f == 4 || f == 5 || f == 6 || f == 9 || f == 10 || f == 11

/-- Bits of an element of a format (R108); 0 for the invalid codes. -/
def Fmt.bits (f : Fmt) : Nat :=
  match f.toNat with
  | 1 => 32 | 2 => 16 | 3 => 16 | 4 => 8 | 5 => 8 | 6 => 4 | 7 => 32 | 8 => 16 | 9 => 8 | 10 => 4 | 11 => 2
  | 12 => 8 | 13 => 64 | 14 => 32 | _ => 0

/-- A tile number within 0 to 23 (R27). -/
def tileOk (t : Tile) : Bool := decide (t.toNat < 24)

/-- A row operand whose tile exists. -/
def RowRef.ok (r : RowRef) : Bool := tileOk r.t

/-- The ratio of the element widths of a conversion (R140). -/
def cvtRatio (td ts : Fmt) : Nat := Nat.max td.bits ts.bits / Nat.min td.bits ts.bits

/-- The number of slots present. -/
def Header.count (h : Header) : Nat :=
  (List.range 9).countP fun i => h.present.getLsbD i

/-- A header none of whose own checks fails (R24): no QUIET bit of S, O, L or K, no slot both present and quiet, Y and
BUDGET agreeing. -/
def Header.ok (h : Header) : Bool :=
  h.quiet &&& 0b111000001 == 0 && h.present &&& h.quiet == 0 && h.y == (h.budget != 0)

namespace Instr

/-- The well-formed terms. A bundle's syllables are checked by the decoder; events have no encoding and carry no
rule. -/
def wellFormed : Instr → Bool
  | bundleIssue h syls => h.ok && syls.length == h.count
  | st sz _ _ _ => sz == .b || sz == .h || sz == .w || sz == .d
  | loop _ disp _ => disp != 0
  | loopi _ disp _ => disp != 0
  | tshape t fmt _ _ => tileOk t && fmt != 0 && fmt != 15
  | tlbi f a => f != .all || a == 0
  | vadd _ c d a b | vsub _ c d a b | vmul _ c d a b | vfma _ c d a b | vfms _ c d a b
  | vmin _ c d a b | vmax _ c d a b | vsplit _ c d a b => c.ty.inF && d.ok && a.ok && b.ok
  | vabs _ c d a | vneg _ c d a | vrcp c d a | vrsq c d a | vexp2 c d a | vlog2 c d a
  | vamax _ c d a | vsnap _ c d a _ => c.ty.inF && d.ok && a.ok
  | vcmul _ c d a b => c.ty.inC && d.ok && a.ok && b.ok
  | viadd _ c d a b | visub _ c d a b | vimul _ c d a b | vand _ c d a b | vor _ c d a b | vxor _ c d a b
  | vshl _ c d a b | vshr _ c d a b | vsra _ c d a b => c.ty.inI && d.ok && a.ok && b.ok
  | vcmp _ c _ _ a b => c.ty.inF && a.ok && b.ok
  | vicmp _ c _ _ a b => c.ty.inI && a.ok && b.ok
  | vsel _ c d a b | vperm _ c d a b => c.ty.inW && d.ok && a.ok && b.ok
  | vplen _ c _ _ => c.ty.inW && c.step == 0
  | vplog _ c _ _ _ _ => c.ty == 0 && c.step == 0
  | vmov _ c d a | vrot _ c d a _ => c.ty.inW && d.ok && a.ok
  | vbc _ c d _ => c.ty.inW && d.ok
  | vred _ c _ d a => (c.ty.inF || c.ty.inI) && d.ok && a.ok
  | vcvt _ c d a src part =>
    c.ty.inW && src.inW && d.ok && a.ok && c.ty.inC == src.inC && decide (part.toNat < cvtRatio c.ty src)
  | vqnt _ c _ d a src => c.ty.inN && src.inF && d.ok && a.ok
  | vdq _ c d a src => c.ty.inF && src.inN && d.ok && a.ok
  | vld f _ => f.d.ok
  | vst f => f.d.ok
  | vlds f ty _ => f.d.ok && ty.inW
  | mstep _ tc ta tb => tileOk tc && tileOk ta && tileOk tb
  | mzero tc => tileOk tc
  | mfin f td tc => (f.inF || f == 7) && tileOk td && tileOk tc
  | mtrn td ta => tileOk td && tileOk ta
  | wadv _ _ k _ => k != 0
  | fpush _ t _ _ _ _ | fpop _ t _ _ _ _ => tileOk t
  | oft _ _ _ _ n | oift _ _ _ _ n | oconv _ _ _ _ n => decide (2 ≤ n.toNat) && decide (n.toNat ≤ 8)
  | cadd _ _ rel sc cls => rel || (sc == .core && cls == 0)
  | cwait _ _ acq sc => acq || sc == .core
  | chk (.v a b) => a.ok && b.ok
  | kalu d _ _ => decide (32 ≤ d.toNat)
  | chk (.s _ _) => true
  | nop _ | add _ _ _ | sub _ _ _ | and _ _ _ | or _ _ _ | xor _ _ _ | shl _ _ _ | shr _ _ _ | sra _ _ _ | mul _ _ _
  | mulh _ _ _ _ | div _ _ _ _ | rem _ _ _ _ | min _ _ _ _ | max _ _ _ _ | clz _ _ | popc _ _ | bext _ _ _ | bins _ _ _
  | ldih _ _ | addi _ _ _ | andi _ _ _ | ori _ _ _ | xori _ _ _ | shli _ _ _ | shri _ _ _ | srai _ _ _ | ldi _ _
  | cmp _ _ _ _ | cmpi _ _ _ _ | sel _ _ _ _ _ | plog _ _ _ _ | ld _ _ _ _ _ | ldp _ _ _ _ | stp _ _ _ | ldc _ _ _ _ | br _
  | bri _ | call _ | calli _ | ret | movx _ _ | movxw _ _ | hmov _ _ | hget _ _ _ | hset _ _ _ | hadv _ _ _ | tidw _ _
  | tidr _ _ | tidi _ | amo _ _ _ _ | cas _ _ _ | cas2 _ _ _ | trap _ | sysc _ | eret | mcfg _ | mdup _ | arrayStepStart _
  | arrayStepWrite _ | cpy _ _ _ _ _ | cpyq _ _ _ _ _ _ | cpyd _ _ _ _ _ | cpyr _ _ _ _ _ _ | cfill _ _ _ _ _
  | cgat _ _ _ _ _ _ | csct _ _ _ _ _ _ | wopen _ _ _ _ | wclose _ _ _ | cpref _ _ _ _ _ | cflush _ _ _ _ _ | cbank _ _ _
  | copyOpStart _ _ | nocSlotSend _ _ | copyOpComplete _ _ | copyPageResume _ _ | omode _ _ | omask _ _ | ocal _ | ostat _ _
  | veilShot _ | veilFramesWritten _ | veilMaskLoaded _ | veilCalComplete _ | veilWindowStart _ | veilCalSlotStart _
  | calibrationStale _ | lsend _ _ _ | lrecv _ _ _ | lradd _ _ _ _ _ | lqadd _ _ _ _ | ltmo _ _ | lring _ | lstat _ _
  | lcadd _ _ _ | linkMatch _ | linkMessageArrival _ _ _ _ | linkOpComplete _ | remoteCounterAdd _ _ | linkTimeout _
  | portDown _ | portLanesLost _ | flitRetry _ | spawn _ _ _ | yield | endTask | endComplete _ | barg _
  | barrierComplete _ _ _ | barrierWaiterResume _ | sleept _ | sleeptWake _ | waito _ _ _ _ | waitoMet _ | counterAddApply _
  | cwaitMet _ | cread _ _ | waita _ _ _ | waitaMet _ | drain _ _ | drainDone _ | waitTimeout _ | lnch _ _ | rlnch _ _
  | trarm _ _ | trstat _ _ | digr _ _ | digx _ _ | ctxs _ | ctxl _ | exposedResultLand _ | pendingResultLand _ _
  | atomicPerform _ _ | storePerform _ | pageWalkComplete _ _ | tlbiRemovalComplete _ | watchBindComplete _
  | asyncFaultReport _ _ _ | asyncFaultDelivery _ | yieldOverrun _ | fifoRelief _ | launchStart _ _ _ _ | taskStart _
  | segLoadComplete _ | relaunchAccept _ | relaunchTaskAdd _ _ _ | launchReexecute _ | cuffPoll _ | packetDispatch _
  | packetCompletion _ | launch _ _ _ | relaunch _ _ _ | copy _ _ _ _ | fill _ _ _ _ | counterAdd _ _ _ | counterWait _ _ _
  | traceArm _ _ _ | veilCal _ _ | query _ _ _ _ _ | tidWrite _ _ _ _ _ | queueCtlEnable _ _ | queueCtlDisable _ _
  | queueCtlRehome _ _ _ | queueCtlClear _ _ | nopPacket _ | qtail _ _ | registerWrite _ _ | cuffRomParity _
  | cuffTableEcc _ _ | hostCxlMemAccess _ _ _ | hostCxlIoWrite _ _ _ | hemWriteback _ | writebackAck _ _ | reconstructRead _
  | stackLost _ | stackRebuildStripe _ | refresh _ _ | refreshInterrupt _ | patrolScrub _ _ | wearRefresh _ | powerSample _ _
  | powerOn | identify | attest _ | setDevnum _ | setWindow _ _ | setEventRing _ _ | setIdeKeys _ | setCap _ | telemetry
  | resetPartition _ _ _ | resetModule | portUp _ | chipletLost _ | softError _ | dieTemperatureChange _ _
  | peerMemoryAccess _ _ _ _ => true

end Instr
end Sys2Proof
end

