-- ==== Sys2Proof/Decode.lean ====
section
/-! DEFINITION. From words to operations and back: the header (R23, R24), the syllables of the nine slot classes (R25,
R26, R39 to R46), the offending bit of R28, and the encoder written from the same tables. -/

namespace Sys2Proof

/-! ## Fields -/

/-- The `n`-bit field of `w` whose lowest bit is `lo`. -/
def bv (w lo n : Nat) : BitVec n := BitVec.ofNat n (w / 2 ^ lo)

/-- The number in the `n`-bit field of `w` whose lowest bit is `lo`. -/
def fld (w lo n : Nat) : Nat := w / 2 ^ lo % 2 ^ n

/-- Bit `i` of `w`. -/
def tst (w i : Nat) : Bool := w / 2 ^ i % 2 == 1

/-- The lowest set bit among the `n` bits of `w` from bit `lo` on. -/
def lowBit (w lo : Nat) : Nat → Option Nat
  | 0 => none
  | n + 1 => if tst w lo then some lo else lowBit w (lo + 1) n

/-- A zero field (R27): its failing bit is its lowest set bit (R28). -/
def zero (w lo n : Nat) : Option Nat := if fld w lo n = 0 then none else lowBit w lo n

/-- A field value that must satisfy `ok`: its failing bit is the field's lowest bit (R28). -/
def need (ok : Bool) (lo : Nat) : Option Nat := if ok then none else some lo

/-- The least of the failing bits (R28). -/
def leastBit : List (Option Nat) → Option Nat
  | [] => none
  | none :: es => leastBit es
  | some b :: es => match leastBit es with
    | some c => some (Nat.min b c)
    | none => some b

/-- What a syllable decodes to: an operation, or the bit that R28 reports. -/
inductive Dec where
  | ok (i : Instr)
  | bad (bit : Nat)
  deriving DecidableEq, Repr

/-- An operation subject to the checks of its fields. -/
def checked (es : List (Option Nat)) (i : Instr) : Dec :=
  match leastBit es with
  | none => .ok i
  | some b => .bad b

/-! ## Code lists of R39 to R45 -/

def Cond.ofCode : Nat → Option Cond
  | 0 => some .eq | 1 => some .ne | 2 => some .lt | 3 => some .ltu | 4 => some .le | 5 => some .leu | _ => none
def Cond.code : Cond → Nat
  | .eq => 0 | .ne => 1 | .lt => 2 | .ltu => 3 | .le => 4 | .leu => 5
def FCond.ofCode : Nat → Option FCond
  | 0 => some .eq | 1 => some .ne | 2 => some .lt | 3 => some .le | 4 => some .gt | 5 => some .ge | 6 => some .un
  | _ => none
def FCond.code : FCond → Nat
  | .eq => 0 | .ne => 1 | .lt => 2 | .le => 3 | .gt => 4 | .ge => 5 | .un => 6
def LogOp.ofCode : Nat → Option LogOp
  | 0 => some .and | 1 => some .or | 2 => some .xor | 3 => some .andn | _ => none
def LogOp.code : LogOp → Nat
  | .and => 0 | .or => 1 | .xor => 2 | .andn => 3
def MSize.ofCode : Nat → Option MSize
  | 0 => some .b | 1 => some .bu | 2 => some .h | 3 => some .hu | 4 => some .w | 5 => some .wu | 6 => some .d
  | _ => none
def MSize.code : MSize → Nat
  | .b => 0 | .bu => 1 | .h => 2 | .hu => 3 | .w => 4 | .wu => 5 | .d => 6
def AmoOp.ofCode : Nat → Option AmoOp
  | 0 => some .add | 1 => some .min | 2 => some .max | 3 => some .and | 4 => some .or | 5 => some .xor
  | 6 => some .swp | _ => none
def AmoOp.code : AmoOp → Nat
  | .add => 0 | .min => 1 | .max => 2 | .and => 3 | .or => 4 | .xor => 5 | .swp => 6
def TlbiForm.ofCode : Nat → Option TlbiForm
  | 0 => some .addr | 1 => some .as | 2 => some .all | _ => none
def TlbiForm.code : TlbiForm → Nat
  | .addr => 0 | .as => 1 | .all => 2
def RedOp.ofCode : Nat → Option RedOp
  | 0 => some .sum | 1 => some .max | 2 => some .min | 3 => some .asum | _ => none
def RedOp.code : RedOp → Nat
  | .sum => 0 | .max => 1 | .min => 2 | .asum => 3
def MVar.ofCode : Nat → Option MVar
  | 0 => some .bf16 | 1 => some .fp16 | 2 => some .fp8a | 3 => some .fp8b | 4 => some .fp4 | 5 => some .int8
  | 6 => some .tern | _ => none
def MVar.code : MVar → Nat
  | .bf16 => 0 | .fp16 => 1 | .fp8a => 2 | .fp8b => 3 | .fp4 => 4 | .int8 => 5 | .tern => 6
def CpyrOp.ofCode : Nat → Option CpyrOp
  | 0 => some .f32 | 1 => some .i32 | 2 => some .i64 | 3 => some .max | _ => none
def CpyrOp.code : CpyrOp → Nat
  | .f32 => 0 | .i32 => 1 | .i64 => 2 | .max => 3
def BankMode.ofCode : Nat → BankMode
  | 0 => .cache | 1 => .scratchpad | 2 => .fifo | _ => .reserve
def BankMode.code : BankMode → Nat
  | .cache => 0 | .scratchpad => 1 | .fifo => 2 | .reserve => 3
def Aperture.ofCode : Nat → Option Aperture
  | 0 => some .a256 | 1 => some .a64 | 2 => some .a16 | _ => none
def Aperture.code : Aperture → Nat
  | .a256 => 0 | .a64 => 1 | .a16 => 2
def Recovery.ofCode : Nat → Option Recovery
  | 0 => some .quad2 | 1 => some .quad4 | 2 => some .inten | _ => none
def Recovery.code : Recovery → Nat
  | .quad2 => 0 | .quad4 => 1 | .inten => 2
def OReg.ofCode : Nat → Option OReg
  | 0 => some .calSerial | 1 => some .calAge | 2 => some .calLimit | 3 => some .temp | 4 => some .gainmapBase
  | 5 => some .phasemapBase | 6 => some .refpower | _ => none
def OReg.code : OReg → Nat
  | .calSerial => 0 | .calAge => 1 | .calLimit => 2 | .temp => 3 | .gainmapBase => 4 | .phasemapBase => 5
  | .refpower => 6
def Scope.ofCode : Nat → Option Scope
  | 0 => some .core | 1 => some .cluster | 2 => some .chiplet | 3 => some .module | 4 => some .system | _ => none
def Scope.code : Scope → Nat
  | .core => 0 | .cluster => 1 | .chiplet => 2 | .module => 3 | .system => 4
def BScope.ofCode : Nat → BScope
  | 0 => .cl | 1 => .ch | 2 => .mod | _ => .launch
def BScope.code : BScope → Nat
  | .cl => 0 | .ch => 1 | .mod => 2 | .launch => 3
def KRegOp.ofCode : Nat → Option KRegOp
  | 1 => some .add | 2 => some .sub | 3 => some .and | 4 => some .or | 5 => some .xor | 6 => some .shl
  | 7 => some .shr | 8 => some .sra | _ => none
def KRegOp.code : KRegOp → Nat
  | .add => 1 | .sub => 2 | .and => 3 | .or => 4 | .xor => 5 | .shl => 6 | .shr => 7 | .sra => 8
def KImmOp.ofCode : Nat → Option KImmOp
  | 24 => some .addi | 25 => some .andi | 26 => some .ori | 27 => some .xori | _ => none
def KImmOp.code : KImmOp → Nat
  | .addi => 24 | .andi => 25 | .ori => 26 | .xori => 27
def KShiftOp.ofCode : Nat → Option KShiftOp
  | 28 => some .shli | 29 => some .shri | 30 => some .srai | _ => none
def KShiftOp.code : KShiftOp → Nat
  | .shli => 28 | .shri => 29 | .srai => 30

/-- A field whose code list `o` answers: the operation `f` of the decoded code, or the field's lowest bit as failing. -/
def listed {α : Type} (o : Option α) (lo : Nat) (es : List (Option Nat)) (f : α → Instr) (dflt : Instr) : Dec :=
  match o with
  | some x => checked es (f x)
  | none => checked (some lo :: es) dflt

/-! ## Slot classes. `w` is the syllable as a number; guards are read by `guardOf`. -/

/-- The guard of a syllable (R25). -/
def guardOf (w : Nat) : Guard := ⟨tst w 55, bv w 51 4⟩

/-- The opcode of a syllable (R25). -/
def opOf (w : Nat) : Nat := fld w 56 8

/-- S, form SA with fn 0 and bits 26:0 zero. -/
def decSA (w : Nat) (f : SReg → SReg → SReg → Instr) : Dec :=
  checked [zero w 0 33] (f (bv w 45 6) (bv w 39 6) (bv w 33 6))

/-- S, form SA with fn 0 (.S) or 1 (.U). -/
def decSU (w : Nat) (f : Bool → SReg → SReg → SReg → Instr) : Dec :=
  checked [zero w 0 27, need (decide (fld w 27 6 < 2)) 27] (f (tst w 27) (bv w 45 6) (bv w 39 6) (bv w 33 6))

/-- S, form SI with fn 0 and a 33-bit immediate. -/
def decSI (w : Nat) (f : SReg → SReg → BitVec 33 → Instr) : Dec :=
  checked [zero w 33 6] (f (bv w 45 6) (bv w 39 6) (bv w 0 33))

/-- S, form SI with an immediate from 0 to 63. -/
def decShift (w : Nat) (f : SReg → SReg → BitVec 6 → Instr) : Dec :=
  checked [zero w 33 6, need (decide (fld w 0 33 < 64)) 0] (f (bv w 45 6) (bv w 39 6) (bv w 0 6))

/-- S, form SM: size code, reuse, offset; `okSize` lists the sizes, `reuse` says whether the reuse field is used. -/
def decSM (w : Nat) (okSize : MSize → Bool) (reuse : Bool)
    (f : MSize → SReg → SReg → BitVec 3 → BitVec 33 → Instr) : Dec :=
  let es := [if reuse then none else zero w 33 3]
  match MSize.ofCode (fld w 36 3) with
  | some sz => checked (need (okSize sz) 36 :: es) (f sz (bv w 45 6) (bv w 39 6) (bv w 33 3) (bv w 0 33))
  | none => checked (some 36 :: es) .yield

/-- TRAP and SYSC: d, a, fn zero, imm 0 to 65,535. -/
def decTrap (w : Nat) (f : BitVec 16 → Instr) : Dec :=
  checked [zero w 33 18, need (decide (fld w 0 33 < 65536)) 0] (f (bv w 0 16))

/-- SH with a two-bit selector (HGET, HSET, HADV). -/
def decSel (w : Nat) (f : HReg → SReg → BitVec 2 → Instr) : Dec :=
  checked [zero w 0 30, zero w 30 5, need (decide (fld w 35 5 < 4)) 35] (f (bv w 46 5) (bv w 40 6) (bv w 35 2))

/-- The S slot (R39). -/
def decS (w : Nat) : Dec :=
  match opOf w with
  | 0x01 => decSA w .add
  | 0x02 => decSA w .sub
  | 0x03 => decSA w .and
  | 0x04 => decSA w .or
  | 0x05 => decSA w .xor
  | 0x06 => decSA w .shl
  | 0x07 => decSA w .shr
  | 0x08 => decSA w .sra
  | 0x09 => decSA w .mul
  | 0x0A => decSU w .mulh
  | 0x0B => decSU w .div
  | 0x0C => decSU w .rem
  | 0x0D => decSU w .min
  | 0x0E => decSU w .max
  | 0x0F => checked [zero w 0 39] (.clz (bv w 45 6) (bv w 39 6))
  | 0x10 => checked [zero w 0 39] (.popc (bv w 45 6) (bv w 39 6))
  | 0x11 => decSA w .bext
  | 0x12 => decSA w .bins
  | 0x17 => checked [zero w 19 26] (.ldih (bv w 45 6) (bv w 0 19))
  | 0x18 => decSI w .addi
  | 0x19 => decSI w .andi
  | 0x1A => decSI w .ori
  | 0x1B => decSI w .xori
  | 0x1C => decShift w .shli
  | 0x1D => decShift w .shri
  | 0x1E => decShift w .srai
  | 0x1F => .ok (.ldi (bv w 45 6) (bv w 0 45))
  | 0x20 => listed (Cond.ofCode (fld w 27 6)) 27 [zero w 0 27, need (decide (fld w 45 6 < 16)) 45]
      (fun c => .cmp c (bv w 45 4) (bv w 39 6) (bv w 33 6)) .yield
  | 0x21 => listed (Cond.ofCode (fld w 33 6)) 33 [need (decide (fld w 45 6 < 16)) 45]
      (fun c => .cmpi c (bv w 45 4) (bv w 39 6) (bv w 0 33)) .yield
  | 0x22 => checked [zero w 0 27, zero w 32 1] (.sel (bv w 45 6) (bv w 39 6) (bv w 33 6) (bv w 27 4) (tst w 31))
  | 0x23 => listed (LogOp.ofCode (fld w 27 6)) 27
      [zero w 0 27, need (decide (fld w 45 6 < 16)) 45, need (decide (fld w 39 6 < 16)) 39,
       need (decide (fld w 33 6 < 16)) 33]
      (fun o => .plog o (bv w 45 4) (bv w 39 4) (bv w 33 4)) .yield
  | 0x30 => decSM w (fun _ => true) true .ld
  | 0x31 => decSM w (fun z => z == .b || z == .h || z == .w || z == .d) false (fun z d a _ o => .st z d a o)
  | 0x32 => decSM w (fun z => z == .d) true (fun _ d a r o => .ldp d a r o)
  | 0x33 => decSM w (fun z => z == .d) false (fun _ d a _ o => .stp d a o)
  | 0x34 => decSM w (fun _ => true) false (fun z d a _ o => .ldc z d a o)
  | 0x40 => checked [zero w 0 19] (.br (bv w 19 32))
  | 0x41 => checked [zero w 0 13, zero w 19 32] (.bri (bv w 13 6))
  | 0x42 => checked [zero w 0 19] (.call (bv w 19 32))
  | 0x43 => checked [zero w 0 13, zero w 19 32] (.calli (bv w 13 6))
  | 0x44 => checked [zero w 0 51] .ret
  | 0x45 => checked [zero w 0 24, need (fld w 30 20 != 0) 30] (.loop (tst w 50) (bv w 30 20) (bv w 24 6))
  | 0x46 => checked [need (fld w 30 20 != 0) 30] (.loopi (tst w 50) (bv w 30 20) (bv w 0 30))
  | 0x50 => checked [zero w 0 33] (.movx (bv w 45 6) (bv w 33 12))
  | 0x51 => checked [zero w 0 33] (.movxw (bv w 33 12) (bv w 45 6))
  | 0x52 => checked [zero w 0 30, zero w 35 11] (.hmov (bv w 46 5) (bv w 30 5))
  | 0x53 => decSel w (fun h s k => .hget s h k)
  | 0x54 => decSel w (fun h s k => .hset h k s)
  | 0x55 => decSel w (fun h s k => .hadv h k s)
  | 0x56 => checked [zero w 0 26, need (fld w 42 4 != 0 && fld w 42 4 != 15) 42, need (decide (fld w 46 5 < 24)) 46]
      (.tshape (bv w 46 5) (bv w 42 4) (bv w 36 6) (bv w 26 10))
  | 0x60 => checked [zero w 0 40] (.tidw (bv w 46 5) (bv w 40 6))
  | 0x61 => checked [zero w 0 40] (.tidr (bv w 46 5) (bv w 40 6))
  | 0x62 => checked [zero w 0 40, zero w 46 5] (.tidi (bv w 40 6))
  | 0x63 => listed (AmoOp.ofCode (fld w 27 6)) 27 [zero w 0 27]
      (fun o => .amo o (bv w 45 6) (bv w 39 6) (bv w 33 6)) .yield
  | 0x64 => decSA w .cas
  | 0x65 => decSA w .cas2
  | 0x70 => decTrap w .trap
  | 0x71 => decTrap w .sysc
  | 0x72 => checked [zero w 0 51] .eret
  | 0x73 => listed (TlbiForm.ofCode (fld w 27 6)) 27
      [zero w 0 27, zero w 33 6, zero w 45 6, if fld w 27 6 = 2 then zero w 39 6 else none]
      (fun f => .tlbi f (bv w 39 6)) .yield
  | _ => .bad 56

/-! ### V slots (R40) -/

/-- The fields common to V syllables. -/
def vcom (w : Nat) : VCom := ⟨bv w 47 4, tst w 46, bv w 9 4, bv w 3 6⟩
/-- The destination row. -/
def rowD (w : Nat) : RowRef := ⟨bv w 41 5, bv w 35 6⟩
/-- The first source row. -/
def rowA (w : Nat) : RowRef := ⟨bv w 30 5, bv w 24 6⟩
/-- The second source row. -/
def rowB (w : Nat) : RowRef := ⟨bv w 19 5, bv w 13 6⟩
/-- A tile field within 0 to 23 (R27). -/
def needTile (w lo : Nat) : Option Nat := need (decide (fld w lo 5 < 24)) lo
/-- The type field within a set (R40). -/
def needTy (w : Nat) (p : Fmt → Bool) : Option Nat := need (p (bv w 9 4)) 9

/-- Three rows, fn 0. -/
def decV3 (w : Nat) (p : Fmt → Bool) (f : VCom → RowRef → RowRef → RowRef → Instr) : Dec :=
  checked [zero w 0 3, needTy w p, needTile w 19, needTile w 30, needTile w 41] (f (vcom w) (rowD w) (rowA w) (rowB w))

/-- Two rows, Tb and row b zero, fn 0. -/
def decV2 (w : Nat) (p : Fmt → Bool) (f : VCom → RowRef → RowRef → Instr) : Dec :=
  checked [zero w 0 3, needTy w p, zero w 13 11, needTile w 30, needTile w 41] (f (vcom w) (rowD w) (rowA w))

/-- Two rows and a scalar in 23:18, fn 0. -/
def decVS (w : Nat) (p : Fmt → Bool) (f : VCom → RowRef → RowRef → SReg → Instr) : Dec :=
  checked [zero w 0 3, needTy w p, zero w 13 5, needTile w 30, needTile w 41]
    (f (vcom w) (rowD w) (rowA w) (bv w 18 6))

/-- Two rows and a source format in 22:19; bit 23 and row b zero. -/
def decVF (w : Nat) (p q : Fmt → Bool) (es : List (Option Nat)) (f : VCom → RowRef → RowRef → Fmt → Instr) : Dec :=
  checked (zero w 13 6 :: zero w 23 1 :: need (q (bv w 19 4)) 19 :: needTy w p :: needTile w 30 :: needTile w 41 :: es)
    (f (vcom w) (rowD w) (rowA w) (bv w 19 4))

/-- The memory form (R40). -/
def vmemF (w : Nat) : VMemF := ⟨bv w 47 4, tst w 46, rowD w, bv w 29 6, bv w 13 16, bv w 3 6⟩

/-- A V slot; `sl` says which. -/
def decV (sl : VSlot) (w : Nat) : Dec :=
  match opOf w with
  | 0x01 => decV3 w Fmt.inF (.vadd sl)
  | 0x02 => decV3 w Fmt.inF (.vsub sl)
  | 0x03 => decV3 w Fmt.inF (.vmul sl)
  | 0x04 => decV3 w Fmt.inF (.vfma sl)
  | 0x05 => decV3 w Fmt.inF (.vfms sl)
  | 0x06 => decV3 w Fmt.inF (.vmin sl)
  | 0x07 => decV3 w Fmt.inF (.vmax sl)
  | 0x08 => decV2 w Fmt.inF (.vabs sl)
  | 0x09 => decV2 w Fmt.inF (.vneg sl)
  | 0x0A => if sl = .v1 then decV2 w Fmt.inF .vrcp else .bad 56
  | 0x0B => if sl = .v1 then decV2 w Fmt.inF .vrsq else .bad 56
  | 0x0C => if sl = .v1 then decV2 w Fmt.inF .vexp2 else .bad 56
  | 0x0D => if sl = .v1 then decV2 w Fmt.inF .vlog2 else .bad 56
  | 0x0E => decV3 w Fmt.inC (.vcmul sl)
  | 0x10 => decV3 w Fmt.inI (.viadd sl)
  | 0x11 => decV3 w Fmt.inI (.visub sl)
  | 0x12 => decV3 w Fmt.inI (.vimul sl)
  | 0x13 => decV3 w Fmt.inI (.vand sl)
  | 0x14 => decV3 w Fmt.inI (.vor sl)
  | 0x15 => decV3 w Fmt.inI (.vxor sl)
  | 0x16 => decV3 w Fmt.inI (.vshl sl)
  | 0x17 => decV3 w Fmt.inI (.vshr sl)
  | 0x18 => decV3 w Fmt.inI (.vsra sl)
  | 0x20 => listed (FCond.ofCode (fld w 0 3)) 0
      [needTy w Fmt.inF, needTile w 19, needTile w 30, zero w 35 6, zero w 45 1]
      (fun k => .vcmp sl (vcom w) k (bv w 41 4) (rowA w) (rowB w)) .yield
  | 0x21 => listed (Cond.ofCode (fld w 0 3)) 0
      [needTy w Fmt.inI, needTile w 19, needTile w 30, zero w 35 6, zero w 45 1]
      (fun k => .vicmp sl (vcom w) k (bv w 41 4) (rowA w) (rowB w)) .yield
  | 0x22 => decV3 w Fmt.inW (.vsel sl)
  | 0x23 => checked [zero w 0 9, needTy w Fmt.inW, zero w 13 5, zero w 24 17, zero w 45 1]
      (.vplen sl (vcom w) (bv w 41 4) (bv w 18 6))
  | 0x24 => listed (LogOp.ofCode (fld w 0 3)) 0
      [zero w 3 6, needTy w (fun t => t == 0), zero w 13 6, zero w 23 7, zero w 34 7, zero w 45 1]
      (fun o => .vplog sl (vcom w) o (bv w 41 4) (bv w 30 4) (bv w 19 4)) .yield
  | 0x30 => decV2 w Fmt.inW (.vmov sl)
  | 0x31 => checked [zero w 0 3, needTy w Fmt.inW, zero w 13 5, zero w 24 11, needTile w 41]
      (.vbc sl (vcom w) (rowD w) (bv w 18 6))
  | 0x32 => listed (RedOp.ofCode (fld w 0 3)) 0
      [needTy w (fun t => t.inF || t.inI), zero w 13 11, needTile w 30, needTile w 41]
      (fun o => .vred sl (vcom w) o (rowD w) (rowA w)) .yield
  | 0x33 => decV3 w Fmt.inW (.vperm sl)
  | 0x34 => decVS w Fmt.inW (.vrot sl)
  | 0x40 =>
    let td : Fmt := bv w 9 4
    let ts : Fmt := bv w 19 4
    decVF w Fmt.inW Fmt.inW
      [if td.inW && ts.inW && td.inC != ts.inC then some 9 else none,
       if td.inW && ts.inW && !decide (fld w 0 3 < cvtRatio td ts) then some 0 else none]
      (fun c d a s => .vcvt sl c d a s (bv w 0 3))
  | 0x41 => decVF w Fmt.inN Fmt.inF [need (decide (fld w 0 3 < 2)) 0] (fun c d a s => .vqnt sl c (tst w 0) d a s)
  | 0x42 => decVF w Fmt.inF Fmt.inN [zero w 0 3] (fun c d a s => .vdq sl c d a s)
  | 0x43 => decV2 w Fmt.inF (.vamax sl)
  | 0x44 => decV3 w Fmt.inF (.vsplit sl)
  | 0x45 => decVS w Fmt.inF (.vsnap sl)
  | 0x60 => if sl = .v0 then checked [needTy w (fun t => t == 0), needTile w 41] (.vld (vmemF w) (bv w 0 3)) else .bad 56
  | 0x61 => if sl = .v0 then checked [zero w 0 3, needTy w (fun t => t == 0), needTile w 41] (.vst (vmemF w)) else .bad 56
  | 0x62 => if sl = .v0 then checked [needTy w Fmt.inW, needTile w 41] (.vlds (vmemF w) (bv w 9 4) (bv w 0 3))
      else .bad 56
  | _ => .bad 56

/-! ### M, C, O, L and K slots (R41 to R45) -/

/-- The M slot (R41). -/
def decM (w : Nat) : Dec :=
  match opOf w with
  | 0x01 => checked [zero w 0 45] (.mcfg (bv w 45 6))
  | 0x02 => listed (MVar.ofCode (fld w 32 4)) 32 [zero w 0 32, needTile w 36, needTile w 41, needTile w 46]
      (fun v => .mstep v (bv w 46 5) (bv w 41 5) (bv w 36 5)) .yield
  | 0x03 => checked [zero w 0 46, needTile w 46] (.mzero (bv w 46 5))
  | 0x04 => checked [zero w 0 37, need (let f : Fmt := bv w 37 4; f.inF || f == 7) 37, needTile w 41, needTile w 46]
      (.mfin (bv w 37 4) (bv w 41 5) (bv w 46 5))
  | 0x05 => checked [zero w 0 41, needTile w 41, needTile w 46] (.mtrn (bv w 46 5) (bv w 41 5))
  | 0x06 => checked [zero w 0 46] (.mdup (bv w 46 5))
  | _ => .bad 56

/-- The prm and cnt fields of the copy form (R42). -/
def pcOf (w : Nat) : PrmCnt := ⟨bv w 35 6, bv w 29 6⟩
/-- The step fields of the copy form (R42). -/
def stepOf (w : Nat) : StepF := ⟨bv w 13 16, bv w 11 2, tst w 7⟩

/-- A copy slot (R42). -/
def decC (sl : CSlot) (w : Nat) : Dec :=
  match opOf w with
  | 0x01 => checked [zero w 0 7, zero w 8 3] (.cpy sl (bv w 46 5) (bv w 41 5) (pcOf w) (stepOf w))
  | 0x02 => checked [zero w 0 7, need (decide (fld w 8 3 < 2)) 8]
      (.cpyq sl (tst w 8) (bv w 46 5) (bv w 41 5) (pcOf w) (stepOf w))
  | 0x03 => checked [zero w 0 7, zero w 8 3] (.cpyd sl (bv w 46 5) (bv w 41 5) (pcOf w) (stepOf w))
  | 0x04 => listed (CpyrOp.ofCode (fld w 8 3)) 8 [zero w 0 7]
      (fun o => .cpyr sl o (bv w 46 5) (bv w 41 5) (pcOf w) (stepOf w)) .yield
  | 0x05 => checked [zero w 0 7, need (tst w 7) 7, zero w 8 3, zero w 41 5]
      (.cfill sl (bv w 46 5) (pcOf w) (bv w 13 16) (bv w 11 2))
  | 0x06 => checked [zero w 0 2, zero w 8 3] (.cgat sl (bv w 46 5) (bv w 41 5) (bv w 2 5) (pcOf w) (stepOf w))
  | 0x07 => checked [zero w 0 2, zero w 8 3] (.csct sl (bv w 46 5) (bv w 41 5) (bv w 2 5) (pcOf w) (stepOf w))
  | 0x08 => checked [zero w 0 29] (.wopen sl (bv w 46 5) (bv w 41 5) (pcOf w))
  | 0x09 => checked [zero w 0 13, need (fld w 13 16 != 0) 13, zero w 41 5] (.wadv sl (bv w 46 5) (bv w 13 16) (pcOf w))
  | 0x0A => checked [zero w 0 29, zero w 35 11] (.wclose sl (bv w 46 5) (bv w 29 6))
  | 0x0B => checked [zero w 0 11, zero w 35 6, zero w 46 5] (.cpref sl (bv w 41 5) (bv w 29 6) (bv w 13 16) (bv w 11 2))
  | 0x0C => checked [zero w 0 11, zero w 35 6, zero w 46 5] (.cflush sl (bv w 41 5) (bv w 29 6) (bv w 13 16) (bv w 11 2))
  | 0x0D => checked [zero w 0 24, needTile w 46]
      (.fpush sl (bv w 46 5) (bv w 40 6) (bv w 34 6) (bv w 30 4) (bv w 24 6))
  | 0x0E => checked [zero w 0 24, needTile w 46]
      (.fpop sl (bv w 46 5) (bv w 40 6) (bv w 34 6) (bv w 30 4) (bv w 24 6))
  | 0x0F => checked [zero w 0 45] (.cbank sl (bv w 47 4) (BankMode.ofCode (fld w 45 2)))
  | _ => .bad 56

/-- OFT, OIFT and OCONV: log2 n from 2 to 8 (R43). -/
def decOft (w : Nat) (f : HReg → HReg → SReg → PrmCnt → BitVec 4 → Instr) : Dec :=
  checked [zero w 0 19, need (decide (2 ≤ fld w 19 4) && decide (fld w 19 4 ≤ 8)) 19]
    (f (bv w 46 5) (bv w 41 5) (bv w 35 6) ⟨bv w 23 6, bv w 29 6⟩ (bv w 19 4))

/-- The O slot (R43). -/
def decO (w : Nat) : Dec :=
  match opOf w with
  | 0x01 =>
    match Aperture.ofCode (fld w 49 2), Recovery.ofCode (fld w 47 2) with
    | some a, some r => checked [zero w 0 47] (.omode a r)
    | none, some _ => checked [zero w 0 47, some 49] .yield
    | _, none => checked [zero w 0 47, some 47] .yield
  | 0x02 => checked [zero w 0 34] (.omask (bv w 46 5) ⟨bv w 34 6, bv w 40 6⟩)
  | 0x03 => decOft w .oft
  | 0x04 => decOft w .oift
  | 0x05 => decOft w .oconv
  | 0x06 => checked [zero w 0 39] (.ocal ⟨bv w 39 6, bv w 45 6⟩)
  | 0x07 => listed (OReg.ofCode (fld w 41 4)) 41 [zero w 0 41] (fun r => .ostat (bv w 45 6) r) .yield
  | _ => .bad 56

/-- The L slot (R44). The type of LQADD, always 0, counts as a zero field: R28's report names its lowest set bit (DEDUCED, log 60). -/
def decL (w : Nat) : Dec :=
  match opOf w with
  | 0x01 => checked [zero w 0 29] (.lsend (bv w 46 5) (bv w 41 5) ⟨bv w 29 6, bv w 35 6⟩)
  | 0x02 => checked [zero w 0 29] (.lrecv (bv w 46 5) (bv w 41 5) ⟨bv w 29 6, bv w 35 6⟩)
  | 0x03 => checked [zero w 0 18, need (fld w 18 4 == 1 || fld w 18 4 == 7) 18]
      (.lradd (fld w 18 4 == 7) (bv w 46 5) (bv w 40 6) (bv w 34 6) ⟨bv w 22 6, bv w 28 6⟩)
  | 0x04 => checked [zero w 0 22] (.lqadd (bv w 46 5) (bv w 40 6) (bv w 34 6) ⟨bv w 22 6, bv w 28 6⟩)
  | 0x05 => checked [zero w 0 40] (.ltmo (bv w 46 5) (bv w 40 6))
  | 0x06 => checked [zero w 0 45] (.lring (bv w 45 6))
  | 0x07 => checked [zero w 0 40] (.lstat (bv w 45 6) (bv w 40 5))
  | 0x08 => checked [zero w 0 33] (.lcadd (bv w 45 6) (bv w 39 6) (bv w 33 6))
  | _ => .bad 56

/-- KALU (R45, R348). -/
def decKalu (w : Nat) : Dec :=
  let d : SReg := bv w 45 6
  let a : SReg := bv w 39 6
  let k := need (decide (32 ≤ fld w 45 6)) 45
  match KRegOp.ofCode (fld w 33 6) with
  | some o => checked [k, zero w 0 27] (.kalu d a (.reg o (bv w 27 6)))
  | none =>
    match KImmOp.ofCode (fld w 33 6) with
    | some o => checked [k] (.kalu d a (.imm o (bv w 0 33)))
    | none =>
      match KShiftOp.ofCode (fld w 33 6) with
      | some o => checked [k, need (decide (fld w 0 33 < 64)) 0] (.kalu d a (.shift o (bv w 0 6)))
      | none => checked [k, some 33] .yield

/-- The K slot (R45). -/
def decK (w : Nat) : Dec :=
  match opOf w with
  | 0x01 => checked [zero w 0 36] (.spawn (bv w 48 3) (bv w 42 6) (bv w 36 6))
  | 0x02 => checked [zero w 0 51] .yield
  | 0x03 => checked [zero w 0 51] .endTask
  | 0x04 => checked [zero w 0 49] (.barg (BScope.ofCode (fld w 49 2)))
  | 0x05 => checked [zero w 0 45] (.sleept (bv w 45 6))
  | 0x06 => checked [zero w 0 19] (.waito (bv w 43 8) (bv w 35 8) (bv w 25 10) (bv w 19 6))
  | 0x10 => listed (Scope.ofCode (fld w 35 3)) 35
      [zero w 0 30, if tst w 38 || fld w 30 8 == 0 then none else some 30]
      (fun sc => .cadd (bv w 45 6) (bv w 39 6) (tst w 38) sc (bv w 30 5)) .yield
  | 0x11 => listed (Scope.ofCode (fld w 35 3)) 35
      [zero w 0 35, if tst w 38 || fld w 35 3 == 0 then none else some 35]
      (fun sc => .cwait (bv w 45 6) (bv w 39 6) (tst w 38) sc) .yield
  | 0x12 => checked [zero w 0 39] (.cread (bv w 45 6) (bv w 39 6))
  | 0x13 => listed (Scope.ofCode (fld w 35 3)) 35 [zero w 0 35, zero w 38 1]
      (fun sc => .waita (bv w 45 6) (bv w 39 6) sc) .yield
  | 0x14 => listed (Scope.ofCode (fld w 48 3)) 48 [zero w 0 43] (fun sc => .drain sc (bv w 43 5)) .yield
  | 0x20 => checked [zero w 0 39] (.lnch (bv w 45 6) (bv w 39 6))
  | 0x21 => checked [zero w 0 41] (.rlnch (bv w 47 4) (bv w 41 6))
  | 0x22 => checked [zero w 0 41] (.trarm (bv w 47 4) (bv w 41 6))
  | 0x23 => checked [zero w 0 41] (.trstat (bv w 45 6) (bv w 41 4))
  | 0x30 =>
    if tst w 50 then
      checked [zero w 0 28, needTile w 34, needTile w 45] (.chk (.v ⟨bv w 45 5, bv w 39 6⟩ ⟨bv w 34 5, bv w 28 6⟩))
    else checked [zero w 0 38] (.chk (.s (bv w 44 6) (bv w 38 6)))
  | 0x31 => checked [zero w 0 43, need (decide (fld w 43 2 < 2)) 43] (.digr (tst w 43) (bv w 45 6))
  | 0x32 => checked [zero w 0 43, need (decide (fld w 43 2 < 2)) 43] (.digx (tst w 43) (bv w 45 6))
  | 0x33 => decKalu w
  | 0x38 => checked [zero w 0 45] (.ctxs (bv w 45 6))
  | 0x39 => checked [zero w 0 45] (.ctxl (bv w 45 6))
  | _ => .bad 56

/-! ## Syllables, headers, bundles -/

/-- The nop syllable (R26): opcode 0x01 under guard !P0, every other bit zero. -/
def nopWord : Nat := 0x0180000000000000

/-- A syllable in a slot (R25, R26, R28, R46). -/
def decSyl (sl : Slot) (w : Nat) : Dec :=
  if w = nopWord then .ok (.nop sl) else
  match sl with
  | .s => decS w
  | .v0 => decV .v0 w
  | .v1 => decV .v1 w
  | .m => decM w
  | .c0 => decC .c0 w
  | .c1 => decC .c1 w
  | .o => decO w
  | .l => decL w
  | .k => decK w

/-- The slots in slot order (R22). -/
def slots : List Slot := [.s, .v0, .v1, .m, .c0, .c1, .o, .l, .k]

/-- A slot's place in the masks of the header (R23). -/
def Slot.ix : Slot → Nat
  | .s => 0 | .v0 => 1 | .v1 => 2 | .m => 3 | .c0 => 4 | .c1 => 5 | .o => 6 | .l => 7 | .k => 8

/-- The slots a present mask names, in slot order. -/
def presentSlots (p : BitVec 9) : List Slot := slots.filter fun sl => p.getLsbD sl.ix

/-- The fields of a header word (R23). -/
def headerOf (w : Nat) : Header := ⟨bv w 51 9, bv w 42 9, bv w 34 8, tst w 33, tst w 32, bv w 16 16⟩

/-- A header word's own failing bits (R24, R28). -/
def headerErrs (w : Nat) : List (Option Nat) :=
  [need (fld w 60 4 == 0b1101) 60,
   zero w 0 16,
   if tst w 42 then some 42 else zero w 48 3,
   lowBit (w / 2 ^ 51 % 2 ^ 9 &&& w / 2 ^ 42 % 2 ^ 9) 0 9 |>.map (· + 42),
   need (tst w 33 == (fld w 16 16 != 0)) 16]

/-- What a bundle decodes to: its length in syllables and its instruction, or the syllable and bit of R28. -/
inductive BDec where
  | ok (len : Nat) (i : Instr)
  | bad (syl bit : Nat)
  deriving DecidableEq, Repr

/-- The first syllable, from index `i` on, that does not decode, and its bit. -/
def firstBad : Nat → List Slot → List Word → Option (Nat × Nat)
  | i, sl :: sls, w :: ws =>
    match decSyl sl w.toNat with
    | .ok _ => firstBad (i + 1) sls ws
    | .bad b => some (i, b)
  | _, _, _ => none

/-- Whether a header makes a bundle that only presents its slots: no repeat, no quiet bit, no marks. -/
def Header.plain (h : Header) : Bool := h.quiet == 0 && h.rep == 0 && !h.y && !h.b

/-- The ERET check (R81): the lowest set bit among REP and the PRESENT bits other than S. -/
def eretBit (h : Nat) (ss : List Slot) (ws : List Word) : Option Nat :=
  match ss, ws with
  | .s :: _, w :: _ =>
    if opOf w.toNat = 0x72 then
      leastBit [lowBit h 34 8, lowBit h 52 8]
    else none
  | _, _ => none

/-- The instruction of a valid bundle: a slot operation itself where the header is plain and it alone is present under
the guard P0, else the bundle with its syllables. -/
def bundleInstr (h : Header) (ss : List Slot) (ws : List Word) : Instr :=
  match ss, ws with
  | [sl], [w] =>
    match decSyl sl w.toNat with
    | .ok (.nop x) => if h.plain then .nop x else .bundleIssue h ws
    | .ok i => if h.plain && guardOf w.toNat == ⟨false, 0⟩ then i else .bundleIssue h ws
    | .bad _ => .bundleIssue h ws
  | _, _ => .bundleIssue h ws

/-- A bundle decoded whole (R28). `ws` holds the words from its header to the end of its instruction-memory half, at
most ten. -/
def decodeBundle (ws : List Word) : BDec :=
  match ws with
  | [] => .bad 0 60
  | h :: rest =>
    let hw := h.toNat
    let ss := presentSlots (headerOf hw).present
    let short := if rest.length < ss.length then (ss.drop rest.length).head?.map fun sl => 51 + sl.ix else none
    match leastBit (short :: eretBit hw ss rest :: headerErrs hw) with
    | some b => .bad 0 b
    | none =>
      match firstBad 1 ss rest with
      | some (i, b) => .bad i b
      | none => .ok (1 + ss.length) (bundleInstr (headerOf hw) ss (rest.take ss.length))

/-! ## Packets (R291, R292) -/

/-- Byte `i` on of a packet, `n` bytes, as a number (R3). -/
def pkt (w i n : Nat) : Nat := fld w (8 * i) (8 * n)

/-- The packet whose 64 bytes, lowest first, are the number `w`; `none` is BAD_PACKET. `p` is its place in its queue's
window. Reserved bytes are zero (R291, R292). -/
def decodePacket (p : PktRef) (w : Nat) : Option Instr :=
  let z (i n : Nat) : Bool := pkt w i n == 0
  let ctr : Option Nat := if tst w (8 * 46) then some (pkt w 44 2) else none
  if fld w 11 5 ≠ 0 then none else
  match pkt w 0 1 with
  | 0x01 => if fld w (8 * 46 + 1) 7 == 0 && z 47 17 then some (.launch p (pkt w 36 8) ctr) else none
  | 0x02 => if z 37 7 && fld w (8 * 46 + 1) 7 == 0 && z 47 17 then some (.relaunch p (pkt w 36 1) ctr) else none
  | 0x03 => if z 60 4 && decide (1 ≤ pkt w 52 8) && decide (pkt w 52 8 ≤ 2 ^ 40) then
      some (.copy p (pkt w 36 8) (pkt w 44 8) (pkt w 52 8)) else none
  | 0x04 => if z 60 4 && decide (1 ≤ pkt w 44 8) && decide (pkt w 44 8 ≤ 2 ^ 40) then
      some (.fill p (pkt w 36 8) (pkt w 44 8) (BitVec.ofNat 64 (pkt w 52 8))) else none
  | 0x05 => if z 46 18 then some (.counterAdd p (pkt w 36 2) (pkt w 38 8)) else none
  | 0x06 => if z 46 18 then some (.counterWait p (pkt w 36 2) (pkt w 38 8)) else none
  | 0x07 => if z 37 3 && z 48 16 then some (.traceArm p (pkt w 36 1) (pkt w 40 8)) else none
  | 0x08 => if fld w (8 * 36 + 4) 4 == 0 && z 37 27 && fld w (8 * 36) 4 != 0 then
      some (.veilCal p (bv w (8 * 36) 4)) else none
  | 0x09 => if z 38 2 && z 56 8 && pkt w 40 8 % 64 == 0 && decide (pkt w 36 1 ≤ 2) then
      some (.query p (pkt w 36 1) (pkt w 37 1) (pkt w 40 8) (pkt w 48 8)) else none
  | 0x0A => if z 48 16 && decide (pkt w 46 2 < 4096) then
      some (.tidWrite p (pkt w 36 8) (pkt w 44 1) (pkt w 45 1) (pkt w 46 2)) else none
  | 0x0B =>
    if !z 39 25 then none else
    match pkt w 37 1 with
    | 0 => some (.queueCtlEnable p (pkt w 36 1))
    | 1 => some (.queueCtlDisable p (pkt w 36 1))
    | 2 => some (.queueCtlRehome p (pkt w 36 1) (pkt w 38 1))
    | 3 => some (.queueCtlClear p (pkt w 36 1))
    | _ => none
  | 0x0C => if z 36 28 then some (.nopPacket p) else none
  | _ => none

/-! ## The encoder -/

/-- A header word (R23). -/
def encodeHeader (h : Header) : Nat :=
  0b1101 * 2 ^ 60 + h.present.toNat * 2 ^ 51 + h.quiet.toNat * 2 ^ 42 + h.rep.toNat * 2 ^ 34 + h.y.toNat * 2 ^ 33 +
    h.b.toNat * 2 ^ 32 + h.budget.toNat * 2 ^ 16

/-- The opcode and guard of a syllable (R25). -/
def encHead (g : Guard) (op : Nat) : Nat := op * 2 ^ 56 + g.gn.toNat * 2 ^ 55 + g.gp.toNat * 2 ^ 51

/-- Form SA (R39). -/
def encSA (d a b fn : Nat) : Nat := d * 2 ^ 45 + a * 2 ^ 39 + b * 2 ^ 33 + fn * 2 ^ 27
/-- Form SI (R39). -/
def encSI (d a fn imm : Nat) : Nat := d * 2 ^ 45 + a * 2 ^ 39 + fn * 2 ^ 33 + imm
/-- Form SM (R39). -/
def encSM (d a sz reuse off : Nat) : Nat := d * 2 ^ 45 + a * 2 ^ 39 + sz * 2 ^ 36 + reuse * 2 ^ 33 + off
/-- Form SH (R39). -/
def encSH (h s sel h2 : Nat) : Nat := h * 2 ^ 46 + s * 2 ^ 40 + sel * 2 ^ 35 + h2 * 2 ^ 30

/-- The common fields of a V syllable with its fn (R40). -/
def encV (c : VCom) (fn : Nat) : Nat :=
  c.q.toNat * 2 ^ 47 + c.qn.toNat * 2 ^ 46 + c.ty.toNat * 2 ^ 9 + c.step.toNat * 2 ^ 3 + fn
/-- A destination row (R40). -/
def encD (r : RowRef) : Nat := r.t.toNat * 2 ^ 41 + r.r.toNat * 2 ^ 35
/-- A first source row (R40). -/
def encA (r : RowRef) : Nat := r.t.toNat * 2 ^ 30 + r.r.toNat * 2 ^ 24
/-- A second source row (R40). -/
def encB (r : RowRef) : Nat := r.t.toNat * 2 ^ 19 + r.r.toNat * 2 ^ 13
/-- The memory form (R40). -/
def encVM (f : VMemF) (ty reuse : Nat) : Nat :=
  f.q.toNat * 2 ^ 47 + f.qn.toNat * 2 ^ 46 + encD f.d + f.base.toNat * 2 ^ 29 + f.off.toNat * 2 ^ 13 + ty * 2 ^ 9 +
    f.step.toNat * 2 ^ 3 + reuse
/-- The copy form (R42). -/
def encC (hd hs : Nat) (e : PrmCnt) (step sdim fn tgt hx : Nat) : Nat :=
  hd * 2 ^ 46 + hs * 2 ^ 41 + e.prm.toNat * 2 ^ 35 + e.cnt.toNat * 2 ^ 29 + step * 2 ^ 13 + sdim * 2 ^ 11 + fn * 2 ^ 8 +
    tgt * 2 ^ 7 + hx * 2 ^ 2
/-- The copy form with a handle step. -/
def encCS (hd hs : HReg) (e : PrmCnt) (st : StepF) (fn hx : Nat) : Nat :=
  encC hd.toNat hs.toNat e st.step.toNat st.sdim.toNat fn st.tgt.toNat hx
/-- FPUSH and FPOP (R42). -/
def encF (t r n1 bank cnt : Nat) : Nat := t * 2 ^ 46 + r * 2 ^ 40 + n1 * 2 ^ 34 + bank * 2 ^ 30 + cnt * 2 ^ 24
/-- OFT, OIFT and OCONV (R43). -/
def encO (hd hs x : Nat) (e : PrmCnt) (logn : Nat) : Nat :=
  hd * 2 ^ 46 + hs * 2 ^ 41 + x * 2 ^ 35 + e.cnt.toNat * 2 ^ 29 + e.prm.toNat * 2 ^ 23 + logn * 2 ^ 19
/-- LRADD and LQADD (R44). -/
def encLA (port a l : Nat) (e : PrmCnt) (ty : Nat) : Nat :=
  port * 2 ^ 46 + a * 2 ^ 40 + l * 2 ^ 34 + e.cnt.toNat * 2 ^ 28 + e.prm.toNat * 2 ^ 22 + ty * 2 ^ 18

/-- The slot, opcode and bits 50:0 of a slot operation (R39 to R45); `none` for a bundle, an event or a packet. -/
def encodeOp : Instr → Option (Slot × Nat × Nat)
  | .add d a b => some (.s, 0x01, encSA d.toNat a.toNat b.toNat 0)
  | .sub d a b => some (.s, 0x02, encSA d.toNat a.toNat b.toNat 0)
  | .and d a b => some (.s, 0x03, encSA d.toNat a.toNat b.toNat 0)
  | .or d a b => some (.s, 0x04, encSA d.toNat a.toNat b.toNat 0)
  | .xor d a b => some (.s, 0x05, encSA d.toNat a.toNat b.toNat 0)
  | .shl d a b => some (.s, 0x06, encSA d.toNat a.toNat b.toNat 0)
  | .shr d a b => some (.s, 0x07, encSA d.toNat a.toNat b.toNat 0)
  | .sra d a b => some (.s, 0x08, encSA d.toNat a.toNat b.toNat 0)
  | .mul d a b => some (.s, 0x09, encSA d.toNat a.toNat b.toNat 0)
  | .mulh u d a b => some (.s, 0x0A, encSA d.toNat a.toNat b.toNat u.toNat)
  | .div u d a b => some (.s, 0x0B, encSA d.toNat a.toNat b.toNat u.toNat)
  | .rem u d a b => some (.s, 0x0C, encSA d.toNat a.toNat b.toNat u.toNat)
  | .min u d a b => some (.s, 0x0D, encSA d.toNat a.toNat b.toNat u.toNat)
  | .max u d a b => some (.s, 0x0E, encSA d.toNat a.toNat b.toNat u.toNat)
  | .clz d a => some (.s, 0x0F, encSA d.toNat a.toNat 0 0)
  | .popc d a => some (.s, 0x10, encSA d.toNat a.toNat 0 0)
  | .bext d a b => some (.s, 0x11, encSA d.toNat a.toNat b.toNat 0)
  | .bins d a b => some (.s, 0x12, encSA d.toNat a.toNat b.toNat 0)
  | .ldih d i => some (.s, 0x17, d.toNat * 2 ^ 45 + i.toNat)
  | .addi d a i => some (.s, 0x18, encSI d.toNat a.toNat 0 i.toNat)
  | .andi d a i => some (.s, 0x19, encSI d.toNat a.toNat 0 i.toNat)
  | .ori d a i => some (.s, 0x1A, encSI d.toNat a.toNat 0 i.toNat)
  | .xori d a i => some (.s, 0x1B, encSI d.toNat a.toNat 0 i.toNat)
  | .shli d a n => some (.s, 0x1C, encSI d.toNat a.toNat 0 n.toNat)
  | .shri d a n => some (.s, 0x1D, encSI d.toNat a.toNat 0 n.toNat)
  | .srai d a n => some (.s, 0x1E, encSI d.toNat a.toNat 0 n.toNat)
  | .ldi d i => some (.s, 0x1F, d.toNat * 2 ^ 45 + i.toNat)
  | .cmp c d a b => some (.s, 0x20, encSA d.toNat a.toNat b.toNat c.code)
  | .cmpi c d a i => some (.s, 0x21, encSI d.toNat a.toNat c.code i.toNat)
  | .sel d a b p n => some (.s, 0x22, encSA d.toNat a.toNat b.toNat (p.toNat + n.toNat * 16))
  | .plog o d a b => some (.s, 0x23, encSA d.toNat a.toNat b.toNat o.code)
  | .ld sz d a r o => some (.s, 0x30, encSM d.toNat a.toNat sz.code r.toNat o.toNat)
  | .st sz d a o => some (.s, 0x31, encSM d.toNat a.toNat sz.code 0 o.toNat)
  | .ldp d a r o => some (.s, 0x32, encSM d.toNat a.toNat 6 r.toNat o.toNat)
  | .stp d a o => some (.s, 0x33, encSM d.toNat a.toNat 6 0 o.toNat)
  | .ldc sz d a o => some (.s, 0x34, encSM d.toNat a.toNat sz.code 0 o.toNat)
  | .br i => some (.s, 0x40, i.toNat * 2 ^ 19)
  | .bri a => some (.s, 0x41, a.toNat * 2 ^ 13)
  | .call i => some (.s, 0x42, i.toNat * 2 ^ 19)
  | .calli a => some (.s, 0x43, a.toNat * 2 ^ 13)
  | .ret => some (.s, 0x44, 0)
  | .loop l i c => some (.s, 0x45, l.toNat * 2 ^ 50 + i.toNat * 2 ^ 30 + c.toNat * 2 ^ 24)
  | .loopi l i n => some (.s, 0x46, l.toNat * 2 ^ 50 + i.toNat * 2 ^ 30 + n.toNat)
  | .movx d x => some (.s, 0x50, d.toNat * 2 ^ 45 + x.toNat * 2 ^ 33)
  | .movxw x a => some (.s, 0x51, a.toNat * 2 ^ 45 + x.toNat * 2 ^ 33)
  | .hmov h h2 => some (.s, 0x52, encSH h.toNat 0 0 h2.toNat)
  | .hget d h w => some (.s, 0x53, encSH h.toNat d.toNat w.toNat 0)
  | .hset h w a => some (.s, 0x54, encSH h.toNat a.toNat w.toNat 0)
  | .hadv h i a => some (.s, 0x55, encSH h.toNat a.toNat i.toNat 0)
  | .tshape t f r c => some (.s, 0x56, t.toNat * 2 ^ 46 + f.toNat * 2 ^ 42 + r.toNat * 2 ^ 36 + c.toNat * 2 ^ 26)
  | .tidw h a => some (.s, 0x60, encSH h.toNat a.toNat 0 0)
  | .tidr h a => some (.s, 0x61, encSH h.toNat a.toNat 0 0)
  | .tidi a => some (.s, 0x62, encSH 0 a.toNat 0 0)
  | .amo o d a b => some (.s, 0x63, encSA d.toNat a.toNat b.toNat o.code)
  | .cas d a b => some (.s, 0x64, encSA d.toNat a.toNat b.toNat 0)
  | .cas2 d a b => some (.s, 0x65, encSA d.toNat a.toNat b.toNat 0)
  | .trap i => some (.s, 0x70, i.toNat)
  | .sysc i => some (.s, 0x71, i.toNat)
  | .eret => some (.s, 0x72, 0)
  | .tlbi f a => some (.s, 0x73, encSA 0 a.toNat 0 f.code)
  | .vadd sl c d a b => some (vs sl, 0x01, encV c 0 + encD d + encA a + encB b)
  | .vsub sl c d a b => some (vs sl, 0x02, encV c 0 + encD d + encA a + encB b)
  | .vmul sl c d a b => some (vs sl, 0x03, encV c 0 + encD d + encA a + encB b)
  | .vfma sl c d a b => some (vs sl, 0x04, encV c 0 + encD d + encA a + encB b)
  | .vfms sl c d a b => some (vs sl, 0x05, encV c 0 + encD d + encA a + encB b)
  | .vmin sl c d a b => some (vs sl, 0x06, encV c 0 + encD d + encA a + encB b)
  | .vmax sl c d a b => some (vs sl, 0x07, encV c 0 + encD d + encA a + encB b)
  | .vabs sl c d a => some (vs sl, 0x08, encV c 0 + encD d + encA a)
  | .vneg sl c d a => some (vs sl, 0x09, encV c 0 + encD d + encA a)
  | .vrcp c d a => some (.v1, 0x0A, encV c 0 + encD d + encA a)
  | .vrsq c d a => some (.v1, 0x0B, encV c 0 + encD d + encA a)
  | .vexp2 c d a => some (.v1, 0x0C, encV c 0 + encD d + encA a)
  | .vlog2 c d a => some (.v1, 0x0D, encV c 0 + encD d + encA a)
  | .vcmul sl c d a b => some (vs sl, 0x0E, encV c 0 + encD d + encA a + encB b)
  | .viadd sl c d a b => some (vs sl, 0x10, encV c 0 + encD d + encA a + encB b)
  | .visub sl c d a b => some (vs sl, 0x11, encV c 0 + encD d + encA a + encB b)
  | .vimul sl c d a b => some (vs sl, 0x12, encV c 0 + encD d + encA a + encB b)
  | .vand sl c d a b => some (vs sl, 0x13, encV c 0 + encD d + encA a + encB b)
  | .vor sl c d a b => some (vs sl, 0x14, encV c 0 + encD d + encA a + encB b)
  | .vxor sl c d a b => some (vs sl, 0x15, encV c 0 + encD d + encA a + encB b)
  | .vshl sl c d a b => some (vs sl, 0x16, encV c 0 + encD d + encA a + encB b)
  | .vshr sl c d a b => some (vs sl, 0x17, encV c 0 + encD d + encA a + encB b)
  | .vsra sl c d a b => some (vs sl, 0x18, encV c 0 + encD d + encA a + encB b)
  | .vcmp sl c k d a b => some (vs sl, 0x20, encV c k.code + d.toNat * 2 ^ 41 + encA a + encB b)
  | .vicmp sl c k d a b => some (vs sl, 0x21, encV c k.code + d.toNat * 2 ^ 41 + encA a + encB b)
  | .vsel sl c d a b => some (vs sl, 0x22, encV c 0 + encD d + encA a + encB b)
  | .vplen sl c d n => some (vs sl, 0x23, encV c 0 + d.toNat * 2 ^ 41 + n.toNat * 2 ^ 18)
  | .vplog sl c o d a b =>
    some (vs sl, 0x24, encV c o.code + d.toNat * 2 ^ 41 + a.toNat * 2 ^ 30 + b.toNat * 2 ^ 19)
  | .vmov sl c d a => some (vs sl, 0x30, encV c 0 + encD d + encA a)
  | .vbc sl c d n => some (vs sl, 0x31, encV c 0 + encD d + n.toNat * 2 ^ 18)
  | .vred sl c o d a => some (vs sl, 0x32, encV c o.code + encD d + encA a)
  | .vperm sl c d a b => some (vs sl, 0x33, encV c 0 + encD d + encA a + encB b)
  | .vrot sl c d a n => some (vs sl, 0x34, encV c 0 + encD d + encA a + n.toNat * 2 ^ 18)
  | .vcvt sl c d a s p => some (vs sl, 0x40, encV c p.toNat + encD d + encA a + s.toNat * 2 ^ 19)
  | .vqnt sl c k d a s => some (vs sl, 0x41, encV c k.toNat + encD d + encA a + s.toNat * 2 ^ 19)
  | .vdq sl c d a s => some (vs sl, 0x42, encV c 0 + encD d + encA a + s.toNat * 2 ^ 19)
  | .vamax sl c d a => some (vs sl, 0x43, encV c 0 + encD d + encA a)
  | .vsplit sl c d a b => some (vs sl, 0x44, encV c 0 + encD d + encA a + encB b)
  | .vsnap sl c d a n => some (vs sl, 0x45, encV c 0 + encD d + encA a + n.toNat * 2 ^ 18)
  | .vld f r => some (.v0, 0x60, encVM f 0 r.toNat)
  | .vst f => some (.v0, 0x61, encVM f 0 0)
  | .vlds f ty r => some (.v0, 0x62, encVM f ty.toNat r.toNat)
  | .mcfg a => some (.m, 0x01, a.toNat * 2 ^ 45)
  | .mstep v c a b => some (.m, 0x02, c.toNat * 2 ^ 46 + a.toNat * 2 ^ 41 + b.toNat * 2 ^ 36 + v.code * 2 ^ 32)
  | .mzero c => some (.m, 0x03, c.toNat * 2 ^ 46)
  | .mfin f d c => some (.m, 0x04, c.toNat * 2 ^ 46 + d.toNat * 2 ^ 41 + f.toNat * 2 ^ 37)
  | .mtrn d a => some (.m, 0x05, d.toNat * 2 ^ 46 + a.toNat * 2 ^ 41)
  | .mdup h => some (.m, 0x06, h.toNat * 2 ^ 46)
  | .cpy sl hd hs e st => some (cs sl, 0x01, encCS hd hs e st 0 0)
  | .cpyq sl k hd hs e st => some (cs sl, 0x02, encCS hd hs e st k.toNat 0)
  | .cpyd sl hd hs e st => some (cs sl, 0x03, encCS hd hs e st 0 0)
  | .cpyr sl o hd hs e st => some (cs sl, 0x04, encCS hd hs e st o.code 0)
  | .cfill sl hd e k d => some (cs sl, 0x05, encC hd.toNat 0 e k.toNat d.toNat 0 1 0)
  | .cgat sl hd hs hx e st => some (cs sl, 0x06, encCS hd hs e st 0 hx.toNat)
  | .csct sl hd hs hx e st => some (cs sl, 0x07, encCS hd hs e st 0 hx.toNat)
  | .wopen sl hw hv e => some (cs sl, 0x08, encC hw.toNat hv.toNat e 0 0 0 0 0)
  | .wadv sl hw k e => some (cs sl, 0x09, encC hw.toNat 0 e k.toNat 0 0 0 0)
  | .wclose sl hw n => some (cs sl, 0x0A, encC hw.toNat 0 ⟨0, n⟩ 0 0 0 0 0)
  | .cpref sl hs n k d => some (cs sl, 0x0B, encC 0 hs.toNat ⟨0, n⟩ k.toNat d.toNat 0 0 0)
  | .cflush sl hs n k d => some (cs sl, 0x0C, encC 0 hs.toNat ⟨0, n⟩ k.toNat d.toNat 0 0 0)
  | .fpush sl t r n b c => some (cs sl, 0x0D, encF t.toNat r.toNat n.toNat b.toNat c.toNat)
  | .fpop sl t r n b c => some (cs sl, 0x0E, encF t.toNat r.toNat n.toNat b.toNat c.toNat)
  | .cbank sl b m => some (cs sl, 0x0F, b.toNat * 2 ^ 47 + m.code * 2 ^ 45)
  | .omode a r => some (.o, 0x01, a.code * 2 ^ 49 + r.code * 2 ^ 47)
  | .omask h e => some (.o, 0x02, h.toNat * 2 ^ 46 + e.cnt.toNat * 2 ^ 40 + e.prm.toNat * 2 ^ 34)
  | .oft hd hs x e n => some (.o, 0x03, encO hd.toNat hs.toNat x.toNat e n.toNat)
  | .oift hd hs x e n => some (.o, 0x04, encO hd.toNat hs.toNat x.toNat e n.toNat)
  | .oconv hd hs x e n => some (.o, 0x05, encO hd.toNat hs.toNat x.toNat e n.toNat)
  | .ocal e => some (.o, 0x06, e.cnt.toNat * 2 ^ 45 + e.prm.toNat * 2 ^ 39)
  | .ostat d r => some (.o, 0x07, d.toNat * 2 ^ 45 + r.code * 2 ^ 41)
  | .lsend p h e => some (.l, 0x01, p.toNat * 2 ^ 46 + h.toNat * 2 ^ 41 + e.cnt.toNat * 2 ^ 35 + e.prm.toNat * 2 ^ 29)
  | .lrecv p h e => some (.l, 0x02, p.toNat * 2 ^ 46 + h.toNat * 2 ^ 41 + e.cnt.toNat * 2 ^ 35 + e.prm.toNat * 2 ^ 29)
  | .lradd i p a l e => some (.l, 0x03, encLA p.toNat a.toNat l.toNat e (if i then 7 else 1))
  | .lqadd p a l e => some (.l, 0x04, encLA p.toNat a.toNat l.toNat e 0)
  | .ltmo p t => some (.l, 0x05, p.toNat * 2 ^ 46 + t.toNat * 2 ^ 40)
  | .lring a => some (.l, 0x06, a.toNat * 2 ^ 45)
  | .lstat d p => some (.l, 0x07, d.toNat * 2 ^ 45 + p.toNat * 2 ^ 40)
  | .lcadd d c v => some (.l, 0x08, d.toNat * 2 ^ 45 + c.toNat * 2 ^ 39 + v.toNat * 2 ^ 33)
  | .spawn o e c => some (.k, 0x01, o.toNat * 2 ^ 48 + e.toNat * 2 ^ 42 + c.toNat * 2 ^ 36)
  | .yield => some (.k, 0x02, 0)
  | .endTask => some (.k, 0x03, 0)
  | .barg sc => some (.k, 0x04, sc.code * 2 ^ 49)
  | .sleept t => some (.k, 0x05, t.toNat * 2 ^ 45)
  | .waito l s c t => some (.k, 0x06, l.toNat * 2 ^ 43 + s.toNat * 2 ^ 35 + c.toNat * 2 ^ 25 + t.toNat * 2 ^ 19)
  | .cadd c v r sc k =>
    some (.k, 0x10, c.toNat * 2 ^ 45 + v.toNat * 2 ^ 39 + r.toNat * 2 ^ 38 + sc.code * 2 ^ 35 + k.toNat * 2 ^ 30)
  | .cwait c t a sc => some (.k, 0x11, c.toNat * 2 ^ 45 + t.toNat * 2 ^ 39 + a.toNat * 2 ^ 38 + sc.code * 2 ^ 35)
  | .cread d c => some (.k, 0x12, d.toNat * 2 ^ 45 + c.toNat * 2 ^ 39)
  | .waita a v sc => some (.k, 0x13, a.toNat * 2 ^ 45 + v.toNat * 2 ^ 39 + sc.code * 2 ^ 35)
  | .drain sc k => some (.k, 0x14, sc.code * 2 ^ 48 + k.toNat * 2 ^ 43)
  | .lnch d c => some (.k, 0x20, d.toNat * 2 ^ 45 + c.toNat * 2 ^ 39)
  | .rlnch w c => some (.k, 0x21, w.toNat * 2 ^ 47 + c.toNat * 2 ^ 41)
  | .trarm w l => some (.k, 0x22, w.toNat * 2 ^ 47 + l.toNat * 2 ^ 41)
  | .trstat d w => some (.k, 0x23, d.toNat * 2 ^ 45 + w.toNat * 2 ^ 41)
  | .chk (.s a b) => some (.k, 0x30, a.toNat * 2 ^ 44 + b.toNat * 2 ^ 38)
  | .chk (.v a b) =>
    some (.k, 0x30, 2 ^ 50 + a.t.toNat * 2 ^ 45 + a.r.toNat * 2 ^ 39 + b.t.toNat * 2 ^ 34 + b.r.toNat * 2 ^ 28)
  | .digr l d => some (.k, 0x31, d.toNat * 2 ^ 45 + l.toNat * 2 ^ 43)
  | .digx l a => some (.k, 0x32, a.toNat * 2 ^ 45 + l.toNat * 2 ^ 43)
  | .kalu d a (.reg o b) => some (.k, 0x33, d.toNat * 2 ^ 45 + a.toNat * 2 ^ 39 + o.code * 2 ^ 33 + b.toNat * 2 ^ 27)
  | .kalu d a (.imm o i) => some (.k, 0x33, d.toNat * 2 ^ 45 + a.toNat * 2 ^ 39 + o.code * 2 ^ 33 + i.toNat)
  | .kalu d a (.shift o n) => some (.k, 0x33, d.toNat * 2 ^ 45 + a.toNat * 2 ^ 39 + o.code * 2 ^ 33 + n.toNat)
  | .ctxs a => some (.k, 0x38, a.toNat * 2 ^ 45)
  | .ctxl a => some (.k, 0x39, a.toNat * 2 ^ 45)
  | _ => none
where
  /-- A vector slot as a slot. -/
  vs : VSlot → Slot
    | .v0 => .v0
    | .v1 => .v1
  /-- A copy slot as a slot. -/
  cs : CSlot → Slot
    | .c0 => .c0
    | .c1 => .c1

/-- The syllable of a slot operation under a guard. -/
def encodeSyl (g : Guard) (i : Instr) : Option (Slot × Nat) :=
  match i with
  | .nop sl => some (sl, nopWord)
  | _ => (encodeOp i).map fun (sl, op, body) => (sl, encHead g op + body)

/-- The header of a bundle that presents one slot and nothing else. -/
def oneSlot (sl : Slot) : Header := ⟨BitVec.ofNat 9 (2 ^ sl.ix), 0, 0, false, false, 0⟩

/-- The words of a well-formed instruction: a bundle of one slot for a slot operation; none for events and packets. -/
def encode (i : Instr) : List Word :=
  match i with
  | .bundleIssue h syls => BitVec.ofNat 64 (encodeHeader h) :: syls
  | _ =>
    match encodeSyl ⟨false, 0⟩ i with
    | some (sl, w) => [BitVec.ofNat 64 (encodeHeader (oneSlot sl)), BitVec.ofNat 64 w]
    | none => []

/-! ## Words numbered as the opcode table numbers them -/

/-- `n` 64-bit words of `w`, the lowest first. -/
def wordsOf (w : Nat) : Nat → List Word
  | 0 => []
  | n + 1 => BitVec.ofNat 64 w :: wordsOf (w / 2 ^ 64) n

/-- The instruction the decoder reads from the bytes whose bits are `w`: a header word first, then its syllables. An
instruction has ten words at most; the bits above `nbits` are zero. -/
def decodeTableWord (nbits w : Nat) : Option Instr :=
  match decodeBundle (wordsOf (w % 2 ^ nbits) 10) with
  | .ok _ i => some i
  | .bad _ _ => none

end Sys2Proof
end

