-- ==== Sys2Proof/Machine/Operands.lean ====
section
/-! DEFINITION. Operand forms: the registers each operation names, reads and writes, the checks made on them whatever
the guard (R16, R27, R84), and the steps of a re-issue (R30). -/

namespace Sys2Proof

/-- The number of a row operand (R96). -/
def RowRef.ix (r : RowRef) : Nat := 64 * r.t.toNat + r.r.toNat

/-- A row operand stepped by the signed row step, modulo 64 (R30). -/
def RowRef.step (r : RowRef) (st : BitVec 6) : RowRef := { r with r := r.r + st }

/-- The V memory form stepped: its row; the address is carried in the private copy (R30, R127). -/
def VMemF.stepped (f : VMemF) : VMemF := { f with d := f.d.step f.step }

end Sys2Proof

namespace Sys2Proof.Machine

/-- The registers of an operation: scalars, handles and rows read and written, and tiles named. `cap` lists the
scalars that a sticky operation reads at its first issue only (R127, R150), `im` those it reads and does not name. -/
structure Uses where
  sr : List Nat
  sw : List Nat
  hr : List Nat
  hw : List Nat
  rr : List Nat
  rw : List Nat
  tl : List Nat
  cap : List Nat
  im : List Nat
  deriving DecidableEq, Repr

/-- No register. -/
def Uses.none : Uses := ⟨[], [], [], [], [], [], [], [], []⟩

/-- Scalars read and written. -/
def Uses.s (sw sr : List Nat) : Uses := { Uses.none with sr := sr, sw := sw }

/-- Rows written and read by a vector operation. -/
def Uses.v (rw rr : List RowRef) : Uses :=
  { Uses.none with rr := rr.map RowRef.ix, rw := rw.map RowRef.ix, tl := (rw ++ rr).map fun r => r.t.toNat }

/-- The promise and counter fields: a field of 0 names no register (R42, R214). -/
def Uses.pc (e : PrmCnt) (hr : List Nat) : Uses :=
  { Uses.none with
    hr := hr
    sw := if e.prm = 0 then [] else [e.prm.toNat]
    cap := if e.cnt = 0 then [] else [e.cnt.toNat] }

/-- A counter field alone. -/
def Uses.ct (c : SReg) (hr : List Nat) : Uses := Uses.pc ⟨0, c⟩ hr

/-- An engine operation that is not sticky reads its scalars at issue. -/
def Uses.pcO (e : PrmCnt) (hr sr : List Nat) : Uses :=
  { Uses.pc e hr with sr := sr ++ (if e.cnt = 0 then [] else [e.cnt.toNat]), cap := [] }

/-- The rows r to r + n − 1 of a tile, modulo 64. -/
def rowRun (t r n : Nat) : List Nat := tabulate (fun k => rowIx t k) r n

/-- The registers of an operation, as its syllable names them. -/
def uses : Instr → Uses
  | .add d a b | .sub d a b | .and d a b | .or d a b | .xor d a b | .shl d a b | .shr d a b | .sra d a b | .mul d a b
  | .bext d a b => Uses.s [d.toNat] [a.toNat, b.toNat]
  | .mulh _ d a b | .div _ d a b | .rem _ d a b | .min _ d a b | .max _ d a b => Uses.s [d.toNat] [a.toNat, b.toNat]
  | .clz d a | .popc d a => Uses.s [d.toNat] [a.toNat]
  | .bins d a b => Uses.s [d.toNat] [a.toNat, b.toNat, d.toNat]
  | .ldih d _ => Uses.s [d.toNat] [d.toNat]
  | .addi d a _ | .andi d a _ | .ori d a _ | .xori d a _ => Uses.s [d.toNat] [a.toNat]
  | .shli d a _ | .shri d a _ | .srai d a _ => Uses.s [d.toNat] [a.toNat]
  | .ldi d _ => Uses.s [d.toNat] []
  | .cmp _ _ a b => Uses.s [] [a.toNat, b.toNat]
  | .cmpi _ _ a _ => Uses.s [] [a.toNat]
  | .sel d a b _ _ => Uses.s [d.toNat] [a.toNat, b.toNat]
  | .ld _ d a _ _ | .ldc _ d a _ => Uses.s [d.toNat] [a.toNat]
  | .st _ d a _ => Uses.s [] [a.toNat, d.toNat]
  | .ldp d a _ _ => Uses.s [d.toNat, d.toNat + 1] [a.toNat]
  | .stp d a _ => Uses.s [] [a.toNat, d.toNat, d.toNat + 1]
  | .bri a => Uses.s [] [a.toNat]
  | .call _ => Uses.s [31] []
  | .calli a => Uses.s [31] [a.toNat]
  | .ret => Uses.s [] [31]
  | .loop _ _ c => Uses.s [] [c.toNat]
  | .movx d _ => Uses.s [d.toNat] []
  | .movxw _ a => Uses.s [] [a.toNat]
  | .hmov h h2 => { Uses.none with hr := [h2.toNat], hw := [h.toNat] }
  | .hget d h _ => { Uses.none with hr := [h.toNat], sw := [d.toNat] }
  | .hset h _ a | .hadv h _ a => { Uses.none with hr := [h.toNat], hw := [h.toNat], sr := [a.toNat] }
  | .tshape t _ _ _ => { Uses.none with tl := [t.toNat] }
  | .tidw h a => { Uses.none with hr := [h.toNat, h.toNat + 1, h.toNat + 2], sr := [a.toNat] }
  | .tidr h a => { Uses.none with hw := [h.toNat, h.toNat + 1, h.toNat + 2], sr := [a.toNat] }
  | .tidi a => Uses.s [] [a.toNat]
  | .amo _ d a b => Uses.s [d.toNat] [a.toNat, b.toNat]
  | .cas d a b => Uses.s [d.toNat] [a.toNat, b.toNat, d.toNat]
  | .cas2 d a b =>
    Uses.s [d.toNat, d.toNat + 1] [a.toNat, b.toNat, b.toNat + 1, d.toNat, d.toNat + 1]
  | .tlbi f a => Uses.s [] (if f = .all then [] else [a.toNat])
  | .vadd _ _ d a b | .vsub _ _ d a b | .vmul _ _ d a b | .vmin _ _ d a b | .vmax _ _ d a b | .vcmul _ _ d a b
  | .viadd _ _ d a b | .visub _ _ d a b | .vimul _ _ d a b | .vand _ _ d a b | .vor _ _ d a b | .vxor _ _ d a b
  | .vshl _ _ d a b | .vshr _ _ d a b | .vsra _ _ d a b | .vsel _ _ d a b | .vperm _ _ d a b => Uses.v [d] [a, b]
  | .vfma _ _ d a b | .vfms _ _ d a b => Uses.v [d] [a, b, d]
  | .vabs _ _ d a | .vneg _ _ d a | .vmov _ _ d a => Uses.v [d] [a]
  | .vrcp _ d a | .vrsq _ d a | .vexp2 _ d a | .vlog2 _ d a => Uses.v [d] [a]
  | .vcmp _ _ _ _ a b => Uses.v [] [a, b]
  | .vicmp _ _ _ _ a b => Uses.v [] [a, b]
  | .vplen _ _ _ n => { Uses.none with cap := [n.toNat] }
  | .vplog _ _ _ _ _ _ => Uses.none
  | .vbc _ _ d n => { Uses.v [d] [] with cap := [n.toNat] }
  | .vred _ _ _ d a => Uses.v [d] [a]
  | .vrot _ _ d a n | .vsnap _ _ d a n => { Uses.v [d] [a] with cap := [n.toNat] }
  | .vcvt _ _ d a _ _ | .vdq _ _ d a _ => Uses.v [d] [a]
  | .vqnt _ _ k d a _ => Uses.v [d] (if k then [a, d] else [a])
  | .vamax _ _ d a => Uses.v [d] [a, d]
  | .vsplit _ _ d a b => Uses.v [d, b] [a]
  | .vld f _ | .vlds f _ _ => { Uses.v [f.d] [] with cap := [f.base.toNat] }
  | .vst f => { Uses.v [] [f.d] with cap := [f.base.toNat] }
  | .mcfg a => { Uses.none with cap := [a.toNat] }
  | .mstep _ _ _ _ => Uses.none
  | .mzero c => { Uses.none with tl := [c.toNat], rw := rowRun c.toNat 0 64 }
  | .mfin _ d c => { Uses.none with tl := [d.toNat, c.toNat] }
  | .mtrn d a => { Uses.none with tl := [d.toNat, a.toNat], rr := rowRun a.toNat 0 64, rw := rowRun d.toNat 0 64 }
  | .mdup h => { Uses.none with hr := [h.toNat] }
  | .cpy _ hd hs e _ | .cpyq _ _ hd hs e _ | .cpyd _ hd hs e _ | .cpyr _ _ hd hs e _ => Uses.pc e [hd.toNat, hs.toNat]
  | .cfill _ hd e _ _ => Uses.pc e [hd.toNat]
  | .cgat _ hd hs hx e _ | .csct _ hd hs hx e _ => Uses.pc e [hd.toNat, hs.toNat, hx.toNat]
  | .wopen _ hw hv e => { Uses.pc e [hw.toNat, hv.toNat] with hw := [hw.toNat] }
  | .wadv _ hw _ e => { Uses.pc e [hw.toNat] with hw := [hw.toNat] }
  | .wclose _ hw c => Uses.ct c [hw.toNat]
  | .cpref _ hs c _ _ | .cflush _ hs c _ _ => Uses.ct c [hs.toNat]
  | .fpush _ t r n _ c =>
    { Uses.ct c [] with tl := [t.toNat], rr := rowRun t.toNat r.toNat (n.toNat + 1) }
  | .fpop _ t r n _ c =>
    { Uses.ct c [] with tl := [t.toNat], rw := rowRun t.toNat r.toNat (n.toNat + 1) }
  | .omask h e => Uses.pcO e [h.toNat] []
  | .oft hd hs x e _ | .oift hd hs x e _ | .oconv hd hs x e _ => Uses.pcO e [hd.toNat, hs.toNat] [x.toNat]
  | .ocal e => Uses.pcO e [] []
  | .ostat d _ => Uses.s [d.toNat] []
  | .lsend _ h e | .lrecv _ h e => Uses.pcO e [h.toNat] []
  | .lradd _ _ a l e => Uses.pcO e [] [a.toNat, l.toNat]
  | .lqadd _ a l e => Uses.pcO e [] [a.toNat, l.toNat]
  | .ltmo _ t => Uses.s [] [t.toNat]
  | .lring a => Uses.s [] [a.toNat]
  | .lstat d _ => Uses.s [d.toNat] []
  | .lcadd d c v => Uses.s [] [d.toNat, c.toNat, v.toNat]
  | .spawn _ e c => { Uses.s [] (e.toNat :: (if c = 0 then [] else [c.toNat])) with im := tabulate id 1 8 }
  | .sleept t => Uses.s [] [t.toNat]
  | .cadd c v _ _ _ => Uses.s [] [c.toNat, v.toNat]
  | .cwait c t _ _ => Uses.s [] [c.toNat, t.toNat]
  | .cread d c => Uses.s [d.toNat] [c.toNat]
  | .waita a v _ => Uses.s [] [a.toNat, v.toNat]
  | .lnch d c => Uses.s [] (d.toNat :: (if c = 0 then [] else [c.toNat]))
  | .rlnch _ c => Uses.s [] (if c = 0 then [] else [c.toNat])
  | .trarm _ l => Uses.s [] [l.toNat]
  | .trstat d _ => Uses.s [d.toNat] []
  | .chk (.s a b) => Uses.s [] [a.toNat, b.toNat]
  | .chk (.v a b) => Uses.v [] [a, b]
  | .kalu d a (.reg _ b) => Uses.s [d.toNat] [a.toNat, b.toNat]
  | .kalu d a (.imm _ _) => Uses.s [d.toNat] [a.toNat]
  | .kalu d a (.shift _ _) => Uses.s [d.toNat] [a.toNat]
  | .digr _ d => Uses.s [d.toNat] []
  | .digx _ a => Uses.s [] [a.toNat]
  | .ctxs a | .ctxl a => Uses.s [] [a.toNat]
  | _ => Uses.none

/-! ## Checks on the registers a syllable names, whatever the guard (R16) -/

/-- Whether a pair, triple or predicate pair of the syllable starts at the wrong alignment (R8, R9, R27, R66, R100,
R228). -/
def misaligned : Instr → Bool
  | .ldp d _ _ _ => d.toNat % 2 != 0
  | .stp d _ _ => d.toNat % 2 != 0
  | .cas2 d _ b => d.toNat % 2 != 0 || b.toNat % 2 != 0
  | .cmp _ d _ _ => d.toNat % 2 != 0
  | .cmpi _ d _ _ => d.toNat % 2 != 0
  | .plog _ d _ _ => d.toNat % 2 != 0
  | .vcmp _ _ _ d _ _ => d.toNat % 2 != 0
  | .vicmp _ _ _ d _ _ => d.toNat % 2 != 0
  | .vplen _ _ d _ => d.toNat % 2 != 0
  | .vplog _ _ _ d _ _ => d.toNat % 2 != 0
  | .tidw h _ => h.toNat % 4 != 0
  | .tidr h _ => h.toNat % 4 != 0
  | _ => false

/-- Whether every register the syllable names lies within the task's budget (R84). -/
def inBudget (b : Budget) (u : Uses) : Bool :=
  (u.sr ++ u.sw ++ u.cap).all (fun n => decide (n < b.s)) && (u.hr ++ u.hw).all (fun n => decide (n < b.h)) &&
    u.tl.all fun n => decide (n < b.t)

/-- A KALU in a task whose budget does not reach to the shadow range (R84, R348). -/
def shadowShort (b : Budget) : Instr → Bool
  | .kalu _ _ _ => decide (b.s < 64)
  | _ => false

/-- Access classes of the special registers (R10). -/
inductive XClass where
  | ro
  | rw
  | ur
  | sv
  deriving DecidableEq, Repr

/-- The class of a special-register number; `none` where the table of R10 lacks it. -/
def xclass (x : Nat) : Option XClass :=
  if x ≤ 7 then some .ro
  else if 0x10 ≤ x ∧ x ≤ 0x15 then some .rw
  else if 0x18 ≤ x ∧ x ≤ 0x1B then some .rw
  else if x = 0x20 ∨ x = 0x21 then some .rw
  else if x = 0x22 then some .ro
  else if x = 0x23 then some .ur
  else if 0x100 ≤ x ∧ x ≤ 0x104 then some .sv
  else if x = 0x108 ∨ x = 0x109 then some .sv
  else none

/-- A special-register number that is absent, or read-only and written (R11). -/
def badSpecial : Instr → Bool
  | .movx _ x => (xclass x.toNat).isNone
  | .movxw x _ => match xclass x.toNat with
    | none => true
    | some .ro => true
    | some _ => false
  | _ => false

/-- The X.EINFO of the ILL_OPERAND trap that a syllable's registers raise (sub-codes 1, 2 and 3 of R319), if any.
Where several of its checks fail the lowest sub-code is the one reported (DESIGN CHOICE, log 61). -/
def staticCheck (b : Budget) (i : Instr) : Option Word :=
  if misaligned i then some (illInfo 1)
  else if !inBudget b (uses i) || shadowShort b i then some (illInfo 2)
  else if badSpecial i then some (illInfo 3)
  else none

/-! ## Sticky operations (R29, R30) -/

/-- The rows of an operation stepped once (R30): V operations by their row step, FPUSH and FPOP by their row count. -/
def stepRows : Instr → Instr
  | .vadd sl c d a b => .vadd sl c (d.step c.step) (a.step c.step) (b.step c.step)
  | .vsub sl c d a b => .vsub sl c (d.step c.step) (a.step c.step) (b.step c.step)
  | .vmul sl c d a b => .vmul sl c (d.step c.step) (a.step c.step) (b.step c.step)
  | .vfma sl c d a b => .vfma sl c (d.step c.step) (a.step c.step) (b.step c.step)
  | .vfms sl c d a b => .vfms sl c (d.step c.step) (a.step c.step) (b.step c.step)
  | .vmin sl c d a b => .vmin sl c (d.step c.step) (a.step c.step) (b.step c.step)
  | .vmax sl c d a b => .vmax sl c (d.step c.step) (a.step c.step) (b.step c.step)
  | .vcmul sl c d a b => .vcmul sl c (d.step c.step) (a.step c.step) (b.step c.step)
  | .viadd sl c d a b => .viadd sl c (d.step c.step) (a.step c.step) (b.step c.step)
  | .visub sl c d a b => .visub sl c (d.step c.step) (a.step c.step) (b.step c.step)
  | .vimul sl c d a b => .vimul sl c (d.step c.step) (a.step c.step) (b.step c.step)
  | .vand sl c d a b => .vand sl c (d.step c.step) (a.step c.step) (b.step c.step)
  | .vor sl c d a b => .vor sl c (d.step c.step) (a.step c.step) (b.step c.step)
  | .vxor sl c d a b => .vxor sl c (d.step c.step) (a.step c.step) (b.step c.step)
  | .vshl sl c d a b => .vshl sl c (d.step c.step) (a.step c.step) (b.step c.step)
  | .vshr sl c d a b => .vshr sl c (d.step c.step) (a.step c.step) (b.step c.step)
  | .vsra sl c d a b => .vsra sl c (d.step c.step) (a.step c.step) (b.step c.step)
  | .vsel sl c d a b => .vsel sl c (d.step c.step) (a.step c.step) (b.step c.step)
  | .vperm sl c d a b => .vperm sl c (d.step c.step) (a.step c.step) (b.step c.step)
  | .vsplit sl c d a b => .vsplit sl c (d.step c.step) (a.step c.step) (b.step c.step)
  | .vabs sl c d a => .vabs sl c (d.step c.step) (a.step c.step)
  | .vneg sl c d a => .vneg sl c (d.step c.step) (a.step c.step)
  | .vrcp c d a => .vrcp c (d.step c.step) (a.step c.step)
  | .vrsq c d a => .vrsq c (d.step c.step) (a.step c.step)
  | .vexp2 c d a => .vexp2 c (d.step c.step) (a.step c.step)
  | .vlog2 c d a => .vlog2 c (d.step c.step) (a.step c.step)
  | .vmov sl c d a => .vmov sl c (d.step c.step) (a.step c.step)
  | .vamax sl c d a => .vamax sl c (d.step c.step) (a.step c.step)
  | .vcmp sl c k d a b => .vcmp sl c k d (a.step c.step) (b.step c.step)
  | .vicmp sl c k d a b => .vicmp sl c k d (a.step c.step) (b.step c.step)
  | .vbc sl c d n => .vbc sl c (d.step c.step) n
  | .vred sl c o d a => .vred sl c o (d.step c.step) (a.step c.step)
  | .vrot sl c d a n => .vrot sl c (d.step c.step) (a.step c.step) n
  | .vsnap sl c d a n => .vsnap sl c (d.step c.step) (a.step c.step) n
  | .vcvt sl c d a s p => .vcvt sl c (d.step c.step) (a.step c.step) s p
  | .vqnt sl c k d a s => .vqnt sl c k (d.step c.step) (a.step c.step) s
  | .vdq sl c d a s => .vdq sl c (d.step c.step) (a.step c.step) s
  | .vld f r => .vld f.stepped r
  | .vst f => .vst f.stepped
  | .vlds f t r => .vlds f.stepped t r
  | .fpush sl t r n b c => .fpush sl t (r + n + 1) n b c
  | .fpop sl t r n b c => .fpop sl t (r + n + 1) n b c
  | i => i

/-- An origin of a handle (R194). -/
def orgOf (h : Handle) (d : Nat) : Nat := field h.toNat (24 + 24 * d) 24

/-- A handle with the field of `n` bits at `lo` replaced. -/
def setField (h : Handle) (lo n v : Nat) : Handle :=
  BitVec.ofNat 256 (h.toNat - field h.toNat lo n * 2 ^ lo + v % 2 ^ n * 2 ^ lo)

/-- A handle with origin `d` moved by `k`, modulo 2^24 (R30, R78). -/
def advOrg (h : Handle) (d : Nat) (k : Int) : Handle := setField h (24 + 24 * d) 24 (wrap 24 ((orgOf h d : Int) + k))

/-- The operand copy stepped for a copy operation: the handle selected by TGT, in dimension SDIM (R30). -/
def Cap.stepC (c : Cap) (st : StepF) : Cap :=
  let k := signed 16 st.step.toNat
  if st.tgt then { c with h0 := advOrg c.h0 st.sdim.toNat k } else { c with h1 := advOrg c.h1 st.sdim.toNat k }

/-- The private operand copy stepped once (R30). `w0` is a vector access's address or another scalar operand, `h0` the
destination handle, `h1` the source handle. -/
def stepCap : Instr → Cap → Cap
  | .vld f _, c | .vst f, c | .vlds f _ _, c => { c with w0 := c.w0 + BitVec.ofInt 64 (signed 6 f.step.toNat * 256) }
  | .cpy _ _ _ _ st, c | .cpyd _ _ _ _ st, c => c.stepC st
  | .cpyq _ _ _ _ _ st, c | .cpyr _ _ _ _ _ st, c => c.stepC st
  | .cgat _ _ _ _ _ st, c | .csct _ _ _ _ _ st, c => c.stepC st
  | .cfill _ _ _ st d, c => c.stepC ⟨st, d, true⟩
  | .cpref _ _ _ st d, c | .cflush _ _ _ st d, c => c.stepC ⟨st, d, false⟩
  | _, c => c

/-- The private operand copy that the issue of a sticky syllable captures (R16, R127, R150, R241). -/
def capture0 (r : Regs) : Instr → Cap
  | .vplen _ _ _ n | .vbc _ _ _ n => { Cap.zero with w0 := r.sreg n.toNat }
  | .vrot _ _ _ _ n | .vsnap _ _ _ _ n => { Cap.zero with w0 := r.sreg n.toNat }
  | .vld f _ | .vst f | .vlds f _ _ =>
    { Cap.zero with w0 := r.sreg f.base.toNat + BitVec.ofInt 64 (signed 16 f.off.toNat * 64) }
  | .mcfg a => { Cap.zero with w0 := r.sreg a.toNat }
  | .cpy _ hd hs e _ | .cpyq _ _ hd hs e _ | .cpyd _ hd hs e _ | .cpyr _ _ hd hs e _ =>
    ⟨0, r.sreg e.cnt.toNat, r.hreg hd.toNat, r.hreg hs.toNat, 0⟩
  | .cfill _ hd e _ _ => ⟨0, r.sreg e.cnt.toNat, r.hreg hd.toNat, 0, 0⟩
  | .cgat _ hd hs hx e _ | .csct _ hd hs hx e _ =>
    ⟨0, r.sreg e.cnt.toNat, r.hreg hd.toNat, r.hreg hs.toNat, r.hreg hx.toNat⟩
  | .wopen _ hw hv e => ⟨0, r.sreg e.cnt.toNat, r.hreg hw.toNat, r.hreg hv.toNat, 0⟩
  | .wadv _ hw _ e => ⟨0, r.sreg e.cnt.toNat, r.hreg hw.toNat, 0, 0⟩
  | .wclose _ hw n => ⟨0, r.sreg n.toNat, r.hreg hw.toNat, 0, 0⟩
  | .cpref _ hs n _ _ | .cflush _ hs n _ _ => ⟨0, r.sreg n.toNat, 0, r.hreg hs.toNat, 0⟩
  | .fpush _ _ _ _ _ c | .fpop _ _ _ _ _ c => { Cap.zero with w1 := r.sreg c.toNat }
  | _ => Cap.zero

/-- A previous operation stepped for a re-issue (R30). -/
def Sticky.stepped (p : Sticky) : Sticky := ⟨p.g, stepRows p.op, stepCap p.op p.cap⟩

end Sys2Proof.Machine
end

