-- ==== Sys2Proof/Machine/Access.lean ====
section
/-! DEFINITION. Checking and performing the core's own accesses to memory (R67 to R70, R169 to R171, R179, R231). -/

namespace Sys2Proof.Machine

/-- What an operation sees when its bundle would issue (R16, R30): the machine with every result readable in this cycle
landed, the header address and length of the bundle, whether the syllable is presented, and its operand copy. -/
structure Ctx where
  m     : Mach
  hdr   : Nat
  len   : Nat
  fresh : Bool
  cap   : Cap

/-- A scalar operand read at issue. -/
def Ctx.s (x : Ctx) (r : SReg) : Word := x.m.t.regs.sreg r.toNat
/-- A handle operand read at issue. -/
def Ctx.h (x : Ctx) (r : HReg) : Handle := x.m.t.regs.hreg r.toNat
/-- A row operand read at issue. -/
def Ctx.row (x : Ctx) (r : RowRef) : RowCell := x.m.t.regs.row r.ix

/-- The outcome of checking an access: it stops the operation, or it reaches a physical address. -/
inductive Acc where
  | stop (r : OpRes)
  | go (pa : Nat) (na : Bool)

/-- Whether a chiplet runs 64 walks (R173). -/
def State.walksFull (s : State) (chiplet : Nat) : Bool :=
  decide (64 ≤ s.cores.countP fun (k, c) => chipletOf k == chiplet && c.walk.isSome)

/-- The mark of a stall on a translation miss: the address to walk, for a free number of cycles, once the chiplet has a walk
to spare (R67, R173, log 10). -/
def waitWalk (va : Nat) : OpRes := .hold fun m =>
  if m.s.walksFull (chipletOf m.s.cur) then m else
  let (k, m) := m.fresh
  m.onC fun c => { c with walk := some va, ready := m.s.cyc + 1 + Config.extraLatency k }

/-- Which accesses counter and MMIO space accept (R169, R170). -/
structure Special where
  ctr  : Bool
  mmio : Bool
  deriving DecidableEq, Repr

/-- Whether an address in counter or MMIO space refuses the access. -/
def Special.refuses (k : Special) (a : Nat) : Bool :=
  match regionOf a with
  | .counter => !k.ctr
  | .mmio => !k.mmio
  | _ => false

/-- The checks that follow translation: a refused physical space, a bank in another mode, a peer out of reach (R169,
R170, R179, R360, R363). -/
def physCheck (m : Mach) (k : Special) (ea pa : Nat) (na : Bool) : Acc :=
  if k.refuses pa || !m.s.bankOk m.s.cur pa || m.s.hostOff pa then .stop (.trap Cause.prot (natW ea))
  else if regionOf pa = .peer ∧ peerPort m.s pa = none then .stop (.trap Cause.linkDown (natW (peerPort0 pa)))
  else .go pa na

/-- An address of the core translated and checked (R67 checks 5 and 6). -/
def xlatCheck (m : Mach) (k : Special) (ea : Nat) (rd wr : Bool) : Acc :=
  match m.xlat ea rd wr with
  | .miss => .stop (waitWalk ea)
  | .absent => .stop (.trap Cause.pageFault (natW ea))
  | .denied => .stop (.trap Cause.prot (natW ea))
  | .ok pa na => physCheck m k ea pa na

/-- A scalar access checked in the order of R67 and R231: `al` is the alignment. An aligned access of at most 16 bytes
never crosses a space boundary, so check 3 never fails after check 2. -/
def scalarCheck (m : Mach) (k : Special) (ea al : Nat) (rd wr : Bool) : Acc :=
  if ea / 2 ^ 57 ≠ 0 then .stop (.trap Cause.pageFault (natW ea))
  else if ea % al ≠ 0 then .stop (.trap Cause.memAlign (natW ea))
  else if k.refuses ea then .stop (.trap Cause.prot (natW ea))
  else xlatCheck m k ea rd wr

/-! ## Accesses in several parts (R147) -/

/-- A part of an access: its virtual address and its length. -/
abbrev Part := Nat × Nat

/-- What translating the parts of an access, the lowest first, answers: a stop, or the physical address of each. A part
without a translation stops before any that is forbidden (R147 checks 5 and 6). -/
inductive Parts where
  | stop (r : OpRes)
  | denied (va : Nat)
  | go (ps : List (Nat × Bool))

/-- The parts translated. -/
def xlatParts (m : Mach) (rd wr : Bool) : List Part → Parts
  | [] => .go []
  | (va, _) :: ps =>
    match m.xlat va rd wr with
    | .miss => .stop (waitWalk va)
    | .absent => .stop (.trap Cause.pageFault (natW va))
    | .denied => match xlatParts m rd wr ps with
      | .stop r => .stop r
      | _ => .denied va
    | .ok pa na => match xlatParts m rd wr ps with
      | .go qs => .go ((pa, na) :: qs)
      | r => r

/-- The first part whose physical address refuses the access (R169, R179, R360). -/
def physParts (m : Mach) (ea : Nat) : List (Nat × Bool) → Option OpRes
  | [] => none
  | (pa, na) :: ps =>
    match physCheck m ⟨false, false⟩ ea pa na with
    | .stop r => some r
    | .go _ _ => physParts m ea ps

/-- One address for each page that addresses touch: the first of them in it. -/
def pageFirsts (as : List Nat) : List Nat :=
  as.foldl (fun acc a => if acc.any fun b => b / 65536 == a / 65536 then acc else acc ++ [a]) []

/-- The stop of a table that the matrix array reads at the virtual addresses given, checked as a read of the core is, page by
page (R157, R172, R174, R179; the address in X.EINFO is DEDUCED, log 29). -/
def tableStop (m : Mach) (as : List Nat) : Option OpRes :=
  let ps := pageFirsts as
  match xlatParts m true false (ps.map fun a => (a, 1)) with
  | .stop r => some r
  | .denied va => some (.trap Cause.prot (natW va))
  | .go qs => (ps.zip qs).findSome? fun (a, pa, na) => match physCheck m ⟨false, false⟩ a pa na with
    | .stop r => some r
    | .go _ _ => none

/-- The physical address of a table's byte, once `tableStop` has found no stop. -/
def Mach.tablePa (m : Mach) (a : Nat) : Nat :=
  match m.xlat a true false with
  | .ok pa _ => pa
  | _ => a

/-- The bytes of a table recorded as read (R303). -/
def Mach.tableRead (as : List Nat) (n : Nat) (m : Mach) : Mach :=
  if m.t.traced then as.foldl (fun m a => m.record false (m.tablePa a) n) m else m

/-- Bytes of a size code (R68). -/
def MSize.bytes : MSize → Nat
  | .b => 1 | .bu => 1 | .h => 2 | .hu => 2 | .w => 4 | .wu => 4 | .d => 8

/-- A loaded value extended to 64 bits (R68). -/
def MSize.extend (z : MSize) (v : Nat) : Word :=
  match z with
  | .b => BitVec.ofInt 64 (signed 8 v)
  | .h => BitVec.ofInt 64 (signed 16 v)
  | .w => BitVec.ofInt 64 (signed 32 v)
  | _ => BitVec.ofNat 64 v

/-- The value an aligned scalar load reads: a counter, an MMIO register, or memory as the core sees it. -/
def Mach.readScalar (m : Mach) (pa n : Nat) : Nat :=
  match regionOf pa with
  | .counter => m.s.ctr ((pa - 0x7D0000000000) / 8)
  | .mmio => mmioRead m.s pa n
  | _ => (m.early pa n).loadNat pa n

/-- Whether an uncorrectable error lies in `n` bytes of a line as a load of this core reads them below the L1: in the line of
the cluster's cache, or else at their home, with the core's own stores performed (R340). -/
def Mach.badBelow (m : Mach) (pa n line : Nat) : Bool :=
  match ccFind (m.s.cc (clusterOf m.s.cur)) line with
  | some x => x.err.any fun w => decide (w < pa + n) && decide (pa < w + 8)
  | none => !(m.s.err.isEmpty && m.s.hbm.errs.isEmpty && m.s.hbm.lost.isEmpty) && m.settled.badRange pa n

/-- Whether an uncorrectable error lies in `n` bytes that a load of this core reads: in the line of the L1, or else below
(R340). -/
def Mach.badAt (m : Mach) (pa n : Nat) : Bool :=
  (linesIn pa n).any fun line =>
    let a := Nat.max pa (64 * line)
    match l1Find m.c.l1 line with
    | some x => x.err.any fun w => decide (w < pa + n) && decide (pa < w + 8)
    | none => m.badBelow a (Nat.min (pa + n) (64 * line + 64) - a) line

/-- The address by which a load's data is poisoned, if an uncorrectable error lies in it (R70, R340). -/
def Mach.poisonOf (m : Mach) (ea pa n : Nat) : Option Nat := if (m.early pa n).badAt pa n then some ea else none

/-- The loads, other than FPOP, of a task that have not landed (R164, R242). -/
def Task.loadCount (t : Task) : Nat := t.pend.countP fun p => p.fpop.isNone
/-- The stores of a core not performed (R164, R242). -/
def Core.storeCount (c : Core) : Nat := c.stores.countP fun st => !st.more

/-- The limit of loads and other pending-marked results (R242). -/
def Mach.loadsFull (m : Mach) : Bool := decide (128 ≤ m.t.loadCount)
/-- The limit of stores not performed (R242). -/
def Mach.storesFull (m : Mach) : Bool := decide (128 ≤ m.c.storeCount)

/-- A store put in the core's buffer (R18, R200), its lines in the L1 (R175), its bytes in the digest and the trace. -/
def Mach.store (m : Mach) (va pa : Nat) (bs : List (Option Byte)) (taint : Option Bool) (more : Bool := false) : Mach :=
  let m := m.early pa bs.length
  let m := if cacheable pa then m.touchAll pa bs.length 0 else m
  let m := m.onC fun c =>
    { c with stores := c.stores ++ [⟨pa, bs, taint, m.s.cyc, more⟩]
             l1 := if cacheable pa then l1Store c.l1 pa bs else c.l1 }
  (m.record true pa bs.length).fold (digestOf va bs)

end Sys2Proof.Machine
end

