-- ==== Sys2Proof/Machine/Atomics.lean ====
section
/-! DEFINITION. AMO, CAS and CAS2 (R208, R231 to R233). -/

namespace Sys2Proof.Machine

/-- An atomic issued: the core's own stores reach memory first (R18), its caches give up the line (R208), and the
registers are pending until the home replies, a free number of cycles later (log 10). -/
def atomicAct (op : Option AmoOp) (ea pa n arg expect : Nat) (dests : List Nat) : Act := fun m =>
  let m := (m.early pa n).flush.toHome pa n
  let (k, m) := m.fresh
  let res : List Result := dests.map fun d => ⟨.s d, 0, BitVec.allOnes 256, false, none, 0, 0⟩
  ((m.record false pa n).record true pa n).onT fun t => t.pendOn
      ⟨.atomic op ea pa n arg expect, res, m.s.cyc, m.s.cyc + 1 + Config.extraLatency k, none, none, 0⟩

/-- The checks of R231, then the issue. -/
def atomicOp (x : Ctx) (op : Option AmoOp) (ea n arg expect : Nat) (dests : List Nat) : OpRes :=
  match scalarCheck x.m ⟨false, false⟩ ea n true true with
  | .stop r => r
  | .go pa _ => if x.m.loadsFull then stall else .ok (atomicAct op ea pa n arg expect dests)

/-- AMO (R232). -/
def semAmo (x : Ctx) (o : AmoOp) (d a b : SReg) : OpRes :=
  atomicOp x (some o) (x.s a).toNat 8 (x.s b).toNat 0 [d.toNat]

/-- CAS (R233). -/
def semCas (x : Ctx) (d a b : SReg) : OpRes :=
  atomicOp x none (x.s a).toNat 8 (x.s b).toNat (x.s d).toNat [d.toNat]

/-- The pair that starts at scalar `r` (R8). -/
def Ctx.pair (x : Ctx) (r : SReg) : Nat := (x.s r).toNat + (x.m.t.regs.sreg (r.toNat + 1)).toNat * 2 ^ 64

/-- CAS2 (R233). -/
def semCas2 (x : Ctx) (d a b : SReg) : OpRes :=
  atomicOp x none (x.s a).toNat 16 (x.pair b) (x.pair d) [d.toNat, d.toNat + 1]

end Sys2Proof.Machine
end

