-- ==== Sys2Proof/Machine/Formats.lean ====
section
/-! DEFINITION. Number formats (R108 to R116): exact values, decoding, the one rounding of R115 into every
floating-point format, saturation, conversion, scales, and packing in a row. -/

namespace Sys2Proof.Machine

/-- An exact value: a NaN, an infinity, or (−1)^s × m × 2^e. A zero keeps its sign. -/
inductive FVal where
  | nan
  | inf (s : Bool)
  | fin (s : Bool) (m : Nat) (e : Int)
  deriving DecidableEq, Repr

/-- +0. -/
def FVal.zero : FVal := .fin false 0 0

/-- Exponent bits, mantissa bits, bias, largest finite pattern and canonical NaN of a floating-point format, and
whether it has infinities (R109, R110). -/
structure FSpec where
  e    : Nat
  m    : Nat
  bias : Nat
  maxf : Nat
  nan  : Nat
  inf  : Bool
  deriving DecidableEq, Repr

/-- The table of R109 and the canonical NaNs of R110. E2M1 has no NaN: R116 gives +0 there. -/
def fspec (f : Fmt) : FSpec :=
  match f.toNat with
  | 1 => ⟨8, 23, 127, 0x7F7FFFFF, 0x7FC00000, true⟩
  | 2 => ⟨8, 7, 127, 0x7F7F, 0x7FC0, true⟩
  | 3 => ⟨5, 10, 15, 0x7BFF, 0x7E00, true⟩
  | 4 => ⟨4, 3, 7, 0x7E, 0x7F, false⟩
  | 5 => ⟨5, 2, 15, 0x7B, 0x7E, true⟩
  | _ => ⟨2, 1, 1, 0x7, 0, false⟩

/-- Whether a format is floating point (R108). -/
def Fmt.isFloat (f : Fmt) : Bool := decide (1 ≤ f.toNat) && decide (f.toNat ≤ 6)

/-- The value of a floating-point element (R109). -/
def decodeF (f : Fmt) (raw : Nat) : FVal :=
  let k := fspec f
  let s := bitAt raw (k.e + k.m)
  let ex := field raw k.m k.e
  let mt := field raw 0 k.m
  if ex + 1 = 2 ^ k.e ∧ k.inf then (if mt = 0 then .inf s else .nan)
  else if f = 4 ∧ ex = 15 ∧ mt = 7 then .nan
  else if ex = 0 then .fin s mt (if mt = 0 then 0 else 1 - k.bias - k.m)
  else .fin s (mt + 2 ^ k.m) (ex - k.bias - k.m)

/-- m × 2^sh rounded to an integer, to nearest, ties to even (R115). -/
def rne (m : Nat) (sh : Int) : Nat :=
  if 0 ≤ sh then m * 2 ^ sh.toNat
  else
    let d := 2 ^ (-sh).toNat
    let q := m / d
    let r := m % d
    if d < 2 * r ∨ (2 * r = d ∧ q % 2 = 1) then q + 1 else q

/-- floor (log2 (m × 2^e)) of a non-zero value. -/
def floorLog2 (m : Nat) (e : Int) : Int := (Nat.log2 m : Int) + e

/-- The sign bit of a pattern. -/
def signBit (k : FSpec) (s : Bool) : Nat := if s then 2 ^ (k.e + k.m) else 0

/-- An infinite or overflowing magnitude: ±infinity, or the largest finite value where the format has none (R116). -/
def overflow (k : FSpec) (s : Bool) : Nat := signBit k s + (if k.inf then (2 ^ k.e - 1) * 2 ^ k.m else k.maxf)

/-- One rounding of an exact value to a floating-point format (R110, R115, R116). -/
def roundF (f : Fmt) (v : FVal) : Nat :=
  let k := fspec f
  match v with
  | .nan => k.nan
  | .inf s => overflow k s
  | .fin s m e =>
    if m = 0 then signBit k s
    else
      let q := (if floorLog2 m e < 1 - k.bias then 1 - (k.bias : Int) else floorLog2 m e) - k.m
      let n := rne m (e - q)
      let (n, q) := if 2 ^ (k.m + 1) ≤ n then (n / 2, q + 1) else (n, q)
      if n < 2 ^ k.m then signBit k s + n
      else
        let raw := (q + k.m + k.bias).toNat * 2 ^ k.m + (n - 2 ^ k.m)
        if k.maxf < raw then overflow k s else signBit k s + raw

/-- The increments of X.QTROUB that a conversion to `f` makes: a NaN to E2M1 or to an integer (R116). -/
def convTrouble (f : Fmt) (v : FVal) : Nat :=
  match v with
  | .nan => if f = 6 ∨ !Fmt.isFloat f then 1 else 0
  | _ => 0

/-! ## Integers and TERN (R111, R112) -/

/-- The value of a TERN code (R112). -/
def decodeTern (raw : Nat) : Int := if raw % 4 = 1 then 1 else if raw % 4 = 3 then -1 else 0

/-- The count of a code 10 (R112). -/
def ternTrouble (raw : Nat) : Nat := if raw % 4 = 2 then 1 else 0

/-- The value of an integer element (R111, R112). -/
def decodeI (f : Fmt) (raw : Nat) : Int :=
  if f = 11 then decodeTern raw else if f = 12 then ((raw % 256 : Nat) : Int) else signed f.bits raw

/-- The least and the greatest value of an integer format (R111). -/
def intRange (f : Fmt) : Int × Int :=
  if f = 11 then (-1, 1) else if f = 12 then (0, 255)
  else (-((2 ^ (f.bits - 1) : Nat) : Int), ((2 ^ (f.bits - 1) - 1 : Nat) : Int))

/-- An integer saturated to a format (R116). -/
def saturate (f : Fmt) (v : Int) : Nat :=
  let (lo, hi) := intRange f
  wrap f.bits (if v < lo then lo else if hi < v then hi else v)

/-- A value rounded to an integer and saturated (R116). -/
def roundI (f : Fmt) (v : FVal) : Nat :=
  match v with
  | .nan => 0
  | .inf s => wrap f.bits (if s then (intRange f).1 else (intRange f).2)
  | .fin s m e => saturate f (if s then -(rne m e : Int) else rne m e)

/-- An integer as an exact value. -/
def intVal (v : Int) : FVal := .fin (decide (v < 0)) v.natAbs 0

/-- The value of an element of a format that is not complex. -/
def decodeE (f : Fmt) (raw : Nat) : FVal := if Fmt.isFloat f then decodeF f raw else intVal (decodeI f raw)

/-- An exact value encoded in a format that is not complex (R116, R119). -/
def encodeE (f : Fmt) (v : FVal) : Nat := if Fmt.isFloat f then roundF f v else roundI f v

/-! ## Conversion (R116, R140) -/

/-- One element converted between formats that are not complex: its pattern and its trouble count. Between INT8 and UINT8, of
equal width, a value out of range saturates (DESIGN CHOICE, log 74). -/
def convert1 (dst src : Fmt) (raw : Nat) : Nat × Nat :=
  let v := decodeE src raw
  (encodeE dst v, convTrouble dst v)

/-- The format of each part of a complex format (R108). -/
def partFmt (f : Fmt) : Fmt := if f = 13 then 1 else 2

/-- One element converted; each complex part converts on its own (R140). -/
def convert (dst src : Fmt) (raw : Nat) : Nat × Nat :=
  if Fmt.inC dst then
    let p := partFmt dst
    let q := partFmt src
    let (a, s) := convert1 p q (field raw 0 q.bits)
    let (b, t) := convert1 p q (field raw q.bits q.bits)
    (a + b * 2 ^ p.bits, s + t)
  else convert1 dst src raw

/-! ## Scales (R113, R114) -/

/-- The value of a scale byte: UE8M0 (0x10) or unsigned E4M3 (0x11). -/
def decodeScale (f b : Nat) : FVal :=
  if f = 0x11 then (if 128 ≤ b then .nan else decodeF 4 b)
  else if b = 255 then .nan else .fin false 1 (b - 127)

/-! ## Packing (R96, R111) -/

/-- Elements of a format in a row. -/
def perRow (f : Fmt) : Nat := 2048 / f.bits

/-- The elements of a row. -/
def unpackRow (f : Fmt) (r : Row) : List Nat := chunks f.bits r.toNat (perRow f)

/-- The row that holds elements. -/
def packRow (f : Fmt) (xs : List Nat) : Row := BitVec.ofNat 2048 (unchunks f.bits xs)

end Sys2Proof.Machine
end

