-- ==== Sys2Proof/Machine/Float.lean ====
section
/-! DEFINITION. Exact arithmetic on values, the correctly rounded functions of R130, and the sums of R124 and R138. -/

namespace Sys2Proof.Machine

/-! ## Exact arithmetic -/

/-- The exact signed integer m × 2^(e − g), for g at most e. -/
def scaledInt (g : Int) : FVal → Int
  | .fin s m e => let v : Int := (m * 2 ^ (e - g).toNat : Nat); if s then -v else v
  | _ => 0

/-- The least exponent of the finite non-zero values, at most `g`. -/
def leastExp (g : Int) : List FVal → Int
  | [] => g
  | .fin _ m e :: vs => leastExp (if m ≠ 0 ∧ e < g then e else g) vs
  | _ :: vs => leastExp g vs

/-- The exact sum of finite values as a signed integer times 2^g. -/
def exactSum (vs : List FVal) : Int × Int :=
  let g := leastExp 1000 vs
  (vs.foldl (fun acc v => match v with
    | .fin _ 0 _ => acc
    | _ => acc + scaledInt g v) 0, g)

/-- Whether a value is a NaN. -/
def FVal.isNan : FVal → Bool
  | .nan => true
  | _ => false

/-- Whether a value is the infinity of sign `s`. -/
def FVal.isInf (s : Bool) : FVal → Bool
  | .inf t => s == t
  | _ => false

/-- Whether a value is −0. -/
def FVal.isNegZero : FVal → Bool
  | .fin true 0 _ => true
  | _ => false

/-- Whether a value is a zero. -/
def FVal.isZero : FVal → Bool
  | .fin _ 0 _ => true
  | _ => false

/-- The exact sum of values: NaNs and opposed infinities give NaN, an exact zero is +0 unless every addend is −0
(R124, R138). -/
def sumF (vs : List FVal) : FVal :=
  if vs.any FVal.isNan || (vs.any (FVal.isInf true) && vs.any (FVal.isInf false)) then .nan
  else if vs.any (FVal.isInf true) then .inf true
  else if vs.any (FVal.isInf false) then .inf false
  else
    let (n, g) := exactSum vs
    if n = 0 then .fin (!vs.isEmpty && vs.all FVal.isNegZero) 0 0
    else .fin (decide (n < 0)) n.natAbs g

/-- a + b (R130). An exact zero is +0 unless both are −0 (DESIGN CHOICE, log 75). -/
def addF (a b : FVal) : FVal := sumF [a, b]

/-- −a; a NaN stays one. -/
def negF : FVal → FVal
  | .nan => .nan
  | .inf s => .inf (!s)
  | .fin s m e => .fin (!s) m e

/-- |a|. -/
def absF : FVal → FVal
  | .nan => .nan
  | .inf _ => .inf false
  | .fin _ m e => .fin false m e

/-- a × b (R130): infinity × 0 is NaN. -/
def mulF : FVal → FVal → FVal
  | .nan, _ => .nan
  | _, .nan => .nan
  | .inf s, .inf t => .inf (s != t)
  | .inf s, .fin t m _ => if m = 0 then .nan else .inf (s != t)
  | .fin s m _, .inf t => if m = 0 then .nan else .inf (s != t)
  | .fin s m e, .fin t n f => .fin (s != t) (m * n) (if m * n = 0 then 0 else e + f)

/-- The order of two values, −0 equal to +0; `none` when either is NaN. -/
def cmpF (a b : FVal) : Option Ordering :=
  match a, b with
  | .nan, _ => none
  | _, .nan => none
  | .inf s, .inf t => some (if s = t then .eq else if s then .lt else .gt)
  | .inf s, .fin _ _ _ => some (if s then .lt else .gt)
  | .fin _ _ _, .inf t => some (if t then .gt else .lt)
  | .fin s m e, .fin t n f =>
    let x := (exactSum [.fin s m e, .fin (!t) n f]).1
    some (if x < 0 then .lt else if x = 0 then .eq else .gt)

/-- Whether a ≤ b with −0 below +0, for values that are not NaN (R130). -/
def leF (a b : FVal) : Bool :=
  match cmpF a b with
  | some .lt => true
  | some .eq => !(b.isNegZero && !a.isNegZero && a.isZero)
  | _ => false

/-! ## Correctly rounded functions (R130) -/

/-- The integer square root of `x`, built up from `r` by bits `n - 1` down to 0. -/
def isqrtFrom (x r : Nat) : Nat → Nat
  | 0 => r
  | n + 1 => isqrtFrom x (if (r + 2 ^ n) * (r + 2 ^ n) ≤ x then r + 2 ^ n else r) n

/-- floor (√x). -/
def isqrt (x : Nat) : Nat := isqrtFrom x 0 (Nat.log2 x / 2 + 1)

/-- A truncated positive quantity n × 2^e with a sticky bit below it: rounding it once rounds the exact quantity. -/
def sticky (s : Bool) (n : Nat) (inexact : Bool) (e : Int) : FVal := .fin s (2 * n + inexact.toNat) (e - 1)

/-- 1 / a (R130). -/
def rcpF : FVal → FVal
  | .nan => .nan
  | .inf s => .fin s 0 0
  | .fin s m e =>
    if m = 0 then .inf s
    else
      let k := Nat.log2 m + 65
      sticky s (2 ^ k / m) (2 ^ k % m != 0) (-e - k)

/-- 1 / √a (R130). -/
def rsqF : FVal → FVal
  | .nan => .nan
  | .inf s => if s then .nan else .fin false 0 0
  | .fin s m e =>
    if m = 0 then .inf s
    else if s then .nan
    else
      let (m, e) := if e % 2 = 0 then (m, e) else (2 * m, e - 1)
      let k := Nat.log2 m + 65
      let q := 2 ^ (2 * k) / m
      let r := isqrt q
      sticky false r (r * r != q || 2 ^ (2 * k) % m != 0) (-(k : Int) - e / 2)

/-- Fraction bits of the fixed-point numbers in which 2^f is summed. -/
def expBits : Nat := 256

/-- floor (ln 2 × 2^256). -/
def ln2Fixed : Nat := 0xB17217F7D1CF79ABC9E3B39803F2F6AF40F343267298B62D8A0D175B8BAAFA2B

/-- The sum of the terms t × x / i × x / (i + 1) …, `n` of them, in 256-bit fixed point: the series of e^x. -/
def expSeries (x : Nat) : Nat → Nat → Nat → Nat
  | _, _, 0 => 0
  | t, i, n + 1 => t + expSeries x (t * x / 2 ^ expBits / i) (i + 1) n

/-- 2^(num / 2^k) for num below 2^k, in 256-bit fixed point; 64 terms leave an error below 2^-240. -/
def exp2Fixed (num k : Nat) : Nat := expSeries (num * ln2Fixed / 2 ^ k) (2 ^ expBits) 1 64

/-- 2^a (R130). 2^f with 0 < f < 1 is irrational, so a sticky bit stands below the digits kept. -/
def exp2F : FVal → FVal
  | .nan => .nan
  | .inf s => if s then .zero else .inf false
  | .fin s m e =>
    if m = 0 then .fin false 1 0
    else
      let big : Bool := decide (10 ≤ floorLog2 m e)
      if big then .fin false 1 (if s then -2000 else 2000)
      else if 0 ≤ e then
        let n : Int := (m * 2 ^ e.toNat : Nat)
        .fin false 1 (if s then -n else n)
      else
        let k := (-e).toNat
        let num : Int := if s then -(m : Int) else m
        let n := num / (2 ^ k : Nat)
        let f := (num % (2 ^ k : Nat)).toNat
        if f = 0 then .fin false 1 n else sticky false (exp2Fixed f k) true (n - expBits)

/-- Fraction bits of log2 x, `n` of them, for x in [1, 2) in 512-bit fixed point: each squaring gives one bit. -/
def logDigits : Nat → Nat → Nat → Nat
  | _, acc, 0 => acc
  | y, acc, n + 1 =>
    let y := y * y / 2 ^ 512
    if 2 ^ 513 ≤ y then logDigits (y / 2) (2 * acc + 1) n else logDigits y (2 * acc) n

/-- Fraction bits that VLOG2 computes before its one rounding. -/
def logBits : Nat := 160

/-- log2 a (R130): exact at powers of two, irrational elsewhere. -/
def log2F : FVal → FVal
  | .nan => .nan
  | .inf s => if s then .nan else .inf false
  | .fin s m e =>
    if m = 0 then .inf true
    else if s then .nan
    else
      let n := floorLog2 m e
      if m = 2 ^ Nat.log2 m then intVal n
      else
        let x := m * 2 ^ 512 / 2 ^ Nat.log2 m
        let t : Int := n * (2 ^ logBits : Nat) + logDigits x 0 logBits
        let v := 2 * t + 1
        .fin (decide (v < 0)) v.natAbs (-(logBits : Int) - 1)

/-! ## Summation in the matrix array (R124) -/

/-- The greatest floor (log2 |p|) of the non-zero products. -/
def maxLog : List FVal → Option Int
  | [] => none
  | .fin _ m e :: vs =>
    match maxLog vs with
    | some g => some (if m ≠ 0 ∧ g < floorLog2 m e then floorLog2 m e else g)
    | none => if m ≠ 0 then some (floorLog2 m e) else none
  | _ :: vs => maxLog vs

/-- A product truncated toward zero to a multiple of 2^g. -/
def truncTo (g : Int) : FVal → FVal
  | .fin s m e => if e < g then .fin s (m / 2 ^ (g - e).toNat) g else .fin s m e
  | v => v

/-- The new FP32 value of a C position (R124): the products, each truncated to a multiple of 2^(emax − 40), and the old
value, summed exactly. An exact zero is −0 only when the old value and every product are −0. -/
def matSum (ps : List FVal) (old : FVal) : FVal :=
  match maxLog ps with
  | none => sumF (old :: ps)
  | some g =>
    match sumF (old :: ps.map (truncTo (g - 40))) with
    | .fin s 0 e => .fin (s && ps.all FVal.isNegZero) 0 e
    | v => v

end Sys2Proof.Machine
end

