-- ==== Sys2Proof/Machine/Bursts.lean ====
section
/-! DEFINITION. Packed scaled bursts: layout, quantising with dynamic and static scales, decoding (R117 to R120). A burst
is the number its 64 bytes hold. -/

namespace Sys2Proof.Machine

/-- Elements of a block (R117). -/
def perBlock (f : Fmt) : Nat := 64 / f.bits
/-- Elements of a burst (R117). -/
def perBurst (f : Fmt) : Nat := 7 * perBlock f

/-- fmax of R119. -/
def fmax (f : Fmt) : Nat :=
  match f.toNat with
  | 4 => 448 | 5 => 57344 | 6 => 6 | 9 => 127 | 10 => 7 | _ => 1

/-- Whether m × 2^e ≤ k. -/
def leNatScaled (m : Nat) (e : Int) (k : Nat) : Bool :=
  if 0 ≤ e then decide (m * 2 ^ e.toNat ≤ k) else decide (m ≤ k * 2 ^ (-e).toNat)

/-- ceil (log2 (|v| / fmax)) of a non-zero value (R119). -/
def scaleLog (f : Fmt) (m : Nat) (e : Int) : Int :=
  let k := floorLog2 m e - Nat.log2 (fmax f)
  if leNatScaled m (e - k) (fmax f) then k else k + 1

/-- The greatest of the scale exponents that the elements of a block ask for. -/
def blockLog (f : Fmt) : List FVal → Option Int
  | [] => none
  | .fin _ m e :: vs =>
    if m = 0 then blockLog f vs
    else match blockLog f vs with
      | some k => some (if k < scaleLog f m e then scaleLog f m e else k)
      | none => some (scaleLog f m e)
  | _ :: vs => blockLog f vs

/-- A quantised block: its scale byte, its elements, whether TRB is set, its trouble count. -/
structure QBlock where
  scale : Nat
  elems : List Nat
  trb   : Bool
  count : Nat
  deriving DecidableEq, Repr

/-- One element under scale byte `sb`: its pattern and whether it was in trouble (R119, R120). -/
def quantElem (f : Fmt) (sb : Nat) (v : FVal) : Nat × Bool :=
  match v with
  | .nan => (0, true)
  | .inf s => (encodeE f (.fin s (fmax f) 0), true)
  | .fin s m e =>
    if leNatScaled m (e - (sb - 127)) (fmax f) then (encodeE f (.fin s m (if m = 0 then 0 else e - (sb - 127))), false)
    else (encodeE f (.fin s (fmax f) 0), true)

/-- A block under a given scale byte. -/
def quantScaled (f : Fmt) (sb : Nat) (vs : List FVal) : QBlock :=
  let es := vs.map (quantElem f sb)
  ⟨sb, es.map Prod.fst, es.any Prod.snd, es.countP Prod.snd⟩

/-- A block whose scale is NaN: elements 0, TRB, one count (R119, R141). -/
def quantNan (vs : List FVal) : QBlock := ⟨255, vs.map fun _ => 0, true, 1⟩

/-- One block quantised; `stat` is its static scale byte, and an empty position is `none` (R119, R120, R141, R220). A static
NaN scale sets TRB and counts 1 for a block without a source element too (log 53). -/
def quantBlock (f : Fmt) (stat : Option Nat) (xs : List (Option FVal)) : QBlock :=
  let vs := xs.map fun x => x.getD .zero
  if stat = some 255 then quantNan vs
  else if xs.all Option.isNone then ⟨stat.getD 0, xs.map fun _ => 0, false, 0⟩
  else match stat with
    | some sb => quantScaled f sb vs
    | none =>
      if vs.any FVal.isNan || vs.any (FVal.isInf true) || vs.any (FVal.isInf false) then quantNan vs
      else match blockLog f vs with
        | none => quantScaled f 0 vs
        | some k => quantScaled f (if k + 127 < 0 then 0 else if 254 < k + 127 then 254 else (k + 127).toNat) vs

/-- A list cut into pieces of `k`, `n` of them. -/
def pieces {α : Type} (k : Nat) : Nat → List α → List (List α)
  | 0, _ => []
  | n + 1, xs => xs.take k :: pieces k n (xs.drop k)

/-- A burst made of its seven blocks (R117), with its trouble count. -/
def packBurst (f : Fmt) (bs : List QBlock) : Nat × Nat :=
  let h := f.toNat + (if bs.any QBlock.trb then 16 else 0)
  (h + 2 ^ 8 * unchunks 8 (bs.map QBlock.scale) + 2 ^ 64 * unchunks 64 (bs.map fun b => unchunks f.bits b.elems),
   bs.foldl (fun n b => n + b.count) 0)

/-- A burst of `perBurst f` positions; `stat` is the burst whose scale bytes are the static ones. -/
def quantBurst (f : Fmt) (stat : Option Nat) (xs : List (Option FVal)) : Nat × Nat :=
  let scales : List (Option Nat) := match stat with
    | some b => (chunks 8 (b / 2 ^ 8) 7).map some
    | none => List.replicate 7 none
  packBurst f ((scales.zip (pieces (perBlock f) 7 xs)).map fun (s, p) => quantBlock f s p)

/-- Whether a burst does not decode as format `f` (R118). -/
def badBurst (f : Fmt) (b : Nat) : Bool := b % 16 != f.toNat || b / 32 % 8 != 0

/-- The pattern of element `k` of a burst (R117). -/
def burstRaw (f : Fmt) (b k : Nat) : Nat := field b (64 + f.bits * k) f.bits

/-- The exact value of element `k` of a good burst (R114, R117), and its count of code 10 (R112). -/
def burstElem (f : Fmt) (b k : Nat) : FVal × Nat :=
  let raw := burstRaw f b k
  (mulF (decodeE f raw) (decodeScale 0x10 (field b (8 * (1 + k / perBlock f)) 8)), if f = 11 then ternTrouble raw else 0)

/-- `n` elements of a run of bursts decoded from element 0 on, where `act` marks those wanted: values and trouble count.
A bad burst gives zeros and counts once if an element wanted lies in it (R118, R142). -/
def dequant (f : Fmt) (bursts : List Nat) (act : List Bool) : List FVal × Nat :=
  let per := perBurst f
  ((bursts.zip (pieces per bursts.length act)).foldl (fun (acc : List FVal × Nat) (b, a) =>
    if badBurst f b then (acc.1 ++ a.map fun _ => FVal.zero, acc.2 + (a.any id).toNat)
    else
      let es := (tabulate (fun k => (burstElem f b k, a.getD k false)) 0 a.length)
      (acc.1 ++ es.map (fun e => e.1.1), es.foldl (fun n e => if e.2 then n + e.1.2 else n) acc.2)) ([], 0))

end Sys2Proof.Machine
end

