-- ==== Sys2Proof/Machine/Flags.lean ====
section
/-! DEFINITION. The conditions that compares and predicate logic compute (R64, R66, R133, R136), and X.STATUS and X.MSP
as words (R12, R104). -/

namespace Sys2Proof.Machine

/-- A condition on two integers of `n` bits, read as two's complement or unsigned (R64, R133). -/
def Cond.holds (n : Nat) (c : Cond) (a b : Nat) : Bool :=
  match c with
  | .eq => a == b
  | .ne => a != b
  | .lt => decide (signed n a < signed n b)
  | .ltu => decide (a < b)
  | .le => decide (signed n a ≤ signed n b)
  | .leu => decide (a ≤ b)

/-- PLOG on two predicates (R66). -/
def LogOp.bool (o : LogOp) (a b : Bool) : Bool :=
  match o with
  | .and => a && b
  | .or => a || b
  | .xor => a != b
  | .andn => a && !b

/-- VPLOG on two vector predicates (R136). -/
def LogOp.mask (o : LogOp) (a b : VMask) : VMask :=
  match o with
  | .and => a &&& b
  | .or => a ||| b
  | .xor => a ^^^ b
  | .andn => a &&& ~~~b

/-- X.STATUS (R12). -/
def XRegs.status (x : XRegs) : Word :=
  BitVec.ofNat 64 (x.sv.toNat + 2 * x.psv.toNat + 4 * x.dm.toNat + 8 * x.ste.toNat + 16 * x.te.toNat)

/-- X.STATUS written in supervisor mode: SV and DM keep their values (R13). -/
def XRegs.setStatus (x : XRegs) (v : Nat) : XRegs := { x with psv := bitAt v 1, ste := bitAt v 3, te := bitAt v 4 }

/-- FIRST, LAST and LIVE of the matrix loop state, with DONEC as given (R104). -/
def MatLoop.predicates (l : MatLoop) (donec : Bool) : Nat :=
  (if l.ik = 0 then 1 else 0) + (if l.ik + 1 = l.mlk then 2 else 0) +
    (if l.im < l.mlm ∧ l.mlm ≠ 0 ∧ l.mln ≠ 0 ∧ l.mlk ≠ 0 then 4 else 0) + (if donec then 8 else 0)

/-- X.MSP recomputed with DONEC 0, as MCFG and a count write do (R104). -/
def MatLoop.recount (l : MatLoop) : MatLoop := { l with msp := l.predicates false }

end Sys2Proof.Machine
end

