-- ==== Sys2Proof/Machine/Vector.lean ====
section
/-! DEFINITION. The V-slot meanings of chapter 08 (R127 to R149) with lanes and masks (R99, R100). -/

namespace Sys2Proof.Machine

/-! ## Lanes and results (R99, R100, R128, R129) -/

/-- The lane mask of an operation (R99). -/
def Ctx.lanes (x : Ctx) (q : PReg) (qn : Bool) : VMask :=
  let m := x.m.t.regs.qreg q.toNat
  if qn then ~~~m else m

/-- Which elements of a whole-byte format are active: the bit of an element's lowest byte (R99). -/
def activeOf (f : Fmt) (m : VMask) : List Bool := tabulate (fun i => m.getLsbD (i * (f.bits / 8))) 0 (perRow f)

/-- The active elements of an operation in its own type. -/
def Ctx.act (x : Ctx) (c : VCom) (f : Fmt) : List Bool := activeOf f (x.lanes c.q c.qn)

/-- The byte mask that covers the elements marked, of `w` bytes each. -/
def byteMask (w : Nat) (act : List Bool) : VMask :=
  BitVec.ofNat 256 (unchunks w (act.map fun a => if a then 2 ^ w - 1 else 0))

/-- Every byte. -/
def allBytes : VMask := BitVec.allOnes 256

/-- The elements of a source row. -/
def Ctx.el (x : Ctx) (f : Fmt) (r : RowRef) : List Nat := unpackRow f (x.row r).data

/-- The taint that sources and mask give a result (R129). -/
def Ctx.taint (x : Ctx) (q : PReg) (srcs : List RowRef) : Bool :=
  x.m.t.regs.qtaint q.toNat || srcs.any fun r => (x.row r).taint

/-- A row result: its taint adds the row's old one where some element stays, and is 0 without TE (R129). -/
def landV (x : Ctx) (lat : Nat) (d : RowRef) (data : Row) (mask : VMask) (taint : Bool) : Act := fun m =>
  m.flyRow lat d.ix data mask (x.m.t.x.te && (taint || (mask != allBytes && (x.row d).taint)))

/-- A row of elements of format `f` landed under the elements marked. -/
def landE (x : Ctx) (lat : Nat) (d : RowRef) (f : Fmt) (xs : List Nat) (act : List Bool) (taint : Bool) : Act :=
  landV x lat d (packRow f xs) (byteMask (f.bits / 8) act) taint

/-- A predicate result: the condition in active elements, its negation beside it, 0 elsewhere (R100). -/
def landP (x : Ctx) (q : PReg) (cond on : VMask) (taint : Bool) : Act := fun m =>
  m.flyQ 2 q.toNat (cond &&& on) (~~~cond &&& on) (x.m.t.x.te && taint)

/-- An element-wise operation of one source. -/
def elem1 (x : Ctx) (c : VCom) (lat : Nat) (d a : RowRef) (f : Nat → Nat) : OpRes :=
  .ok (landE x lat d c.ty ((x.el c.ty a).map f) (x.act c c.ty) (x.taint c.q [a]))

/-- An element-wise operation of two sources. -/
def elem2 (x : Ctx) (c : VCom) (lat : Nat) (d a b : RowRef) (f : Nat → Nat → Nat) : OpRes :=
  .ok (landE x lat d c.ty (List.zipWith f (x.el c.ty a) (x.el c.ty b)) (x.act c c.ty) (x.taint c.q [a, b]))

/-- An element-wise operation that also reads the destination row; `f` takes it first. -/
def elem3 (x : Ctx) (c : VCom) (lat : Nat) (d a b : RowRef) (f : Nat → Nat → Nat → Nat) : OpRes :=
  .ok (landE x lat d c.ty (List.zipWith (fun g y => g y) (List.zipWith f (x.el c.ty d) (x.el c.ty a)) (x.el c.ty b))
    (x.act c c.ty) (x.taint c.q [a, b, d]))

/-! ## Floating-point arithmetic (R130) -/

/-- An element function of one value. -/
def fun1 (f : Fmt) (g : FVal → FVal) (a : Nat) : Nat := roundF f (g (decodeF f a))
/-- An element function of two values. -/
def fun2 (f : Fmt) (g : FVal → FVal → FVal) (a b : Nat) : Nat := roundF f (g (decodeF f a) (decodeF f b))
/-- d + a × b or d − a × b, one rounding. -/
def fmaE (f : Fmt) (neg : Bool) (d a b : Nat) : Nat :=
  let p := mulF (decodeF f a) (decodeF f b)
  roundF f (addF (decodeF f d) (if neg then negF p else p))

/-- The lesser of two values, −0 below +0; a NaN gives NaN (R130). -/
def minF (a b : FVal) : FVal := if a.isNan || b.isNan then .nan else if leF a b then a else b
/-- The greater of two values. -/
def maxF (a b : FVal) : FVal := if a.isNan || b.isNan then .nan else if leF a b then b else a

/-- VCMUL of one complex element (R130). -/
def cmulE (f : Fmt) (a b : Nat) : Nat :=
  let p := partFmt f
  let v (z i : Nat) : FVal := decodeF p (field z (i * p.bits) p.bits)
  let re := addF (mulF (v a 0) (v b 0)) (negF (mulF (v a 1) (v b 1)))
  let im := addF (mulF (v a 0) (v b 1)) (mulF (v a 1) (v b 0))
  roundF p re + roundF p im * 2 ^ p.bits

def semVadd (x : Ctx) (c : VCom) (d a b : RowRef) : OpRes := elem2 x c 3 d a b (fun2 c.ty addF)
def semVsub (x : Ctx) (c : VCom) (d a b : RowRef) : OpRes := elem2 x c 3 d a b (fun2 c.ty fun u v => addF u (negF v))
def semVmul (x : Ctx) (c : VCom) (d a b : RowRef) : OpRes := elem2 x c 5 d a b (fun2 c.ty mulF)
def semVfma (x : Ctx) (c : VCom) (d a b : RowRef) : OpRes := elem3 x c 5 d a b (fmaE c.ty false)
def semVfms (x : Ctx) (c : VCom) (d a b : RowRef) : OpRes := elem3 x c 5 d a b (fmaE c.ty true)
def semVmin (x : Ctx) (c : VCom) (d a b : RowRef) : OpRes := elem2 x c 3 d a b (fun2 c.ty minF)
def semVmax (x : Ctx) (c : VCom) (d a b : RowRef) : OpRes := elem2 x c 3 d a b (fun2 c.ty maxF)
def semVabs (x : Ctx) (c : VCom) (d a : RowRef) : OpRes := elem1 x c 3 d a (fun1 c.ty absF)
def semVneg (x : Ctx) (c : VCom) (d a : RowRef) : OpRes := elem1 x c 3 d a (fun1 c.ty negF)
def semVrcp (x : Ctx) (c : VCom) (d a : RowRef) : OpRes := elem1 x c 8 d a (fun1 c.ty rcpF)
def semVrsq (x : Ctx) (c : VCom) (d a : RowRef) : OpRes := elem1 x c 8 d a (fun1 c.ty rsqF)
def semVexp2 (x : Ctx) (c : VCom) (d a : RowRef) : OpRes := elem1 x c 8 d a (fun1 c.ty exp2F)
def semVlog2 (x : Ctx) (c : VCom) (d a : RowRef) : OpRes := elem1 x c 8 d a (fun1 c.ty log2F)
def semVcmul (x : Ctx) (c : VCom) (d a b : RowRef) : OpRes := elem2 x c 5 d a b (cmulE c.ty)

/-! ## Integer and logic (R132) -/

/-- VSHL of an element of `w` bits. -/
def shlE (w a b : Nat) : Nat := if b < w then a * 2 ^ b % 2 ^ w else 0
/-- VSHR of an element of `w` bits. -/
def shrE (w a b : Nat) : Nat := if b < w then a / 2 ^ b else 0
/-- VSRA of an element; for UINT8 as VSHR. -/
def sraE (f : Fmt) (a b : Nat) : Nat :=
  if f = 12 then shrE 8 a b else wrap f.bits (signed f.bits a / (2 ^ Nat.min b (f.bits - 1) : Nat))

def semViadd (x : Ctx) (c : VCom) (d a b : RowRef) : OpRes := elem2 x c 3 d a b fun u v => (u + v) % 2 ^ c.ty.bits
def semVisub (x : Ctx) (c : VCom) (d a b : RowRef) : OpRes :=
  elem2 x c 3 d a b fun u v => (u + 2 ^ c.ty.bits - v) % 2 ^ c.ty.bits
def semVimul (x : Ctx) (c : VCom) (d a b : RowRef) : OpRes := elem2 x c 3 d a b fun u v => u * v % 2 ^ c.ty.bits
def semVand (x : Ctx) (c : VCom) (d a b : RowRef) : OpRes := elem2 x c 3 d a b fun u v => u &&& v
def semVor (x : Ctx) (c : VCom) (d a b : RowRef) : OpRes := elem2 x c 3 d a b fun u v => u ||| v
def semVxor (x : Ctx) (c : VCom) (d a b : RowRef) : OpRes := elem2 x c 3 d a b fun u v => u ^^^ v
def semVshl (x : Ctx) (c : VCom) (d a b : RowRef) : OpRes := elem2 x c 3 d a b (shlE c.ty.bits)
def semVshr (x : Ctx) (c : VCom) (d a b : RowRef) : OpRes := elem2 x c 3 d a b (shrE c.ty.bits)
def semVsra (x : Ctx) (c : VCom) (d a b : RowRef) : OpRes := elem2 x c 3 d a b (sraE c.ty)

/-! ## Compares, selects and predicates (R133 to R136) -/

/-- A condition of VCMP (R133). -/
def FCond.holds (k : FCond) (o : Option Ordering) : Bool :=
  match k, o with
  | .ne, none => true
  | .un, none => true
  | _, none => false
  | .eq, some .eq => true
  | .ne, some .lt => true
  | .ne, some .gt => true
  | .lt, some .lt => true
  | .le, some .lt => true
  | .le, some .eq => true
  | .gt, some .gt => true
  | .ge, some .gt => true
  | .ge, some .eq => true
  | _, some _ => false

/-- A condition of VICMP on elements of a format; UINT8 compares as unsigned throughout (R133). -/
def icmpE (f : Fmt) (k : Cond) (a b : Nat) : Bool :=
  Cond.holds (if f = 12 then 9 else f.bits) k a b

/-- A compare: conditions of the elements into Qd and Qd+1. -/
def cmpV (x : Ctx) (c : VCom) (q : PReg) (a b : RowRef) (f : Nat → Nat → Bool) : OpRes :=
  let w := c.ty.bits / 8
  .ok (landP x q (byteMask w (List.zipWith f (x.el c.ty a) (x.el c.ty b))) (byteMask w (x.act c c.ty))
    (x.taint c.q [a, b]))

def semVcmp (x : Ctx) (c : VCom) (k : FCond) (q : PReg) (a b : RowRef) : OpRes :=
  cmpV x c q a b fun u v => FCond.holds k (cmpF (decodeF c.ty u) (decodeF c.ty v))
def semVicmp (x : Ctx) (c : VCom) (k : Cond) (q : PReg) (a b : RowRef) : OpRes := cmpV x c q a b (icmpE c.ty k)

/-- VSEL writes every element (R128, R134). -/
def semVsel (x : Ctx) (c : VCom) (d a b : RowRef) : OpRes :=
  let k := rowMask (byteMask (c.ty.bits / 8) (x.act c c.ty))
  .ok (landV x 3 d (((x.row a).data &&& k) ||| ((x.row b).data &&& ~~~k)) allBytes (x.taint c.q [a, b]))

/-- VPLEN (R135): its length is the copy read at the first issue. -/
def semVplen (x : Ctx) (c : VCom) (q : PReg) : OpRes :=
  let w := c.ty.bits / 8
  .ok (landP x q (byteMask w (tabulate (fun i => decide (i < x.cap.w0.toNat)) 0 (perRow c.ty)))
    (byteMask w (x.act c c.ty)) (x.taint c.q []))

/-- VPLOG: each of the 256 bits is an element (R136). R129 lists no taint of Qa and Qb. -/
def semVplog (x : Ctx) (c : VCom) (o : LogOp) (q a b : PReg) : OpRes :=
  let r := x.m.t.regs
  .ok (landP x q (LogOp.mask o (r.qreg a.toNat) (r.qreg b.toNat)) (x.lanes c.q c.qn) (x.taint c.q []))

/-! ## Moves, broadcasts, reductions, permutes (R137 to R139) -/

def semVmov (x : Ctx) (c : VCom) (d a : RowRef) : OpRes := elem1 x c 3 d a id

/-- VBC of the captured scalar (R137). -/
def semVbc (x : Ctx) (c : VCom) (d : RowRef) : OpRes :=
  .ok (landE x 3 d c.ty (List.replicate (perRow c.ty) (x.cap.w0.toNat % 2 ^ c.ty.bits)) (x.act c c.ty) (x.taint c.q []))

/-- The elements marked. -/
def chosen : List Nat → List Bool → List Nat
  | x :: xs, true :: bs => x :: chosen xs bs
  | _ :: xs, false :: bs => chosen xs bs
  | _, _ => []

/-- The greatest or least of a list of integers; `dflt` for none. -/
def extreme (big : Bool) (dflt : Int) : List Int → Int
  | [] => dflt
  | v :: vs => vs.foldl (fun a b => if big then (if a ≤ b then b else a) else (if a ≤ b then a else b)) v

/-- The reduction of integer elements (R138). -/
def redI (f : Fmt) (o : RedOp) (xs : List Int) : Nat :=
  match o with
  | .sum => wrap f.bits (xs.foldl (fun a b => a + b) 0)
  | .asum => wrap f.bits (xs.foldl (fun a b => a + b.natAbs) 0)
  | .max => wrap f.bits (extreme true (intRange f).1 xs)
  | .min => wrap f.bits (extreme false (intRange f).2 xs)

/-- The reduction of floating-point elements (R138). -/
def redF (f : Fmt) (o : RedOp) (xs : List FVal) : Nat :=
  match o with
  | .sum => roundF f (sumF xs)
  | .asum => roundF f (sumF (xs.map absF))
  | .max => roundF f (xs.foldl maxF (.inf true))
  | .min => roundF f (xs.foldl minF (.inf false))

/-- VRED writes the destination row whole (R128, R138). -/
def semVred (x : Ctx) (c : VCom) (o : RedOp) (d a : RowRef) : OpRes :=
  let xs := chosen (x.el c.ty a) (x.act c c.ty)
  let r := if Fmt.isFloat c.ty then redF c.ty o (xs.map (decodeF c.ty)) else redI c.ty o (xs.map (decodeI c.ty))
  .ok (landV x 6 d (BitVec.ofNat 2048 r) allBytes (x.taint c.q [a]))

/-- VPERM: byte i of row b picks the source element (R139). -/
def semVperm (x : Ctx) (c : VCom) (d a b : RowRef) : OpRes :=
  let n := perRow c.ty
  let src := x.el c.ty a
  let ix := chunks 8 (x.row b).data.toNat n
  .ok (landE x 4 d c.ty (ix.map fun j => src.getD (j % n) 0) (x.act c c.ty) (x.taint c.q [a, b]))

/-- VROT moves elements toward element 0 (R139). -/
def semVrot (x : Ctx) (c : VCom) (d a : RowRef) : OpRes :=
  let n := perRow c.ty
  let k := (x.cap.w0.toInt % (n : Int)).toNat
  let src := x.el c.ty a
  .ok (landE x 4 d c.ty (src.drop k ++ src.take k) (x.act c c.ty) (x.taint c.q [a]))

/-! ## Conversions, quantisation, splitting, snapping (R140 to R145) -/

/-- A row with its trouble count, landed at issue + 4 (R121). -/
def withTrouble (act : Act) (n : Nat) : OpRes := .ok fun m => (act m).flyTrouble 4 n

/-- VCVT (R140): a widening takes part `p` of the source row, a narrowing fills part `p` of the destination row. -/
def semVcvt (x : Ctx) (c : VCom) (d a : RowRef) (src : Fmt) (part : BitVec 3) : OpRes :=
  let nd := perRow c.ty
  let ns := perRow src
  let act := x.act c c.ty
  let es := x.el src a
  let wide := decide (nd ≤ ns)
  let from_ (i : Nat) : Option Nat :=
    if wide then some (part.toNat * nd + i)
    else if part.toNat * ns ≤ i ∧ i < part.toNat * ns + ns then some (i - part.toNat * ns) else none
  let out : List (Option (Nat × Nat)) := tabulate (fun i =>
    if act.getD i false then (from_ i).map fun j => convert c.ty src (es.getD j 0) else none) 0 nd
  withTrouble (landE x 4 d c.ty (out.map fun o => (o.getD (0, 0)).1) (out.map Option.isSome) (x.taint c.q [a]))
    (out.foldl (fun n o => n + (o.getD (0, 0)).2) 0)

/-- The four bursts of a row. -/
def rowBursts (r : Row) : List Nat := chunks 512 r.toNat 4

/-- VQNT writes the destination row whole (R128, R141): inactive sources count as +0. -/
def semVqnt (x : Ctx) (c : VCom) (stat : Bool) (d a : RowRef) (src : Fmt) : OpRes :=
  let vals : List (Option FVal) := List.zipWith (fun e k => some (if k then decodeF src e else .zero)) (x.el src a)
    (x.act c src)
  let vals := vals ++ List.replicate (4 * perBurst c.ty - vals.length) none
  let old := rowBursts (x.row d).data
  let out := (tabulate id 0 4).map fun j =>
    quantBurst c.ty (if stat then some (old.getD j 0) else none) ((vals.drop (j * perBurst c.ty)).take (perBurst c.ty))
  withTrouble (landV x 4 d (BitVec.ofNat 2048 (unchunks 512 (out.map Prod.fst))) allBytes
      (x.taint c.q (if stat then [a, d] else [a])))
    (out.foldl (fun n b => n + b.2) 0)

/-- VDQ decodes only what its active elements draw on (R142). -/
def semVdq (x : Ctx) (c : VCom) (d a : RowRef) (src : Fmt) : OpRes :=
  let act := x.act c c.ty
  let (vs, n) := dequant src (rowBursts (x.row a).data) act
  withTrouble (landE x 4 d c.ty (vs.map (roundF c.ty)) act (x.taint c.q [a])) n

/-- VAMAX (R143). -/
def semVamax (x : Ctx) (c : VCom) (d a : RowRef) : OpRes :=
  elem3 x c 6 d a a fun u v _ => roundF c.ty (maxF (absF (decodeF c.ty u)) (absF (decodeF c.ty v)))

/-- The pairs of group `g`: the k-th active position with the target 64g + 63 − k (R144). -/
def splitPairs (act : List Bool) (g : Nat) : List (Nat × Nat) :=
  let ss := (tabulate id (64 * g) 64).filter fun i => act.getD i false
  ss.zip (tabulate (fun k => 64 * g + 63 - k) 0 ss.length)

/-- Whether a group has too many channels, or one that lies among the targets (R144). -/
def splitBad (ps : List (Nat × Nat)) (g : Nat) : Bool :=
  decide (32 < ps.length) || ps.any fun p => decide (64 * g + 64 - ps.length ≤ p.1)

/-- VSPLIT (R144). -/
def semVsplit (x : Ctx) (c : VCom) (d a b : RowRef) : OpRes :=
  let n := perRow c.ty
  let act := x.act c c.ty
  let groups := (tabulate id 0 (n / 64)).map fun g => (g, splitPairs act g)
  if groups.any fun (g, ps) => splitBad ps g then ill4
  else
    let ps := groups.flatMap Prod.snd
    let es := x.el c.ty a
    let half (i : Nat) : Nat := roundF c.ty (mulF (decodeF c.ty (es.getD i 0)) (.fin false 1 (-1)))
    let out := tabulate (fun i =>
      match ps.find? fun p => p.1 == i || p.2 == i with
      | some p => half p.1
      | none => es.getD i 0) 0 n
    let ents := ps.map fun (s, t) => s + t * 2 ^ 16
    let map := ents ++ List.replicate (64 - ents.length) 0xFFFFFFFF
    .ok fun m =>
      (landV x 4 d (packRow c.ty out) allBytes (x.taint c.q [a]) m).flyRow 4 b.ix (packRow 7 map) allBytes false

/-- VSNAP of one element to the grid 2^g (R145). A result of zero keeps the sign of its source (DEDUCED, log 76). -/
def snapE (f : Fmt) (g : Int) (a : Nat) : Nat :=
  match decodeF f a with
  | .fin s m e => roundF f (.fin s (rne m (e - g)) g)
  | v => roundF f v

/-- VSNAP (R145): taint 0 when every element is active, else the row keeps its old taint. -/
def semVsnap (x : Ctx) (c : VCom) (d a : RowRef) : OpRes :=
  let g := x.cap.w0.toInt
  if g < -149 ∨ 127 < g then ill4
  else .ok (landE x 4 d c.ty ((x.el c.ty a).map (snapE c.ty g)) (x.act c c.ty) false)

/-! ## Vector loads and stores (R146 to R149) -/

/-- The 64-byte segments, with their number, that hold a byte the mask marks (R146). -/
def segsOf (mask : VMask) : List Nat :=
  (tabulate id 0 4).filter fun i => mask.extractLsb' (64 * i) 64 != (0 : BitVec 64)

/-- The address of segment `i`, modulo 2^64. -/
def segAddr (ea i : Nat) : Nat := (ea + 64 * i) % 2 ^ 64

/-- The checks of R147 but the last, for the parts accessed; `al` is the alignment. -/
def vecCheck (m : Mach) (ea al : Nat) (ps : List Part) (rd wr : Bool) : Parts :=
  let ends := ps.flatMap fun (a, n) => [a, (a + n - 1) % 2 ^ 64]
  if ends.any fun a => decide (2 ^ 57 ≤ a) then .stop (.trap Cause.pageFault (natW ea))
  else if ea % al ≠ 0 then .stop (.trap Cause.memAlign (natW ea))
  else if (ends.any isCtrMmio && !ends.all isCtrMmio) || (ends.any isScratch && !ends.all isScratch) then
    .stop (.trap Cause.memSpan (natW ea))
  else if ends.any isCtrMmio then .stop (.trap Cause.prot (natW ea))
  else match xlatParts m rd wr ps with
    | .denied va => .stop (.trap Cause.prot (natW va))
    | .stop r => .stop r
    | .go qs => match physParts m ea qs with
      | some r => .stop r
      | none => .go qs

/-- The bytes of a list as a number, and the address that poisons them, part by part; the load time is the slowest
part's (R149). -/
def loadParts (x : Ctx) (ea n reuse : Nat) : List (Nat × Bool) → Mach → Nat × Mach
  | [], m => (0, m)
  | (pa, na) :: ps, m =>
    let (l, m) := (m.early pa n).loadTime pa n 6 (if na then 7 else reuse)
    let m := (m.onS (State.heal · pa n)).record false pa n
    let (l', m) := loadParts x ea n reuse ps m
    (Nat.max l l', m)

/-- A vector load put in flight: the row, its mask, taint and poison (R36, R131, R148). -/
def vload (x : Ctx) (ea n reuse : Nat) (d : RowRef) (data : Row) (mask : VMask) (q : PReg) (ps : List (Nat × Bool)) :
    OpRes :=
  if x.m.loadsFull then stall
  else
    let taint := x.taint q [] || ps.any (fun p => regionOf p.1 == .scratch && x.m.settled.taintRange p.1 n) || (mask != allBytes && (x.row d).taint)
    let poison := ps.findSome? fun p => x.m.poisonOf ea p.1 n
    .ok fun m =>
      let (lat, m) := loadParts x ea n reuse ps m
      let r : Result := ⟨.row d.ix, data, mask, x.m.t.x.te && taint, poison, 0, 0⟩
      m.onT fun t => t.pendOn ⟨.ready, [r], m.s.cyc, m.s.cyc + lat, none, none, 0⟩

/-- VLD (R146 to R149): its address is the stepped copy. -/
def semVld (x : Ctx) (f : VMemF) (reuse : BitVec 3) : OpRes :=
  let ea := x.cap.w0.toNat
  let mask := x.lanes f.q f.qn
  let segs := segsOf mask
  if segs.isEmpty then .ok id
  else match vecCheck x.m ea 64 (segs.map fun i => (segAddr ea i, 64)) true false with
    | .stop r => r
    | .denied va => .trap Cause.prot (natW va)
    | .go ps =>
      let data := (segs.zip ps).foldl (fun acc (i, p) => acc + (x.m.early p.1 64).loadNat p.1 64 * 2 ^ (512 * i)) 0
      vload x ea 64 reuse.toNat f.d (BitVec.ofNat 2048 data) mask f.q ps

/-- VLDS (R146 to R149). -/
def semVlds (x : Ctx) (f : VMemF) (ty : Fmt) (reuse : BitVec 3) : OpRes :=
  let ea := x.cap.w0.toNat
  let w := ty.bits / 8
  let act := activeOf ty (x.lanes f.q f.qn)
  if !act.any id then .ok id
  else match vecCheck x.m ea w [(ea, w)] true false with
    | .stop r => r
    | .denied va => .trap Cause.prot (natW va)
    | .go ps =>
      let e := match ps with
        | (pa, _) :: _ => (x.m.early pa w).loadNat pa w
        | [] => 0
      vload x ea w reuse.toNat f.d (packRow ty (List.replicate (perRow ty) e)) (byteMask w act) f.q ps

/-- The bytes of a segment that a mask marks. -/
def segBytes (r : Row) (mask : VMask) (i : Nat) : List (Option Byte) :=
  tabulate (fun b => if mask.getLsbD b then some (r.extractLsb' (8 * b) 8) else none) (64 * i) 64

/-- The segments of a vector store put in the store buffer, as one store (R149). -/
def storeSegs (ea : Nat) (r : Row) (mask : VMask) (taint : Bool) : List (Nat × Nat) → Mach → Mach
  | [], m => m
  | (i, pa) :: ps, m =>
    storeSegs ea r mask taint ps (m.store (segAddr ea i) pa (segBytes r mask i) (some taint) (!ps.isEmpty))

/-- VST (R146 to R149); tainted data leaves the scratchpads in no D-mode launch that sets TE (R147 check 7). -/
def semVst (x : Ctx) (f : VMemF) : OpRes :=
  let ea := x.cap.w0.toNat
  let mask := x.lanes f.q f.qn
  let segs := segsOf mask
  let st := x.m.t.x
  if segs.isEmpty then .ok id
  else match vecCheck x.m ea 64 (segs.map fun i => (segAddr ea i, 64)) false true with
    | .stop r => r
    | .denied va => .trap Cause.prot (natW va)
    | .go ps =>
      let taint := st.te && x.taint f.q [f.d]
      if st.dm && taint && ps.any (fun p => regionOf p.1 != .scratch) then .trap Cause.detTaint (natW ea)
      else if x.m.storesFull then stall
      else .ok (storeSegs ea (x.row f.d).data mask taint (segs.zip (ps.map Prod.fst)))

end Sys2Proof.Machine
end

