-- ==== Sys2Proof/Machine/Tensor.lean ====
section
/-! DEFINITION. Tensor identifiers, layout records, handles, positions and windows (R188 to R198), and TIDW, TIDR and
TIDI (R228 to R230). -/

namespace Sys2Proof.Machine

/-! ## The layout record (R190, R191) -/

/-- The record's fields. -/
def recBase (r : Record) : Nat := field r.toNat 0 64
def recFmt (r : Record) : Fmt := BitVec.ofNat 4 (field r.toNat 64 4)
def recRank (r : Record) : Nat := field r.toNat 72 3
def recScaled (r : Record) : Bool := bitAt r.toNat 75
def recFill (r : Record) : Nat := field r.toNat 80 32
def recSize (r : Record) (d : Nat) : Nat := field r.toNat (128 + 32 * d) 32
def recStride (r : Record) (d : Nat) : Nat := field r.toNat (256 + 48 * d) 48
def recNb (r : Record) : Nat := field r.toNat 448 3
def recRot (r : Record) : Nat := field r.toNat 451 5
def recGran (r : Record) : Nat := field r.toNat 456 8
def recSbase (r : Record) : Nat := field r.toNat 512 64
def recSfmt (r : Record) : Nat := field r.toNat 576 8
def recSlog (r : Record) : Nat := field r.toNat 584 8
def recSaxis (r : Record) : Nat := field r.toNat 592 8
def recDmap (r : Record) : Nat := field r.toNat 600 64
def recDcnt (r : Record) : Nat := field r.toNat 664 16

/-- STRIDE0 as the format requires it (R190). -/
def stride0Of (f : Fmt) : Nat := if f.bits % 8 = 0 then f.bits / 8 else 0

/-- The size check of dimension `d` under a valid rank (R191). -/
def sizeBad (r : Record) (d : Nat) : Option Nat :=
  need (if d < recRank r then recSize r d != 0 else recSize r d == 1) (128 + 32 * d)

/-- The lowest-numbered offending bit of a record (R191). -/
def recordBad (r : Record) : Option Nat :=
  let w := r.toNat
  let rankOk := decide (1 ≤ recRank r) && decide (recRank r ≤ 4)
  let fmtOk := recFmt r != 0 && recFmt r != 15
  leastBit
    [lowestSet w 68 4, lowestSet w 76 4, lowestSet w 112 16, lowestSet w 464 48, lowestSet w 680 88,
     need fmtOk 64, need rankOk 72, need (recBase r % 64 == 0) 0,
     if rankOk then leastBit [sizeBad r 0, sizeBad r 1, sizeBad r 2, sizeBad r 3] else none,
     need (!fmtOk || recStride r 0 == stride0Of (recFmt r)) 256,
     need (recStride r 1 % 64 == 0) 304, need (recStride r 2 % 64 == 0) 352, need (recStride r 3 % 64 == 0) 400,
     need (decide (recNb r ≤ 4)) 448,
     need (recGran r == 0 || (decide (6 ≤ recGran r) && decide (recGran r ≤ 20))) 456,
     need (if recScaled r then recSfmt r == 0x10 || recSfmt r == 0x11 else recSfmt r == 0) 576,
     need ((recScaled r || recSlog r == 0) && decide (recSlog r ≤ 31)) 584,
     need ((recScaled r || recSaxis r == 0) && decide (recSaxis r ≤ 3)) 592,
     need (decide (recDcnt r ≤ 256)) 664]

/-! ## The tensor tables (R188, R189) -/

/-- The record of an identifier in the table of cluster `cl`; `none` for an invalid entry. -/
def State.tid (s : State) (cl id : Nat) : Option Record :=
  if id < 4096 then SMap.find s.tables (cl * 4096 + id) else none

/-- An entry written, valid (R188, R189). -/
def State.setTid (s : State) (cl id : Nat) (r : Record) : State :=
  { s with tables := SMap.put s.tables (cl * 4096 + id) r }

/-- An entry made invalid (R230). -/
def State.dropTid (s : State) (cl id : Nat) : State := { s with tables := SMap.del s.tables (cl * 4096 + id) }

/-- The record a handle triple holds (R190). -/
def Ctx.triple (x : Ctx) (h : HReg) : Record :=
  BitVec.ofNat 768 ((x.h h).toNat + (x.m.t.regs.hreg (h.toNat + 1)).toNat * 2 ^ 256 +
    (x.m.t.regs.hreg (h.toNat + 2)).toNat * 2 ^ 512)

/-- TIDW (R191, R228): the entry is written at the end of the issue cycle. -/
def semTidw (x : Ctx) (h : HReg) (a : SReg) : OpRes :=
  let id := (x.s a).toNat
  if 4095 < id then .trap Cause.tidInvalid (natW id)
  else match recordBad (x.triple h) with
    | some b => .trap Cause.tableReserved (natW b)
    | none => .ok fun m => m.onS fun s => s.setTid (clusterOf s.cur) id (x.triple h)

/-- TIDR (R229): the triple is pending until all three registers land together. -/
def semTidr (x : Ctx) (h : HReg) (a : SReg) : OpRes :=
  let id := (x.s a).toNat
  match x.m.s.tid (clusterOf x.m.s.cur) id with
  | none => .trap Cause.tidInvalid (natW id)
  | some r =>
    if x.m.loadsFull then stall
    else .ok fun m =>
      let (k, m) := m.fresh
      let part (i : Nat) : Result :=
        ⟨.h (h.toNat + i), BitVec.ofNat 2048 (field r.toNat (256 * i) 256), 0, false, none, 0, 0⟩
      m.onT fun t => t.pendOn
        ⟨.calc, [part 0, part 1, part 2], m.s.cyc, m.s.cyc + 1 + Config.extraLatency k, none, none, 0⟩

/-- TIDI (R230). -/
def semTidi (x : Ctx) (a : SReg) : OpRes :=
  let id := (x.s a).toNat
  if 4095 < id then .trap Cause.tidInvalid (natW id)
  else .ok fun m => m.onS fun s => s.dropTid (clusterOf s.cur) id

/-! ## Handles (R194, R195) -/

/-- The handle's fields. -/
def hId (h : Handle) : Nat := field h.toNat 0 16
def hKind (h : Handle) : Nat := field h.toNat 16 2
def hOrg (h : Handle) (d : Nat) : Nat := field h.toNat (24 + 24 * d) 24
def hExt (h : Handle) (d : Nat) : Nat := field h.toNat (120 + 16 * d) 16
def hRoff (h : Handle) : Nat := field h.toNat 184 8
def hRbank (h : Handle) : Nat := field h.toNat 192 4
def hRrows (h : Handle) : Nat := field h.toNat 200 16
def hRhead (h : Handle) : Nat := field h.toNat 216 16

/-- Whether a handle breaks R195, for an operation that needs a tensor when `need` holds. -/
def handleBad (h : Handle) (need : Bool) : Bool :=
  hKind h == 3 || field h.toNat 18 6 != 0 || field h.toNat 196 4 != 0 || field h.toNat 232 24 != 0 ||
    (hKind h == 1 && field h.toNat 184 48 != 0) || (need && hKind h == 0)

/-- A handle checked and its record resolved at issue (R189, R195): the record, or the trap. -/
inductive Resolved where
  | stop (r : OpRes)
  | ok (r : Record)

/-- A view handle that an operation needs: KIND 2 is refused too where `win` is false (R215). -/
def resolve (m : Mach) (h : Handle) (win : Bool) : Resolved :=
  if handleBad h true || (!win && hKind h == 2) then .stop ill4
  else match m.s.tid (clusterOf m.s.cur) (hId h) with
    | none => .stop (.trap Cause.tidInvalid (natW (hId h)))
    | some r => .ok r

/-! ## Positions (R192, R193, R217) -/

/-- A position: its four indices, exact. -/
abbrev Pos := Int × Int × Int × Int

/-- Index `d` of a position. -/
def Pos.at (p : Pos) (d : Nat) : Int :=
  match d with
  | 0 => p.1
  | 1 => p.2.1
  | 2 => p.2.2.1
  | _ => p.2.2.2

/-- Whether a position lies inside the tensor (R193). -/
def inside (r : Record) (p : Pos) : Bool :=
  (List.range (recRank r)).all fun d => decide (0 ≤ Pos.at p d) && decide (Pos.at p d < recSize r d)

/-- A place in memory: a byte address and the bit in that byte at which a sub-byte element starts. -/
abbrev Loc := Nat × Nat

/-- The address at which the run of a position along d0 starts (R192). -/
def runBase (r : Record) (p : Pos) : Nat :=
  let t (d : Nat) : Int := if d < recRank r then Pos.at p d * recStride r d else 0
  wrap 64 (recBase r + t 1 + t 2 + t 3)

/-- The place of a position inside the tensor (R192). -/
def locate (r : Record) (p : Pos) : Option Loc :=
  if !inside r p then none
  else
    let w := (recFmt r).bits
    let i0 := (Pos.at p 0).toNat
    if w % 8 = 0 then some ((runBase r p + i0 * recStride r 0) % 2 ^ 64, 0)
    else some ((runBase r p + i0 * w / 8) % 2 ^ 64, i0 * w % 8)

/-- The effective extent of a view in dimension `d` (R217). -/
def effExt (h : Handle) (r : Record) (d : Nat) : Nat := if d < recRank r then hExt h d else 1

/-- Whether two views have equal effective extents (R218). -/
def sameExt (h : Handle) (r : Record) (h' : Handle) (r' : Record) : Bool :=
  (List.range 4).all fun d => effExt h r d == effExt h' r' d

/-- The number of positions of a view; an extent of 0 below the rank makes it empty (R195). -/
def viewCount (h : Handle) (r : Record) : Nat := effExt h r 0 * effExt h r 1 * effExt h r 2 * effExt h r 3

/-- The offsets of position number `n` of a view, d0 fastest (R217). -/
def offsetOf (h : Handle) (r : Record) (n : Nat) : Pos :=
  let e0 := effExt h r 0
  let e1 := effExt h r 1
  let e2 := effExt h r 2
  ((n % e0 : Nat), (n / e0 % e1 : Nat), (n / (e0 * e1) % e2 : Nat), (n / (e0 * e1 * e2) : Nat))

/-- A position of a view: origin plus offset (R217). -/
def posOf (h : Handle) (r : Record) (o : Pos) : Pos :=
  let t (d : Nat) : Int := if d < recRank r then (hOrg h d : Int) + Pos.at o d else 0
  (t 0, t 1, t 2, t 3)

/-- Position number `n` of a view. -/
def viewPos (h : Handle) (r : Record) (n : Nat) : Pos := posOf h r (offsetOf h r n)

/-- The fill element of a record: the low bits of FILL; for CF32 the imaginary part is +0 (R190, R193). -/
def fillOf (r : Record) : Nat := recFill r % 2 ^ Nat.min 32 (recFmt r).bits

/-! ## Windows (R196 to R198) -/

/-- Bytes of a window slot (R196). -/
def slotBytes (h : Handle) (r : Record) : Nat := 256 * ceilDiv (hExt h 0 * (recFmt r).bits) 2048

/-- E_d of R196: the product of the extents of dimensions 1 to d − 1. -/
def winProd (h : Handle) : Nat → Nat
  | 0 => 1
  | 1 => 1
  | d + 1 => winProd h d * hExt h d

/-- The position of element `e0` of window row `q` (R196). -/
def winPos (h : Handle) (r : Record) (q e0 : Nat) : Pos :=
  let t := recRank r - 1
  let ix (d : Nat) : Int :=
    if t < d then 0
    else if d = t then (hOrg h d + q / winProd h d : Nat)
    else (hOrg h d + q / winProd h d % hExt h d : Nat)
  if t = 0 then ((hOrg h 0 + q * hExt h 0 + e0 : Nat), 0, 0, 0)
  else ((hOrg h 0 + e0 : Nat), ix 1, ix 2, ix 3)

/-- The granule of a ring (R190). -/
def ringGran (r : Record) : Nat := if recGran r = 0 then 64 else 2 ^ recGran r

/-- The address of byte `b` of ring slot `sl` (R196). -/
def ringAddr (h : Handle) (r : Record) (sl b : Nat) : Nat :=
  let a := sl * slotBytes h r + b
  let n := 2 ^ recNb r
  let g := ringGran r
  let q := a / g
  let st := q / n
  let bank := hRbank h + (q % n + recRot r * st) % n
  0x7E0000000000 + bank * 2 ^ 20 + hRoff h * 4096 + st * g + a % g

/-- The bytes that a ring takes in each of its banks (R197). -/
def ringSpan (h : Handle) (r : Record) : Nat :=
  ceilDiv (hRrows h * slotBytes h r) (2 ^ recNb r * ringGran r) * ringGran r

/-- How many bytes a ring takes in bank `b`, from its offset on (R196): a granule of every full stripe, and its part of the
last one. -/
def ringPart (h : Handle) (r : Record) (b : Nat) : Nat :=
  let n := 2 ^ recNb r
  let g := ringGran r
  let len := hRrows h * slotBytes h r
  let full := len / (n * g)
  let rest := len % (n * g)
  let q := (b - hRbank h + n - recRot r * full % n) % n
  if b < hRbank h ∨ hRbank h + n ≤ b then 0 else full * g + Nat.min g (rest - q * g)

/-- Whether the bytes of two windows' rings meet (R197). -/
def ringsMeet (a : Win) (h : Handle) (r : Record) : Bool :=
  (List.range 16).any fun b =>
    decide (hRoff a.hw * 4096 < hRoff h * 4096 + ringPart h r b) &&
      decide (hRoff h * 4096 < hRoff a.hw * 4096 + ringPart a.hw a.lrec b) && ringPart h r b != 0 && ringPart a.hw a.lrec b != 0

/-- Whether a handle names an open window: equal ring fields (R198). -/
def sameRing (a b : Handle) : Bool := hRbank a == hRbank b && hRoff a == hRoff b && hRrows a == hRrows b

end Sys2Proof.Machine
end

