-- ==== Sys2Proof/Machine/Engines.lean ====
section
/-! DEFINITION. What the asynchronous engines share: translation of their accesses, their ends and promises, and the
writes they perform (R174, R209, R216, R243 to R245). -/

namespace Sys2Proof.Machine

/-! ## Translation for an engine (R172, R174, R216) -/

/-- How an engine's access to one address can fail. -/
inductive EFault where
  | page (va : Nat)
  | fault (cause : Nat) (info : Word)
  deriving DecidableEq, Repr

/-- Whether some mapping of a launch covers an address that does not translate (R216, R326); log 32. -/
def covers (lid va : Nat) : Bool := decide (va < 2 ^ 57) && Config.mapped lid va

/-- The kinds of space between which no access may cross (R184). -/
inductive SpaceKind where
  | memory
  | special
  | scratch
  deriving DecidableEq, Repr

/-- The kind of space of a physical address. -/
def spaceKind (pa : Nat) : SpaceKind := if isCtrMmio pa then .special else if isScratch pa then .scratch else .memory

/-- An address translated for an engine operation of core `k` under a page-table root, for a read, a write or both: user
level whatever the level at issue (log 54), the kind of space of the positions before it, no counter or MMIO space, a bank
in scratchpad mode, a peer in reach (R169, R170, R174, R179, R184, R360). -/
def engXlat (s : State) (k : Nat) (ptb : Word) (rd wr : Bool) (kind : Option SpaceKind) (va : Nat) : Except EFault Nat :=
  if 2 ^ 57 ≤ va then .error (.page va) else
  match walk s ptb va with
  | none => .error (.page va)
  | some e =>
    let pa := canon (clusterOf k) s.devnum (e.phys va)
    if (kind.getD (spaceKind pa)) != spaceKind pa then .error (.fault Cause.memSpan (natW va))
    else if (wr && !e.wr) || (rd && !e.rd) || !e.us then .error (.fault Cause.prot (natW va))
    else if isCtrMmio pa || !s.bankOk k pa || s.hostOff pa then .error (.fault Cause.prot (natW va))
    else if regionOf pa = .peer ∧ peerPort s pa = none then .error (.fault Cause.linkDown (natW (peerPort0 pa)))
    else .ok pa

/-- The addresses of an access translated in the order of its positions; the first that fails decides. -/
def engXlatsFrom (s : State) (k : Nat) (ptb : Word) (rd wr : Bool) (kind : Option SpaceKind) : List Nat → Except EFault (List Nat)
  | [] => .ok []
  | va :: vs =>
    match engXlat s k ptb rd wr kind va with
    | .error e => .error e
    | .ok pa => match engXlatsFrom s k ptb rd wr (some (kind.getD (spaceKind pa))) vs with
      | .error e => .error e
      | .ok ps => .ok (pa :: ps)

/-- The addresses of an access translated. -/
def engXlats (s : State) (k : Nat) (ptb : Word) (rd wr : Bool) (vas : List Nat) : Except EFault (List Nat) :=
  engXlatsFrom s k ptb rd wr none vas

/-! ## Ends and promises (R244, R245) -/

/-- Lp in F-mode, Lp in D-mode, and twice Rp, of an end (R244). -/
structure EndSpec where
  lf  : Nat
  ld  : Nat
  rp2 : Nat
  hbm : Bool
  own : Bool
  deriving DecidableEq, Repr

/-- Whether an HBM4E address lies in a chunk of a lost stack. -/
def State.inLost (s : State) (pa : Nat) : Bool := regionOf pa == .hbm && s.hbm.lost.contains (stackOf (chunkOf pa))

/-- Whether promises of a launch count a lost stack: it started after STACK_LOST (R358). -/
def countsLoss (s : State) (lid : Nat) : Bool :=
  match s.hbm.lostAt, SMap.find s.launches lid with
  | some c, some x => decide (c ≤ x.start)
  | _, _ => false

/-- The end that a physical address lies in, for an operation of core `k` (R244). -/
def endOf (k pa : Nat) : EndSpec :=
  match regionOf pa with
  | .scratch =>
    let cl := (pa - 0x7F0000000000) / 2 ^ 28 * 16 + (pa - 0x7F0000000000) / 2 ^ 24 % 16
    if cl = clusterOf k then ⟨16, 16, 8, false, true⟩
    else if cl / 16 = chipletOf k then ⟨120, 160, 8, false, false⟩
    else ⟨200, 300, 4, false, false⟩
  | .hbm => ⟨480, 1400, 4, true, false⟩
  | .lpddr => ⟨720, 1800, 2, false, false⟩
  | .rebuild => ⟨720, 1800, 2, false, false⟩
  | .host => ⟨2400, 6000, 1, false, false⟩
  | .peer => ⟨4000, 9000, 1, false, false⟩
  | _ => ⟨16, 16, 8, false, true⟩

/-- The physical address by which an end is judged at issue: its translation, or the address itself where it has none
yet. -/
def endPhys (s : State) (k : Nat) (ptb : Word) (va : Nat) : Nat :=
  canon (clusterOf k) s.devnum (match walk s ptb va with
    | some e => e.phys va
    | none => va)

/-- The ends at physical addresses, for a launch that counts a lost stack: with `n` lost chunks touched the Lp of HBM4E rises
by 2,000 × n; once the stack is rebuilt its chunks are LPDDR-6 ends (R358). -/
def lossEnds (s : State) (k n : Nat) (pas : List Nat) : List EndSpec :=
  if stripeCount ≤ s.hbm.rebuilt then
    pas.map fun pa => if s.inLost pa then ⟨720, 1800, 2, false, false⟩ else endOf k pa
  else pas.map fun pa =>
    let e := endOf k pa
    if e.hbm then { e with ld := 1400 + 2000 * n } else e

/-- The values of R244 over several ends: the largest Lp, the smallest Rp. -/
def endMax (es : List EndSpec) : EndSpec :=
  es.foldl (fun a e => ⟨Nat.max a.lf e.lf, Nat.max a.ld e.ld, Nat.min a.rp2 e.rp2, a.hbm || e.hbm, a.own && e.own⟩)
    ⟨16, 16, 8, false, true⟩

/-- The `n`-th owned cycle (from 1) at or after `s`, of a queue with index `q` in frames from `f0` on (R245). -/
def ownedCycle (f0 q s n : Nat) : Nat :=
  let base := f0 + (s - f0) / 1024 * 1024 + 4 * q
  let used := if s ≤ base then 0 else Nat.min 4 (s - base)
  let i := used + n - 1
  base + i / 4 * 1024 + i % 4

/-- Whether cycle `c` is owned by a queue (R245). -/
def owns (f0 q c : Nat) : Bool := decide (f0 ≤ c) && (c - f0) % 1024 / 4 == q

/-- The index of a copy queue on its chiplet (R245). -/
def queueIx (k : Nat) (sl : CSlot) : Nat :=
  k / 8 % 16 * 16 + k % 8 * 2 + (match sl with
    | .c0 => 0
    | .c1 => 1)

/-- What a promise is made of. -/
structure Promise where
  begin : Nat
  lp    : Nat
  slots : Bool
  at_   : Nat
  deriving DecidableEq, Repr

/-- The promise of R244 and R245 for an operation of `b` granules over the ends given, whose S is `s`; `lp` is what passes
from S, or from the last granule's slot, to P. -/
def promiseOf (dm : Bool) (f0 q s b : Nat) (es : List EndSpec) : Promise :=
  let e := endMax es
  let xfer := ceilDiv (2 * b) e.rp2
  if !dm then ⟨s, e.lf, false, s + e.lf + xfer + (if e.hbm then 720 else 0)⟩
  else if e.own || b == 0 then ⟨s, e.ld + xfer, false, s + e.ld + xfer⟩
  else ⟨s, e.ld, true, ownedCycle f0 q s (ceilDiv b 16) + e.ld⟩

/-! ## Queues -/

/-- A copy queue of a core. -/
def Core.cq (c : Core) : CSlot → List CopyOp
  | .c0 => c.cq0
  | .c1 => c.cq1
/-- A copy queue replaced. -/
def Core.setCq (c : Core) (sl : CSlot) (q : List CopyOp) : Core :=
  match sl with
  | .c0 => { c with cq0 := q }
  | .c1 => { c with cq1 := q }
/-- The promise of the latest operation of a queue (R244). -/
def Core.qprom (c : Core) : CSlot → Nat
  | .c0 => c.qprom0
  | .c1 => c.qprom1
/-- That promise replaced. -/
def Core.setQprom (c : Core) (sl : CSlot) (p : Nat) : Core :=
  match sl with
  | .c0 => { c with qprom0 := p }
  | .c1 => { c with qprom1 := p }
/-- The open windows of a queue (R196). -/
def Task.wins (t : Task) : CSlot → List Win
  | .c0 => t.wins0
  | .c1 => t.wins1
/-- The open windows replaced. -/
def Task.setWins (t : Task) (sl : CSlot) (w : List Win) : Task :=
  match sl with
  | .c0 => { t with wins0 := w }
  | .c1 => { t with wins1 := w }

/-- The counter that a counter field names: none for field 0, else bits 15:0 of the scalar (R214). -/
def ctrOf (f : SReg) (v : Word) : Option Nat := if f = 0 then none else some (v.toNat % 65536)

/-! ## Writing (R216, R217, R334) -/

/-- The bytes of `n` addresses from `va` on that a digest map records. -/
def wroteBytes (w : SMap Byte) (va n : Nat) : List (Option Byte) := tabulate (fun i => SMap.find w (va + i)) 0 n

/-- The granules of 8 bytes that a digest map touches, in rising order. -/
def wroteGranules (w : SMap Byte) : List Nat := w.foldl (fun acc (a, _) => insertNat (a / 8) acc) []

/-- The digest sum of the bytes an operation wrote: one term for each granule (R334). -/
def wroteDigest (w : SMap Byte) : Word :=
  (wroteGranules w).foldl (fun acc g => acc + digestOf (8 * g) (wroteBytes w (8 * g) 8)) 0

end Sys2Proof.Machine
end

