-- ==== Sys2Proof/Machine/Copy.lean ====
section
/-! DEFINITION. The C-slot operations at issue (R214 to R227): their checks, the moves they will make, what they promise,
and their entry in the copy queue. -/

namespace Sys2Proof.Machine

/-! ## Moves (R217 to R223) -/

/-- A source of a move: no position at all, a position outside the tensor, or an element in memory (R193). -/
inductive Src where
  | absent
  | fill
  | elem (l : Loc)
  deriving DecidableEq, Repr

/-- A move: its sources of `sw` bits each, the element it picks of a burst, where it writes and how many bits (nothing
when its destination lies outside the tensor), and how many elements that discards. -/
structure Move where
  srcs : List Src
  sw   : Nat
  pick : Nat
  dst  : Option Loc
  dw   : Nat
  lost : Nat
  deriving DecidableEq, Repr

/-- A source position (R193). -/
def srcOf (r : Record) (p : Pos) : Src :=
  match locate r p with
  | some l => .elem l
  | none => .fill

/-- The move of one element. -/
def moveOne (rs rd : Record) (ps pd : Pos) : Move :=
  let d := locate rd pd
  ⟨[srcOf rs ps], (recFmt rs).bits, 0, d, (recFmt rd).bits, d.isNone.toNat⟩

/-- The moves of CPY and of CPYR but .I64 (R218, R221). -/
def movesCpy (hs : Handle) (rs : Record) (hd : Handle) (rd : Record) : List Move :=
  (tabulate (offsetOf hd rd) 0 (viewCount hd rd)).map fun o => moveOne rs rd (posOf hs rs o) (posOf hd rd o)

/-- A position moved by one along d0. -/
def Pos.succ (p : Pos) : Pos := (p.1 + 1, p.2)

/-- The moves of CPYR.I64: pairs along d0 (R221). A pair whose high word lies outside moves its low word alone. -/
def movesI64 (hs : Handle) (rs : Record) (hd : Handle) (rd : Record) : List Move :=
  ((tabulate (offsetOf hd rd) 0 (viewCount hd rd)).filter fun o => o.1 % 2 == 0).map fun o =>
    let ps := posOf hs rs o
    let pd := posOf hd rd o
    let d := locate rd pd
    let hi := locate rd (Pos.succ pd)
    ⟨[srcOf rs ps, srcOf rs (Pos.succ ps)], 32, 0, d, if hi.isSome then 64 else 32, d.isNone.toNat + hi.isNone.toNat⟩

/-- The place of a position of a packed tensor: its burst's address and its element of the burst (R219). -/
def packedAt (r : Record) (p : Pos) : Option (Nat × Nat) :=
  if !inside r p then none
  else
    let i := (Pos.at p 0).toNat
    some ((runBase r p + 64 * (i / perBurst (recFmt r))) % 2 ^ 64, i % perBurst (recFmt r))

/-- The moves of CPYQ: one for each destination burst (R220). -/
def movesCpyq (hs : Handle) (rs : Record) (hd : Handle) (rd : Record) : List Move :=
  let per := perBurst (recFmt rd)
  let e0 := effExt hd rd 0
  let runs := effExt hd rd 1 * effExt hd rd 2 * effExt hd rd 3
  (tabulate id 0 (if e0 = 0 then 0 else runs)).flatMap fun n =>
    (tabulate id 0 (ceilDiv e0 per)).map fun b =>
      let at_ (k : Nat) : Pos := offsetOf hd rd (n * e0 + b * per + k)
      let cell (k : Nat) : Option Pos := if b * per + k < e0 then some (at_ k) else none
      let outside := (tabulate cell 0 per).filterMap fun o => o.bind fun o =>
        if (packedAt rd (posOf hd rd o)).isNone then some o else none
      ⟨tabulate (fun k => match cell k with
          | none => .absent
          | some o => if (packedAt rd (posOf hd rd o)).isNone then .absent else srcOf rs (posOf hs rs o)) 0 per,
        (recFmt rs).bits, 0, (packedAt rd (posOf hd rd (at_ 0))).map fun q => (q.1, 0), 512, outside.length⟩

/-- The moves of CPYD: each element picked from its burst (R219, R220). -/
def movesCpyd (hs : Handle) (rs : Record) (hd : Handle) (rd : Record) : List Move :=
  (tabulate (offsetOf hd rd) 0 (viewCount hd rd)).map fun o =>
    let d := locate rd (posOf hd rd o)
    match packedAt rs (posOf hs rs o) with
    | none => ⟨[.fill], 512, 0, d, (recFmt rd).bits, d.isNone.toNat⟩
    | some (a, k) => ⟨[.elem (a, 0)], 512, k, d, (recFmt rd).bits, d.isNone.toNat⟩

/-- The moves of CFILL: the fill pattern to every position, those outside the tensor discarded (R193, R217, R222). DEDUCED
(log 28). -/
def movesFill (hd : Handle) (rd : Record) : List Move :=
  (tabulate (viewPos hd rd) 0 (viewCount hd rd)).map fun p =>
    let d := locate rd p
    ⟨[.fill], (recFmt rd).bits, 0, d, (recFmt rd).bits, d.isNone.toNat⟩

/-- A row position of a gather or a scatter (R223). -/
def rowPos (h : Handle) (o0 : Nat) (i1 : Int) : Pos := ((hOrg h 0 + o0 : Nat), i1, (hOrg h 2 : Nat), (hOrg h 3 : Nat))

/-- The moves of CGAT (`g`) or CSCT under the indices read (R223). -/
def movesRows (g : Bool) (hs : Handle) (rs : Record) (hd : Handle) (rd : Record) (idx : List Int) : List Move :=
  ((tabulate id 0 idx.length).zip idx).flatMap fun (j, i) =>
    (tabulate id 0 (effExt hd rd 0)).map fun o0 =>
      moveOne rs rd (rowPos hs o0 (if g then i else (hOrg hs 1 + j : Nat)))
        (rowPos hd o0 (if g then (hOrg hd 1 + j : Nat) else i))

/-- The places of the index view: `none` outside the index tensor (R223). -/
def indexSrcs (hx : Handle) (rx : Record) : List Src :=
  tabulate (fun j => srcOf rx ((hOrg hx 0 + j : Nat), 0, 0, 0)) 0 (hExt hx 0)

/-- The moves of a window fetch: rows `q` to `q + n − 1`, 64 bytes each (R196). -/
def movesWindow (h : Handle) (r : Record) (q n : Nat) : List Move :=
  let w := (recFmt r).bits
  let per := 512 / w
  (tabulate id q n).flatMap fun q =>
    (tabulate id 0 (slotBytes h r / 64)).map fun b =>
      ⟨(tabulate (fun e => if e < hExt h 0 then srcOf r (winPos h r q e) else .absent) (b * per) per), w, 0,
        some (ringAddr h r (q % hRrows h) (64 * b), 0), 512, 0⟩

/-- The addresses of the elements that a list of moves reads, in order. -/
def srcAddrs (ms : List Move) : List Nat :=
  ms.flatMap fun m => m.srcs.filterMap fun e => match e with
    | .elem l => some l.1
    | _ => none

/-- The addresses that a list of moves writes, in order. -/
def dstAddrs (ms : List Move) : List Nat := ms.filterMap fun m => m.dst.map Prod.fst

/-- How many aligned 64-byte granules a list of addresses touches (R244). -/
def granules (as : List Nat) : Nat := (as.foldl (fun acc a => insertNat (a / 64) acc) []).length

/-- The moves of a started operation, under the indices it has read. -/
def CopyOp.moves (o : CopyOp) (idx : List Int) : List Move :=
  match o.op with
  | .cpy .. => movesCpy o.hs o.rs o.hd o.rd
  | .cpyr _ .i64 _ _ _ _ => movesI64 o.hs o.rs o.hd o.rd
  | .cpyr .. => movesCpy o.hs o.rs o.hd o.rd
  | .cpyq .. => movesCpyq o.hs o.rs o.hd o.rd
  | .cpyd .. => movesCpyd o.hs o.rs o.hd o.rd
  | .cfill .. => movesFill o.hd o.rd
  | .cgat .. => movesRows true o.hs o.rs o.hd o.rd idx
  | .csct .. => movesRows false o.hs o.rs o.hd o.rd idx
  | .wopen .. => movesWindow o.hd o.rd o.first o.count
  | .wadv .. => movesWindow o.hd o.rd o.first o.count
  | _ => []

/-- The in-tensor positions of a view, by address (R225). -/
def viewAddrs (h : Handle) (r : Record) : List Nat :=
  (tabulate (viewPos h r) 0 (viewCount h r)).filterMap fun p => (locate r p).map Prod.fst

/-- Whether R92 holds a copy until the next exchange phase: the data-moving operations of a superstep launch. -/
def heldPhase (s : State) (lid : Nat) : Bool :=
  match SMap.find s.launches lid with
  | some x => x.desc.super && !x.exchange
  | none => false

/-- The cycle of a launch's start (R245). -/
def launchStartCyc (s : State) (lid : Nat) : Nat :=
  match SMap.find s.launches lid with
  | some x => x.start
  | none => 0

/-! ## Entering the queue (R215, R216, R243) -/

/-- A blank entry for an operation of the task. -/
def CopyOp.new (t : Task) (op : Instr) : CopyOp :=
  { id := 0, op := op, uid := t.uid, lid := t.lid, hd := 0, hs := 0, hx := 0, rd := 0, rs := 0, rx := 0, ctr := none
    promise := none, ptb := t.x.ptb, te := t.x.te, dm := t.x.dm, first := 0, count := 0, rows := [], issue := 0, begin := 0
    lp := 0, places := 0, slots := false, held := false, stage := .queued, due := 0, sent := 0, send := 0, units := []
    wrote := [], dst := [], chunks := [], trouble := 0 }

/-- The FPOPs of an F-mode queue whose rows have not landed; in D-mode the queue itself holds them (R245). -/
def Core.fpops (c : Core) (sl : CSlot) : Nat :=
  let of (t : Task) : Nat := if t.x.dm then 0 else t.pend.countP fun p => p.fpop == some sl
  (match c.task with
   | some t => of t
   | none => 0) + c.saved.foldl (fun n y => n + of y.task) 0

/-- The operations of a queue of the issuing core that are not complete, FPOPs among them (R226, R242). -/
def Mach.cqLoad (m : Mach) (sl : CSlot) : Nat := (m.c.cq sl).length + ({ m.c with task := some m.t }).fpops sl

/-- Whether a queue is full (R215, R242). -/
def Mach.cqFull (m : Mach) (sl : CSlot) : Bool := decide (256 ≤ m.cqLoad sl)

/-- An entry put in its queue at issue: it forks (R209), takes S and its promise P (R244, R245), and P goes to the
promise register at issue + 1, 0 for a held copy (R243). -/
def enqueue (sl : CSlot) (prm : SReg) (move : Bool) (o : CopyOp) (pr : Promise) (b : Nat) : Act := fun m =>
  let (id, m) := m.uid
  let m := m.fork id
  let held := move && heldPhase m.s o.lid
  let o : CopyOp := { o with
    id := id, issue := m.s.cyc, begin := pr.begin, lp := pr.lp, places := b, slots := pr.slots, held := held, due := pr.at_
    promise := if prm = 0 ∨ held then none else some pr.at_ }
  let m := m.onC fun c => (c.setCq sl (c.cq sl ++ [o])).setQprom sl (if held then 0 else pr.at_)
  if prm = 0 then m else m.flyS 1 prm.toNat (natW (if held then 0 else pr.at_))

/-- How many different chunks of a lost stack a list of physical addresses touches (R358). -/
def State.lostChunks (s : State) (pas : List Nat) : Nat :=
  ((pas.filter s.inLost).foldl (fun cs pa => insertNat (chunkOf pa) cs) []).length

/-- The promise of an operation of `b` granules whose two ends lie at the virtual addresses `ends`, and which touches the
addresses `all` (R244, R358). -/
def Mach.promise (m : Mach) (sl : CSlot) (b : Nat) (ends all : List Nat) : Promise :=
  let k := m.s.cur
  let phys (va : Nat) : Nat := endPhys m.s k m.t.x.ptb va
  let pas := ends.map phys
  promiseOf m.t.x.dm (launchStartCyc m.s m.t.lid) (queueIx k sl) (Nat.max (m.s.cyc + 1) (m.c.qprom sl)) b
    (if countsLoss m.s m.t.lid then lossEnds m.s k (m.s.lostChunks (all.map phys)) pas else pas.map (endOf k))

/-- One address of each 512-byte chunk that a list touches: enough to judge its ends by. -/
def pageReps (as : List Nat) : List Nat := (as.foldl (fun acc a => insertNat (a / 512) acc) []).map (· * 512)

/-- The addresses by which the end of a view is judged: those of its elements, or where it has none its tensor's base (log
27). -/
def viewEnd (r : Record) (as : List Nat) : List Nat := if as.isEmpty then [recBase r] else pageReps as

/-- A data-moving operation whose checks have passed queued: its granules are those of the end that touches more. -/
def queueMoves (x : Ctx) (sl : CSlot) (prm : SReg) (o : CopyOp) (one : Bool) : OpRes :=
  if x.m.cqFull sl then stall
  else .ok fun m =>
    let ms := o.moves []
    let src := srcAddrs ms
    let dst := dstAddrs ms
    let b := Nat.max (granules src) (granules dst)
    enqueue sl prm true o
      (m.promise sl b ((if one then [] else viewEnd o.rs src) ++ viewEnd o.rd dst) (pageReps src ++ pageReps dst)) b m

/-- The operands of an operation with views checked: handles first, then identifiers (R215). -/
def views (m : Mach) (hs : List Handle) : Except OpRes (List Record) :=
  if hs.any fun h => handleBad h true || hKind h == 2 then .error ill4
  else match hs.find? fun h => (m.s.tid (clusterOf m.s.cur) (hId h)).isNone with
    | some h => .error (.trap Cause.tidInvalid (natW (hId h)))
    | none => .ok (hs.map fun h => (m.s.tid (clusterOf m.s.cur) (hId h)).getD 0)

/-- An operation over a destination and a source view, under its own check of the two records. -/
def copy2 (x : Ctx) (sl : CSlot) (op : Instr) (e : PrmCnt) (bad : Handle → Record → Handle → Record → Bool) : OpRes :=
  let hd := x.cap.h0
  let hs := x.cap.h1
  match views x.m [hd, hs] with
  | .error r => r
  | .ok rs =>
    let rd := rs.getD 0 0
    let r2 := rs.getD 1 0
    if bad hd rd hs r2 then ill4
    else queueMoves x sl e.prm
      { CopyOp.new x.m.t op with hd := hd, hs := hs, rd := rd, rs := r2, ctr := ctrOf e.cnt x.cap.w1 } false

/-- CPY (R218). -/
def semCpy (x : Ctx) (op : Instr) (sl : CSlot) (e : PrmCnt) : OpRes :=
  copy2 x sl op e fun hd rd hs rs => recFmt rd != recFmt rs || !sameExt hd rd hs rs

/-- Whether a packed view breaks R219. -/
def packedBad (h : Handle) (r : Record) : Bool :=
  let per := perBurst (recFmt r)
  hOrg h 0 % per != 0 || (hExt h 0 % per != 0 && decide (hOrg h 0 + hExt h 0 < recSize r 0))

/-- CPYQ (R219, R220). -/
def semCpyq (x : Ctx) (op : Instr) (sl : CSlot) (e : PrmCnt) : OpRes :=
  copy2 x sl op e fun hd rd hs rs =>
    !Fmt.inN (recFmt rd) || !Fmt.inF (recFmt rs) || packedBad hd rd || !sameExt hd rd hs rs

/-- CPYD (R219, R220). -/
def semCpyd (x : Ctx) (op : Instr) (sl : CSlot) (e : PrmCnt) : OpRes :=
  copy2 x sl op e fun hd rd hs rs =>
    !Fmt.inN (recFmt rs) || !Fmt.inF (recFmt rd) || packedBad hs rs || !sameExt hd rd hs rs

/-- CPYR (R221). -/
def semCpyr (x : Ctx) (op : Instr) (sl : CSlot) (o : CpyrOp) (e : PrmCnt) : OpRes :=
  let need : Fmt := match o with
    | .f32 => 1
    | .max => 1
    | .i32 => 7
    | .i64 => 7
  copy2 x sl op e fun hd rd hs rs =>
    recFmt rd != need || recFmt rs != need || !sameExt hd rd hs rs ||
      (o == .i64 && (hOrg hd 0 % 2 != 0 || hOrg hs 0 % 2 != 0 || hExt hd 0 % 2 != 0 || hExt hs 0 % 2 != 0))

/-- CFILL (R222). -/
def semCfill (x : Ctx) (op : Instr) (sl : CSlot) (e : PrmCnt) : OpRes :=
  let hd := x.cap.h0
  match views x.m [hd] with
  | .error r => r
  | .ok rs => queueMoves x sl e.prm
      { CopyOp.new x.m.t op with hd := hd, rd := rs.getD 0 0, ctr := ctrOf e.cnt x.cap.w1 } true

/-- The indices of an operation as the core reads them at its issue. -/
def Mach.indicesNow (m : Mach) (hx : Handle) (rx : Record) : List Int :=
  (indexSrcs hx rx).map fun e => match e with
    | .elem l => signed 32 (m.loadNat (endPhys m.s m.s.cur m.t.x.ptb l.1) 4)
    | _ => signed 32 (fillOf rx)

/-- CGAT (`g`) and CSCT (R223, R244). The rows that the indices select are fixed only at the start: their end is judged by their
tensor's base, and their lost chunks count as the indices read at issue (R358, log 27). -/
def gatherOp (x : Ctx) (op : Instr) (sl : CSlot) (e : PrmCnt) (g : Bool) : OpRes :=
  let hd := x.cap.h0
  let hs := x.cap.h1
  let hx := x.cap.h2
  match views x.m [hd, hs, hx] with
  | .error r => r
  | .ok rs =>
    let rd := rs.getD 0 0
    let r2 := rs.getD 1 0
    let rx := rs.getD 2 0
    let j := hExt hx 0
    if recRank rx ≠ 1 ∨ recFmt rx ≠ 7 ∨ recFmt rd ≠ recFmt r2 then ill4
    else if effExt hd rd 2 ≠ 1 ∨ effExt hd rd 3 ≠ 1 ∨ effExt hs r2 2 ≠ 1 ∨ effExt hs r2 3 ≠ 1 then ill4
    else if effExt hd rd 0 ≠ effExt hs r2 0 ∨ (if g then effExt hs r2 1 else effExt hd rd 1) ≠ j then ill4
    else if x.m.cqFull sl then stall
    else .ok fun m =>
      let o : CopyOp := { CopyOp.new x.m.t op with
        hd := hd, hs := hs, hx := hx, rd := rd, rs := r2, rx := rx, ctr := ctrOf e.cnt x.cap.w1 }
      let ix := (indexSrcs hx rx).filterMap fun e => match e with
        | .elem l => some l.1
        | _ => none
      let b := if j = 0 then 0 else j * (ceilDiv (effExt hd rd 0 * (recFmt rd).bits) 512 + 1) + granules ix
      let row (h : Handle) (r : Record) (i : Nat) : List Nat := (tabulate id 0 (effExt hd rd 0)).filterMap fun o0 =>
        (locate r (rowPos h o0 (hOrg h 1 + i : Nat))).map Prod.fst
      let known := (tabulate id 0 j).flatMap fun (i : Nat) => if g then row hd rd i else row hs r2 i
      let ends := viewEnd (if g then rd else r2) known ++ [recBase (if g then r2 else rd)]
      let ms := o.moves (m.indicesNow hx rx)
      enqueue sl e.prm true o (m.promise sl b ends (pageReps (srcAddrs ms ++ dstAddrs ms ++ ix))) b m

def semCgat (x : Ctx) (op : Instr) (sl : CSlot) (e : PrmCnt) : OpRes := gatherOp x op sl e true
def semCsct (x : Ctx) (op : Instr) (sl : CSlot) (e : PrmCnt) : OpRes := gatherOp x op sl e false

/-! ## Windows (R196 to R198, R224) -/

/-- The handle that WOPEN writes: the view's identifier, origins and extents, the window's ring fields, KIND 2 (R197). -/
def openHandle (w v : Handle) : Handle :=
  setField (setField (setField w 0 184 (field v.toNat 0 184)) 16 2 2) 216 16 0

/-- The promise of a window fetch. -/
def Mach.promiseWin (m : Mach) (sl : CSlot) (b : Nat) (o : CopyOp) (ms : List Move) : Promise :=
  let src := srcAddrs ms
  let dst := dstAddrs ms
  m.promise sl b (viewEnd o.rd src ++ pageReps dst) (pageReps src)

/-- Whether a ring breaks R197: `h` is the opened handle. -/
def ringBad (t : Task) (sl : CSlot) (h : Handle) (r : Record) : Bool :=
  let n := 2 ^ recNb r
  hRrows h == 0 || decide (15 < hRbank h + n - 1) || decide (2 ^ 20 < hRoff h * 4096 + ringSpan h r) ||
    (tabulate id 0 (recRank r - 1)).any (fun d => hExt h d == 0) ||
    (t.wins0 ++ t.wins1).any (fun w => ringsMeet w h r) || decide (4 ≤ (t.wins sl).length)

/-- WOPEN (R197, R224). -/
def semWopen (x : Ctx) (op : Instr) (sl : CSlot) (hw : HReg) (e : PrmCnt) : OpRes :=
  let w := x.cap.h0
  let v := x.cap.h1
  if handleBad w false || hKind w == 2 then ill4
  else match views x.m [v] with
    | .error r => r
    | .ok rs =>
      let r := rs.getD 0 0
      let h := openHandle w v
      if ringBad x.m.t sl h r then ill4
      else if x.m.cqFull sl then stall
      else .ok fun m =>
        let o : CopyOp := { CopyOp.new x.m.t op with
          hd := h, rd := r, first := 0, count := hRrows h, ctr := ctrOf e.cnt x.cap.w1 }
        let ms := o.moves []
        let b := Nat.max (granules (srcAddrs ms)) (granules (dstAddrs ms))
        let m := enqueue sl e.prm true o (m.promiseWin sl b o ms) b m
        (m.flyH 1 hw.toNat h).onT fun t => t.setWins sl (t.wins sl ++ [⟨h, v, r, hRrows h, false⟩])

/-- The window of a queue that a handle names (R198). -/
def findWin (t : Task) (sl : CSlot) (h : Handle) : Option Win := (t.wins sl).find? fun w => sameRing w.hw h

/-- WADV (R198, R224). A presented one takes RHEAD from its handle; a re-issued one goes on from the RHEAD that the latest WADV
of its window wrote, since nothing steps its operand copy (R30). -/
def semWadv (x : Ctx) (op : Instr) (sl : CSlot) (hw : HReg) (k : BitVec 16) (e : PrmCnt) : OpRes :=
  let h := x.cap.h0
  if handleBad h false then ill4
  else match findWin x.m.t sl h with
    | none => ill4
    | some w =>
      if hRrows h < k.toNat then ill4
      else if x.m.cqFull sl then stall
      else .ok fun m =>
        let o : CopyOp := { CopyOp.new x.m.t op with
          hd := w.hw, rd := w.lrec, first := w.next, count := k.toNat, ctr := ctrOf e.cnt x.cap.w1 }
        let ms := o.moves []
        let b := Nat.max (granules (srcAddrs ms)) (granules (dstAddrs ms))
        let m := enqueue sl e.prm true o (m.promiseWin sl b o ms) b m
        let head := ((if x.fresh then hRhead h else hRhead w.hw) + k.toNat) % hRrows h
        (m.flyH 1 hw.toNat (setField h 216 16 head)).onT fun t =>
          t.setWins sl ((t.wins sl).map fun y =>
            if sameRing y.hw h then { y with next := y.next + k.toNat, hw := setField y.hw 216 16 head } else y)

/-- WCLOSE (R198, R224). -/
def semWclose (x : Ctx) (op : Instr) (sl : CSlot) (cnt : SReg) : OpRes :=
  let h := x.cap.h0
  if handleBad h false then ill4
  else match findWin x.m.t sl h with
    | none => ill4
    | some w =>
      if x.m.cqFull sl then stall
      else .ok fun m =>
        enqueue sl 0 false { CopyOp.new x.m.t op with hd := w.hw, rd := w.lrec, ctr := ctrOf cnt x.cap.w1 }
          (m.promise sl 0 [] []) 0 m

/-! ## Cache control, FIFO banks, bank modes (R225 to R227) -/

/-- CPREF and CFLUSH (R225). -/
def cacheOp (x : Ctx) (op : Instr) (sl : CSlot) (cnt : SReg) : OpRes :=
  let hs := x.cap.h1
  match views x.m [hs] with
  | .error r => r
  | .ok rs =>
    let r := rs.getD 0 0
    if x.m.cqFull sl then stall
    else .ok fun m =>
      let as := viewAddrs hs r
      enqueue sl 0 false { CopyOp.new x.m.t op with hs := hs, rs := r, ctr := ctrOf cnt x.cap.w1 }
        (m.promise sl (granules as) (viewEnd r as) (pageReps as)) (granules as) m

def semCpref (x : Ctx) (op : Instr) (sl : CSlot) (cnt : SReg) : OpRes := cacheOp x op sl cnt
def semCflush (x : Ctx) (op : Instr) (sl : CSlot) (cnt : SReg) : OpRes := cacheOp x op sl cnt

/-- The number of bank `b` of the core's cluster. -/
def Mach.bankNo (m : Mach) (b : Nat) : Nat := clusterOf m.s.cur * 16 + b

/-- The entries that FIFO bank `n` holds at most: 4,096, and as many for each bank lent to it (R95, R226). -/
def fifoRoom (s : State) (n : Nat) : Nat :=
  4096 * (1 + (tabulate id (n / 16 * 16) 12).countP fun b => (s.bank b).lent == some n)

/-- The bank of an FPUSH entry of a queue, and its rows. -/
def CopyOp.pushes (o : CopyOp) (b : Nat) : Nat :=
  match o.op with
  | .fpush _ _ _ _ bank _ => if bank.toNat = b then o.rows.length else 0
  | _ => 0

/-- The rows of accepted FPUSHes that have not entered bank `n` yet. -/
def fifoComing (s : State) (n : Nat) : Nat :=
  (tabulate id (n / 16 * 8) 8).foldl (fun acc k =>
    (((s.core k).cq0 ++ (s.core k).cq1).foldl (fun a o => a + o.pushes (n % 16)) acc)) 0

/-- A stall on FIFO bank `n` (R95). -/
def fifoStall (n : Nat) : OpRes := .hold fun m => m.onC fun c =>
  { c with fifoWait := some n, reach := some (c.reach.getD m.s.cyc) }

/-- FPUSH (R226): rows and taint are read at issue. -/
def semFpush (x : Ctx) (op : Instr) (sl : CSlot) (t : Tile) (r n1 : BitVec 6) (bank : BitVec 4) (cnt : SReg) : OpRes :=
  let no := x.m.bankNo bank.toNat
  let n := n1.toNat + 1
  if (x.m.s.bank no).mode ≠ .fifo then .trap Cause.prot (natW bank.toNat)
  else if x.m.cqFull sl then stall
  else if fifoRoom x.m.s no < (x.m.s.bank no).fifo.length + fifoComing x.m.s no + n then fifoStall no
  else .ok fun m =>
    let rows := (rowRun t.toNat r.toNat n).map x.m.t.regs.row
    enqueue sl 0 false { CopyOp.new x.m.t op with rows := rows, ctr := ctrOf cnt x.cap.w1 }
      (m.promise sl (4 * n) [] []) (4 * n) m

/-- The banks that wait to go back to the cluster's cache and may do so by now (R177, R178). -/
def State.giveBack (s : State) (no : Nat) : State := if (s.bank no).back then s.toCache no else s

/-- A bank after `n` entries have left its FIFO; when it is empty the banks lent to it return (R95). -/
def popFifo (s : State) (no n : Nat) : State :=
  let b := s.bank no
  let s := s.setBank no { b with fifo := b.fifo.drop n }
  if (b.fifo.drop n).isEmpty then
    let lent := (s.banks.filter fun e => e.2.lent == some no).map Prod.fst
    (no :: lent).foldl State.giveBack
      { s with banks := s.banks.map fun (k, x) => (k, if x.lent = some no then { x with lent := none } else x) }
  else s

/-- FPOP (R226): the rows land at issue + 8, and it completes then, or in D-mode at P (R245). It waits for the earlier operations
of its queue (R210). -/
def semFpop (x : Ctx) (op : Instr) (sl : CSlot) (t : Tile) (r n1 : BitVec 6) (bank : BitVec 4) (cnt : SReg) : OpRes :=
  let no := x.m.bankNo bank.toNat
  let n := n1.toNat + 1
  let b := x.m.s.bank no
  if b.mode ≠ .fifo then .trap Cause.prot (natW bank.toNat)
  else if !(x.m.c.cq sl).isEmpty || x.m.cqFull sl then stall
  else if b.fifo.length < n then fifoStall no
  else .ok fun m =>
    let res : List Result := (List.zipWith (fun i (c : RowCell) =>
      ⟨.row i, c.data, BitVec.allOnes 256, c.taint, c.poison, 0, 0⟩) (rowRun t.toNat r.toNat n) b.fifo)
    let m := m.onT fun t => t.pendOn ⟨.ready, res, m.s.cyc, m.s.cyc + 8, some sl, none, 0⟩
    let p := m.promise sl (4 * n) [] []
    let ctr := ctrOf cnt x.cap.w1
    if m.t.x.dm then (enqueue sl 0 false { CopyOp.new m.t op with ctr := ctr } p (4 * n) m).onS fun s => popFifo s no n
    else (m.onC fun c => c.setQprom sl p.at_).onS fun s => (popFifo s no n).sendAddAt (m.s.cyc + 7) ctr 1 m.s.cur m.t.uid 0

/-- CBANK (R227, R244). -/
def semCbank (x : Ctx) (op : Instr) (sl : CSlot) (bank : BitVec 4) : OpRes :=
  if 12 ≤ bank.toNat then ill4
  else if x.m.cqFull sl then stall
  else .ok fun m =>
    let s := Nat.max (m.s.cyc + 1) (m.c.qprom sl)
    let p : Promise := ⟨s, 0, false, if m.t.x.dm then s + 65536 else m.s.cyc + 1024⟩
    enqueue sl 0 false (CopyOp.new x.m.t op) p 0 m

end Sys2Proof.Machine
end

