-- ==== Sys2Proof/Machine/CopyRun.lean ====
section
/-! DEFINITION. The copy queues at work: starting, sending, completing, suspending and resuming an operation (R209 to
R211, R216, R217, R245, R326). -/

namespace Sys2Proof.Machine

/-! ## Reading (R209, R217) -/

/-- A value read for a move, with the address it came from. -/
structure Got where
  va    : Nat
  pa    : Nat
  val   : Nat
  taint : Bool
  bad   : Bool
  deriving DecidableEq, Repr

/-- Bytes that hold an element of `w` bits starting at bit `bit`. -/
def spanBytes (bit w : Nat) : Nat := (bit + w + 7) / 8

/-- An element read through the fork of operation `o` on core `k` (R209). -/
def readElem (s : State) (k : Nat) (o : CopyOp) (l : Loc) (w pa : Nat) : Got :=
  let n := spanBytes l.2 w
  ⟨l.1, pa, field ((s.core k).forkNat s o.id pa n) l.2 w,
    regionOf pa == .scratch && s.taintRange (pa / 64 * 64) 64, s.badRange pa n⟩

/-- The physical address that a list of translated addresses gives. -/
def physIn (m : List (Nat × Nat)) (va : Nat) : Nat :=
  match m.find? fun e => e.1 == va with
  | some e => e.2
  | none => va

/-- The indices of CGAT and CSCT (R223). -/
def readIndices (s : State) (k : Nat) (o : CopyOp) (m : List (Nat × Nat)) : List (Int × Option Got) :=
  (indexSrcs o.hx o.rx).map fun e => match e with
    | .elem l =>
      let g := readElem s k o l 32 (physIn m l.1)
      (signed 32 g.val, some g)
    | _ => (signed 32 (fillOf o.rx), none)

/-- The source values of a move: `none` for a position that is absent. -/
def moveVals (o : CopyOp) (got : Loc → Got) (mv : Move) : List (Option Nat) :=
  let fill := fillOf (match o.op with
    | .wopen .. => o.rd
    | .wadv .. => o.rd
    | .cfill .. => o.rd
    | _ => o.rs)
  mv.srcs.map fun e => match e with
    | .absent => none
    | .fill => some fill
    | .elem l => some (got l).val

/-- The value a move writes and its trouble count; `stat` is the destination burst read (R218 to R222). A CPYR's value is
its source operand. -/
def moveValue (o : CopyOp) (mv : Move) (vals : List (Option Nat)) (stat : Nat) : Nat × Nat :=
  match o.op with
  | .cpyq _ st _ _ _ _ =>
    quantBurst (recFmt o.rd) (if st then some stat else none) (vals.map fun v => v.map (decodeF (recFmt o.rs)))
  | .cpyd .. =>
    let f := recFmt o.rs
    let g := recFmt o.rd
    let v := (vals.getD 0 none).getD 0
    match mv.srcs with
    | [.fill] => (roundF g (decodeE f v), if f = 11 then ternTrouble v else 0)
    | _ =>
      if badBurst f v then (roundF g .zero, 0)
      else
        let e := burstElem f v mv.pick
        (roundF g e.1, e.2)
  | _ => (unchunks mv.sw (vals.map fun v => v.getD 0), 0)

/-- The count of distinct bursts of a CPYD that do not decode (R118). -/
def badBursts (o : CopyOp) (gs : List Got) : Nat :=
  match o.op with
  | .cpyd .. => ((gs.filter fun g => badBurst (recFmt o.rs) g.val).foldl (fun acc g => insertNat g.va acc) []).length
  | _ => 0

/-- The places of moves in position order: each move's place is the number of distinct granules before its own, at the
end `key` tells; a move without one shares the place before it (R245). -/
def placesOf (keys : List (Option Nat)) (lim : Nat) : List Nat :=
  (keys.foldl (fun (acc : List Nat × List Nat) key =>
    let seen := match key with
      | some g => if acc.1.contains g then acc.1 else acc.1 ++ [g]
      | none => acc.1
    let place := match key with
      | some g => (seen.findIdx? fun y => y == g).getD 0
      | none => seen.length - 1
    (seen, acc.2 ++ [Nat.min place (lim - 1)])) ([], [])).2

/-- The granule that places a move. -/
def placeKey (bySrc : Bool) (mv : Move) : Option Nat :=
  if bySrc then (srcAddrs [mv]).getLast?.map (· / 64) else mv.dst.map (·.1 / 64)

/-! ## Writing (R216, R217, R221) -/

/-- The value that CPYR stores over `old` (R221). -/
def cpyrNew (o : CpyrOp) (w old src : Nat) : Nat :=
  match o with
  | .f32 => roundF 1 (addF (decodeF 1 old) (decodeF 1 src))
  | .i32 => (old + src) % 2 ^ w
  | .i64 => (old + src) % 2 ^ w
  | .max =>
    let a := decodeF 1 old
    let b := decodeF 1 src
    if a.isNan || b.isNan then roundF 1 .nan else if leF a b then src else old

/-- The bytes a unit leaves at its place: whole bytes, or one byte read, modified and written (R217). -/
def unitBytes (s : State) (o : CopyOp) (u : CUnit) : List Byte :=
  if u.w % 8 = 0 then
    let v := match o.op with
      | .cpyr _ f _ _ _ _ => cpyrNew f u.w (leNat (tabulate s.seen u.pa (u.w / 8))) u.val
      | _ => u.val
    leBytes (u.w / 8) v
  else
    let old := (s.seen u.pa).toNat
    [BitVec.ofNat 8 (old - field old u.bit u.w * 2 ^ u.bit + u.val * 2 ^ u.bit)]

/-- A unit written at its home, where the issuing cluster's cache keeps no copy of its line (R209). -/
def writeUnit (k : Nat) (acc : State × CopyOp) (u : CUnit) : State × CopyOp :=
  let (s, o) := acc
  let s := s.ccEvict (clusterOf k) u.pa (spanBytes u.bit u.w)
  let bs := unitBytes s o u
  let s := s.engineWrite (clusterOf k) o.lid u.pa bs
  let ids := ((s.core k).cq0 ++ (s.core k).cq1).map CopyOp.id
  let c := s.core k
  let forks := c.forks.map fun f =>
    if ids.contains f.id then { f with hide := (tabulate id u.pa bs.length).foldl SMap.del f.hide } else f
  (s.setCore k { c with forks := forks },
   { o with wrote := ((tabulate id 0 bs.length).zip bs).foldl (fun w (i, b) => SMap.put w (u.va + i) b) o.wrote })

/-- The bits that a unit writes. -/
def CUnit.run (u : CUnit) : Nat × Nat := (8 * u.pa + u.bit, u.w)

/-- The taint that an operation leaves in scratchpad granule `g`: that of what was read for it, and its own old taint
where it is partly written or itself read (R217). -/
def granuleTaint (s : State) (o : CopyOp) (g : Nat) : Bool :=
  let us := o.units.filter fun u => u.pa / 64 == g
  let whole := (tabulate id (64 * g) 64).all (coversByte (us.map CUnit.run))
  let reads := match o.op with
    | .cpyr .. => true
    | _ => false
  let zero := match o.op with
    | .cfill .. => true
    | .wopen .. => true
    | .wadv .. => true
    | _ => false
  if zero then false
  else o.te && (us.any CUnit.taint || ((reads || !whole) && SMap.get false s.gtaint g))

/-- Units written: the errors of the words that they replace whole go (R340), then the scratchpad granules they touch take their
taint. -/
def writeUnits (k : Nat) (s : State) (o : CopyOp) (us : List CUnit) : State × CopyOp :=
  let (s', o') := us.foldl (writeUnit k) (s, o)
  let s' := s'.mendRuns (us.map CUnit.run)
  let gs := (us.filter fun u => regionOf u.pa == .scratch).foldl (fun acc u => insertNat (u.pa / 64) acc) []
  ({ s' with gtaint := gs.foldl (fun t g => SMap.set false t g (granuleTaint s o g)) s'.gtaint }, o')

/-! ## The copy-range table (R211) -/

/-- The copies of core `k`'s cluster that have started, a suspended one too, but those of the same queue and those CPYR operations exempt
towards `o` (R210, R211, R221). -/
def runningCopies (s : State) (k : Nat) (sl : CSlot) (o : CopyOp) : List CopyOp :=
  let exempt (y : CopyOp) : Bool := match o.op, y.op with
    | .cpyr _ a _ _ _ _, .cpyr _ b _ _ _ _ => a == b
    | _, _ => false
  ((tabulate id (k / 8 * 8) 8).flatMap fun j =>
    [CSlot.c0, CSlot.c1].flatMap fun z =>
      if j = k ∧ z = sl then [] else ((s.core j).cq z).filter fun y => y.stage != .queued && !exempt y)

/-- Whether a unit meets a range of bytes. -/
def CUnit.meets (u : CUnit) (r : Nat × Nat) : Bool :=
  decide (u.pa < r.1 + r.2) && decide (r.1 < u.pa + spanBytes u.bit u.w)

/-- The first address of a unit that meets one of a list of ranges. -/
def CUnit.meetAt (u : CUnit) (rs : List (Nat × Nat)) : Option Nat :=
  (rs.filter u.meets).foldl (fun a r =>
    let x := u.va + (Nat.max u.pa r.1 - u.pa)
    some (match a with
      | some y => Nat.min x y
      | none => x)) none

/-- The first overlapping address: in position order, of the destination of an unordered copy that has started (R211). -/
def overlapAt (ys : List CopyOp) (us : List CUnit) : Option Nat :=
  us.findSome? fun u => u.meetAt (ys.flatMap CopyOp.dst)

/-! ## Starting (R174, R216, R217) -/

/-- The queue without its oldest operation, whose fork is gone. -/
def popCopy (s : State) (k : Nat) (sl : CSlot) : State :=
  let c := s.core k
  match c.cq sl with
  | o :: q => s.setCore k ((c.setCq sl q).joined o.id)
  | [] => s

/-- The oldest operation of a queue replaced. -/
def setHead (s : State) (k : Nat) (sl : CSlot) (o : CopyOp) : State :=
  let c := s.core k
  s.setCore k (c.setCq sl (o :: (c.cq sl).drop 1))

/-- An operation that ends in a fault: bytes written stay, no counter addition is made, the fault goes to its core
(R216, R324), and the window of a fetch is marked (R224). -/
def failCopy (s : State) (k : Nat) (sl : CSlot) (o : CopyOp) (cause : Nat) (info : Word) : State :=
  let mark := match o.op with
    | .wopen .. => true
    | .wadv .. => true
    | _ => false
  let s := (popCopy s k sl).fold o.uid (wroteDigest o.wrote)
  let s := if mark then s.onUid o.uid fun t =>
      t.setWins sl ((t.wins sl).map fun w => if sameRing w.hw o.hd then { w with bad := true } else w) else s
  s.report k o.uid cause info

/-- The physical ranges of the destination of moves, as far as it translates. -/
def knownDst (s : State) (k : Nat) (o : CopyOp) (ms : List Move) : List (Nat × Nat) :=
  ms.filterMap fun mv => mv.dst.bind fun l => match engXlat s k o.ptb false true none l.1 with
    | .ok pa => some (pa, spanBytes l.2 mv.dw)
    | .error _ => none

/-- An operation that meets a failing access: a page that is absent suspends it where some mapping of its launch covers the
address, and ends it elsewhere (R216, R326). A suspended one has started: its destination stands in the copy-range table. -/
def stopCopy (s : State) (k : Nat) (sl : CSlot) (o : CopyOp) (ms : List Move) : EFault → State
  | .page va => if covers o.lid va then setHead s k sl { o with stage := .suspended va, dst := knownDst s k o ms }
      else failCopy s k sl o Cause.pageFault (natW va)
  | .fault c i => failCopy s k sl o c i

/-- The physical addresses of a view's positions that caches hold, read as a user; pages without a translation, and spaces that no
cache holds, are skipped (R172, R225). -/
def cachePas (s : State) (k : Nat) (o : CopyOp) : Except EFault (List Nat) :=
  (viewAddrs o.hs o.rs).foldr (fun va rest =>
    match if 2 ^ 57 ≤ va then none else walk s o.ptb va with
    | none => rest
    | some e =>
      let pa := canon (clusterOf k) s.devnum (e.phys va)
      if !cacheable pa then rest
      else if !e.rd || !e.us then .error (.fault Cause.prot (natW va))
      else rest.map fun pas => pa :: pas) (.ok [])

/-- CFLUSH's lines written back and dropped from the core's L1 and its cluster's cache (R225). -/
def flushLines (s : State) (k : Nat) (pas : List Nat) : State :=
  let f (line : Nat) : Bool := pas.any fun pa => pa / 64 == line
  (s.leaveL1 f k).ccDrop (clusterOf k) fun x => f x.line

/-- CPREF's lines brought into the cluster's cache (R225). -/
def prefLines (s : State) (k : Nat) (pas : List Nat) : State := pas.foldl (fun s pa => s.ccFill (clusterOf k) (pa / 64)) s

/-- A free value of the device used. -/
def State.takeFresh (s : State) : Nat × State := (s.fresh, { s with fresh := s.fresh + 1 })

/-- Whether a copy may complete after its promise: a stack that its running launch's promises do not count has been lost, and it
touches a chunk of it (R358). -/
def CopyOp.late (s : State) (o : CopyOp) : Bool :=
  o.dm && !s.hbm.lost.isEmpty && !countsLoss s o.lid && o.chunks.any fun c => s.hbm.lost.contains (stackOf c)

/-- An operation that has started: in F-mode it completes after a free time (log 10), in D-mode at P or as soon after
as its work allows (R243, R245). -/
def runCopy (s : State) (k : Nat) (sl : CSlot) (o : CopyOp) : State :=
  let (n, s) := s.takeFresh
  let due := if o.dm then Nat.max o.due s.cyc + (if o.late s then Config.engineExtra n else 0) else s.cyc + Config.engineExtra n
  let s := s.setCore k ((s.core k).joined o.id)
  setHead s k sl { o with stage := .running, due := due, send := s.cyc }

/-- A cache operation started: its positions count as a source (R225, R303). -/
def runCache (s : State) (k : Nat) (sl : CSlot) (o : CopyOp) (act : State → Nat → List Nat → State) : State :=
  match cachePas s k o with
  | .error e => stopCopy s k sl o [] e
  | .ok pas =>
    let s := s.record k o.uid false (pas.map fun pa => (pa, 1))
    runCopy (act s k pas) k sl { o with chunks := pas.map chunkOf }

/-- Whether an operation reads its destination (R220, R221). -/
def CopyOp.readsDst (o : CopyOp) : Bool :=
  match o.op with
  | .cpyq _ st _ _ _ _ => st
  | .cpyr .. => true
  | _ => false

/-- Whether an operation's rows are chosen by indices (R223). -/
def CopyOp.indexed (o : CopyOp) : Bool :=
  match o.op with
  | .cgat .. => true
  | .csct .. => true
  | _ => false

/-- The moves of an indexed operation whose indices cannot be read yet: those of a CSCT have no known destination. -/
def CopyOp.blindMoves (o : CopyOp) : List Move :=
  match o.op with
  | .cgat .. => o.moves (List.replicate (hExt o.hx 0) 0)
  | _ => []

/-- A data-moving operation started (R174, R184, R209, R211, R216, R217, R223). -/
def startMoves (s : State) (k : Nat) (sl : CSlot) (o : CopyOp) : State :=
  let ixv := if o.indexed then (indexSrcs o.hx o.rx).filterMap fun e => match e with
    | .elem l => some l.1
    | _ => none else []
  match engXlats s k o.ptb true false ixv with
  | .error e => stopCopy s k sl o o.blindMoves e
  | .ok ixp =>
    let idx := if o.indexed then readIndices s k o (ixv.zip ixp) else []
    let ms := o.moves (idx.map Prod.fst)
    let sv := srcAddrs ms
    let dv := dstAddrs ms
    match engXlats s k o.ptb true false sv, engXlats s k o.ptb o.readsDst true dv with
    | .error e, _ => stopCopy s k sl o ms e
    | _, .error e => stopCopy s k sl o ms e
    | .ok sp, .ok dp =>
      let s := (ixp ++ sp ++ if o.readsDst then dp else []).foldl (fun s pa => s.heal pa 1) s
      let smap := (ixv.zip ixp) ++ sv.zip sp
      let dmap := dv.zip dp
      let get (mv : Move) (l : Loc) : Got := readElem s k o l mv.sw (physIn (sv.zip sp) l.1)
      let gots := idx.filterMap Prod.snd ++ ms.flatMap fun mv => mv.srcs.filterMap fun e => match e with
        | .elem l => some (get mv l)
        | _ => none
      let dgot (mv : Move) : Option Got :=
        if o.readsDst then mv.dst.map fun l => readElem s k o l mv.dw (physIn dmap l.1) else none
      if o.dm && o.te && dp.any (fun pa => regionOf pa != .scratch) && gots.any Got.taint then
        failCopy s k sl o Cause.detTaint (natW ((gots.find? Got.taint).elim 0 Got.va))
      else match (gots ++ ms.filterMap dgot).find? Got.bad with
        | some g => failCopy s k sl o Cause.eccUncorr (natW g.va)
        | none =>
          let bySrc := !o.indexed && decide (granules dv < granules sv)
          let places := placesOf (ms.map (placeKey bySrc)) o.places
          let per := effExt o.hd o.rd 0
          let rows := ((tabulate id 0 ms.length).zip (ms.zip places)).map fun (n, mv, pl) =>
            let old := dgot mv
            let (v, n') := moveValue o mv (moveVals o (get mv) mv) ((old.map Got.val).getD 0)
            let taint := (srcAddrs [mv]).any (fun va => (get mv (va, 0)).taint) ||
              ((idx[n / per]?.bind Prod.snd).any Got.taint) || old.any Got.taint
            (mv.dst.map fun l => (⟨pl, l.1, physIn dmap l.1, l.2, mv.dw, v, taint⟩ : CUnit), n')
          let us := rows.filterMap Prod.fst
          match overlapAt (runningCopies s k sl o) us with
          | some a => failCopy s k sl o Cause.copyOverlap (natW a)
          | none =>
            let s := s.countDiscard (clusterOf k) o.lid (ms.foldl (fun a mv => a + mv.lost) 0)
            let s := (s.record k o.uid false (smap.map fun e => (e.2, 1))).record k o.uid true
              (us.map fun u => (u.pa, spanBytes u.bit u.w))
            let chunks := ((ixp ++ sp ++ dp).filter fun pa => regionOf pa == .hbm).foldl (fun l pa => insertNat (chunkOf pa) l) []
            runCopy s k sl { o with
              units := us, dst := us.map fun u => (u.pa, spanBytes u.bit u.w), chunks := chunks
              trouble := rows.foldl (fun a r => a + r.2) (badBursts o gots) }

/-- CBANK at its start: a bank that another running launch claims is not changed (R178, R227). -/
def startBank (s : State) (k : Nat) (sl : CSlot) (o : CopyOp) (bank : Nat) : State :=
  let b := s.bank (clusterOf k * 16 + bank)
  let taken := match b.claim with
    | some l => l != o.lid && (match SMap.find s.launches l with
      | some x => x.live
      | none => false)
    | none => false
  if taken then failCopy s k sl o Cause.illOperand (illInfo 4)
  else
    let (n, s) := s.takeFresh
    let due := if o.dm then Nat.max o.due s.cyc else s.cyc + Config.holdCycles n % 65537
    setHead s k sl { o with stage := .running, due := due }

/-- The oldest operation of a queue started. -/
def startCopy (s : State) (k : Nat) (sl : CSlot) (o : CopyOp) : State :=
  match o.op with
  | .cbank _ bank _ => startBank s k sl o bank.toNat
  | .cflush .. => runCache s k sl o flushLines
  | .cpref .. => runCache s k sl o prefLines
  | .wclose .. => runCopy s k sl o
  | .fpush .. => runCopy s k sl o
  | .fpop .. => runCopy s k sl o
  | _ => startMoves s k sl o

/-- Whether the oldest operation of a queue may start in this cycle: an FPOP of the queue that came before it has landed (R92,
R210, R227, R244). -/
def mayStart (s : State) (k : Nat) (sl : CSlot) (o : CopyOp) : Bool :=
  o.stage == .queued && !(o.held && heldPhase s o.lid) && (s.core k).fpops sl == 0 &&
    decide (if o.dm then o.begin ≤ s.cyc else o.issue < s.cyc) &&
    (match o.op with
     | .cbank _ bank _ => (s.bank (clusterOf k * 16 + bank.toNat)).lent.isNone
     | _ => true)

/-- S and P of a copy that R92 held, once its exchange phase has begun (R245): its granules go out from now on. -/
def released (s : State) (k : Nat) (sl : CSlot) (o : CopyOp) : CopyOp :=
  if o.held then
    let p := if o.slots then ownedCycle (launchStartCyc s o.lid) (queueIx k sl) s.cyc (ceilDiv o.places 16) + o.lp
      else s.cyc + o.lp
    { o with begin := s.cyc, due := p, held := false }
  else o

/-- COPY_OP_START: the oldest operation of the queue starts; `none` where none may. -/
def copyStart (s : State) (k : Nat) (sl : CSlot) : Option State :=
  match (s.core k).cq sl with
  | o :: _ => if mayStart s k sl o then some (startCopy s k sl (released s k sl o)) else none
  | [] => none

/-! ## Slots (R245) -/

/-- Whether the oldest operation of a queue sends granules in this cycle (R245). -/
def maySend (s : State) (k : Nat) (sl : CSlot) (o : CopyOp) : Bool :=
  o.stage == .running && o.dm && o.slots && decide (o.sent < o.places) && decide (o.send ≤ s.cyc) &&
    owns (launchStartCyc s o.lid) (queueIx k sl) s.cyc

/-- What stops a unit as it reaches its destination: a bank that changed its mode, which is checked against the new mode (R179), or
a peer with no port up (R360). -/
def unitFault (s : State) (k : Nat) (u : CUnit) : Option (Nat × Word) :=
  if !s.bankOk k u.pa || s.hostOff u.pa then some (Cause.prot, natW u.va)
  else if regionOf u.pa = .peer ∧ peerPort s u.pa = none then some (Cause.linkDown, natW (peerPort0 u.pa))
  else none

/-- Units written up to the first that is stopped, which ends the operation. -/
def sendUnits (s : State) (k : Nat) (sl : CSlot) (o : CopyOp) (us : List CUnit) : Except State (State × CopyOp) :=
  match us.findSome? (unitFault s k) with
  | none => .ok (writeUnits k s o us)
  | some (c, info) =>
    let (s, o) := writeUnits k s o (us.takeWhile fun u => (unitFault s k u).isNone)
    .error (failCopy s k sl o c info)

/-- NOC_SLOT_SEND: up to 16 granules of the operation go out; the last fixes the completion at Lp after it. -/
def slotSend (s : State) (k : Nat) (sl : CSlot) : Option State :=
  match (s.core k).cq sl with
  | o :: _ =>
    if maySend s k sl o then
      match sendUnits s k sl o (o.units.filter fun u => decide (o.sent ≤ u.place) && decide (u.place < o.sent + 16)) with
      | .error s => some s
      | .ok (s, o) =>
        let sent := o.sent + 16
        let due := if o.places ≤ sent then Nat.max o.due (s.cyc + o.lp) else o.due
        some (setHead s k sl { o with sent := sent, send := s.cyc + 1, due := due })
    else none
  | [] => none

/-! ## Completing (R216, R224, R226, R227) -/

/-- Bank `no` set to a mode by a CBANK of launch `lid` (R177, R178). -/
def changeBank (s : State) (no lid : Nat) (mode : BankMode) : State :=
  let claim := if mode = .cache then none else some lid
  if (s.bank no).mode = mode then s.setBank no { s.bank no with claim := claim, back := false } else s.setMode no claim mode

/-- Whether the oldest operation of a queue may complete in this cycle: an FPUSH enters its rows after those that its core
pushed to the bank before, from either queue (R206; it waits for them even past its P, DESIGN CHOICE, log 68). -/
def mayComplete (s : State) (k : Nat) (o : CopyOp) : Bool :=
  o.stage == .running && decide (o.due ≤ s.cyc) && (!(o.dm && o.slots) || decide (o.places ≤ o.sent)) &&
    (match o.op with
     | .cbank _ bank mode =>
       let b := s.bank (clusterOf k * 16 + bank.toNat)
       b.mode == mode || b.mode != .fifo || b.fifo.isEmpty
     | .fpush _ _ _ _ bank _ => !(((s.core k).cq0 ++ (s.core k).cq1).any fun y => decide (y.id < o.id) && y.pushes bank.toNat != 0)
     | _ => true)

/-- What completion does beside writing: window closed, rows entered, bank changed; and whether the counter addition is
made (R224, R226, R227). -/
def finishKind (s : State) (k : Nat) (sl : CSlot) (o : CopyOp) : State × Bool :=
  match o.op with
  | .wclose .. =>
    let bad := match s.findUid o.uid with
      | some t => (t.wins sl).any fun w => sameRing w.hw o.hd && w.bad
      | none => false
    (s.onUid o.uid fun t => t.setWins sl ((t.wins sl).filter fun w => !sameRing w.hw o.hd), !bad)
  | .fpush _ _ _ _ bank _ =>
    let no := clusterOf k * 16 + bank.toNat
    let b := s.bank no
    (s.setBank no { b with fifo := b.fifo ++ o.rows }, true)
  | .cbank _ bank mode => (changeBank s (clusterOf k * 16 + bank.toNat) o.lid mode, true)
  | _ => (s, true)

/-- COPY_OP_COMPLETE: the writes not yet sent perform, the digest and X.QTROUB are raised, and the counter takes its
addition (R121, R216, R334). -/
def copyComplete (s : State) (k : Nat) (sl : CSlot) : Option State :=
  match (s.core k).cq sl with
  | o :: _ =>
    if mayComplete s k o then
      match sendUnits s k sl o (if o.dm && o.slots then [] else o.units) with
      | .error s => some s
      | .ok (s, o) =>
        let (s, add) := finishKind s k sl o
        let s := popCopy s k sl
        let s := if o.trouble = 0 then s else s.onUid o.uid fun t =>
          t.fly ⟨.trouble, BitVec.ofNat 2048 o.trouble, 0, false, none, s.cyc + 1, 0⟩
        let s := s.fold o.uid (wroteDigest o.wrote)
        some (if add then s.sendDone o.ctr 1 k o.uid else s)
    else none
  | [] => none

/-- COPY_PAGE_RESUME: a suspended operation whose page now translates starts anew (R216, R326). -/
def copyResume (s : State) (k : Nat) (sl : CSlot) : Option State :=
  match (s.core k).cq sl with
  | o :: _ =>
    match o.stage with
    | .suspended va =>
      if (walk s o.ptb va).isSome then some (startCopy s k sl { o with stage := .queued }) else none
    | _ => none
  | [] => none

/-- A suspended operation whose page lies outside every mapping of its launch ends in PAGE_FAULT (R216, R326). -/
def copyUnmapped (s : State) (k va : Nat) : Option State :=
  [CSlot.c0, CSlot.c1].findSome? fun sl =>
    match (s.core k).cq sl with
    | o :: _ => if o.stage = .suspended va then some (failCopy s k sl o Cause.pageFault (natW va)) else none
    | [] => none

end Sys2Proof.Machine
end

