-- ==== Sys2Proof/Machine/Matrix.lean ====
section
/-! DEFINITION. The matrix array and the M-slot meanings (R102 to R107, R124 to R126, R150 to R157). -/

namespace Sys2Proof.Machine

/-! ## Variants (R102) -/

/-- What a variant fixes: formats of A, B and C, depth, bytes of a row per step, steps per tile. -/
structure VarSpec where
  fa  : Fmt
  fb  : Fmt
  fc  : Fmt
  k   : Nat
  ba  : Nat
  bb  : Nat
  kpa : Nat
  kpb : Nat
  deriving DecidableEq, Repr

/-- The table of R102. -/
def MVar.spec : MVar → VarSpec
  | .bf16 => ⟨2, 2, 1, 64, 128, 128, 2, 2⟩
  | .fp16 => ⟨3, 3, 1, 64, 128, 128, 2, 2⟩
  | .fp8a => ⟨4, 4, 1, 128, 128, 128, 2, 2⟩
  | .fp8b => ⟨5, 5, 1, 128, 128, 128, 2, 2⟩
  | .fp4 => ⟨6, 6, 1, 256, 128, 128, 2, 2⟩
  | .int8 => ⟨9, 9, 7, 128, 128, 128, 2, 2⟩
  | .tern => ⟨11, 9, 7, 256, 64, 256, 4, 1⟩

/-! ## Rows a step or an M operation waits for -/

/-- Whether a row is pending (R36). -/
def Task.rowPending (t : Task) (i : Nat) : Bool := t.pendDests.any fun d => d == .row i

/-- Whether any row 0 to `n` of tile `k` is pending. -/
def Task.rowsPending (t : Task) (k n : Nat) : Bool :=
  !t.pend.isEmpty && (rowRun k 0 (n + 1)).any t.rowPending

/-- The poison of the first poisoned row among rows 0 to `n` of tile `k` (R131). -/
def Regs.poisonIn (r : Regs) (k n : Nat) : Option Nat := (rowRun k 0 (n + 1)).findSome? fun i => (r.row i).poison

/-- Whether `n` bytes from `a` on lie in the own-cluster scratchpad, through either view (R168). -/
def ownScratch (m : Mach) (a n : Nat) : Bool :=
  let ok (b : Nat) : Bool :=
    let c := canon (clusterOf m.s.cur) m.s.devnum b
    regionOf c == .scratch && (c - 0x7F0000000000) / 2 ^ 24 == clusterOf m.s.cur
  ok a && ok (a + n - 1)

/-! ## MCFG and MSTEP (R103 to R106, R151 to R153) -/

/-- MCFG (R103, R151). -/
def semMcfg (x : Ctx) : OpRes :=
  let v := x.cap.w0.toNat
  if v / 2 ^ 14 ≠ 0 ∨ field v 10 4 = 0 then ill4
  else if !x.m.c.steps.isEmpty then stall
  else .ok fun m => m.onT fun t =>
    { t with mat := { t.mat with cfg := v, ik := 0, inn := 0, im := 0 }.recount }

/-- What a LIVE step resolves (R105). -/
structure Resolve where
  a    : Nat
  b    : Nat
  c    : Nat
  ablk : Nat
  bblk : Nat
  quarters : Nat
  zeroC : Bool
  deriving DecidableEq, Repr

/-- The operands of the next step (R105). -/
def MatLoop.resolve (l : MatLoop) (v : VarSpec) (tc ta tb : Nat) : Resolve :=
  let ka := ceilDiv l.mlk v.kpa
  let kb := ceilDiv l.mlk v.kpb
  { a := ta + (l.im * ka + l.ik / v.kpa) % (field l.cfg 0 3 + 1)
    b := tb + (l.inn * kb + l.ik / v.kpb) % (field l.cfg 3 3 + 1)
    c := tc + (l.im * l.mln + l.inn) % (field l.cfg 6 3 + 1)
    ablk := l.ik % v.kpa
    bblk := l.ik % v.kpb
    quarters := if bitAt l.msp 1 then field l.cfg 10 4 else 15
    zeroC := bitAt l.msp 0 && bitAt l.cfg 9 }

/-- The loop state advanced by one step (R105): indices by the counts read at issue, X.MSP by the counts of `now`. A MOVXW of the
step's own bundle is made last, so that its counts take part and the bits it gives X.MSP stand (DESIGN CHOICE, log 63). An index has
no width: one that a MOVXW leaves past its count goes on without bound (DESIGN CHOICE, log 73). -/
def MatLoop.advance (l now : MatLoop) : MatLoop :=
  let wrapK := l.ik + 1 = l.mlk
  let wrapN := wrapK ∧ l.inn + 1 = l.mln
  let l' := { now with
    ik := if wrapK then 0 else l.ik + 1
    inn := if wrapN then 0 else if wrapK then l.inn + 1 else l.inn
    im := if wrapN then l.im + 1 else l.im }
  { l' with msp := l'.predicates (l'.ik == 0) }

/-- Whether position `i` of a step of depth `k` lies in an enabled quarter (R105). -/
def quarterOn (quarters k i : Nat) : Bool := bitAt quarters (4 * i / k)

/-- Scale blocks of a step of depth `k` whose bytes it needs: those that meet an enabled quarter (R153). -/
def scaleBlocks (quarters k : Nat) : List Nat :=
  (tabulate id 0 (k / 32)).filter fun j => (tabulate id (32 * j) 32).any (quarterOn quarters k)

/-- Where a row's scale bytes for this step begin: A rows `m` of block im, or B rows `n` of block in (R153). -/
def scaleRow (base kq first block row q0 : Nat) : Nat := base + first * kq + (block * 64 + row) * kq + q0

/-- The addresses of the scale bytes a step reads: A's rows, then B's. -/
def scaleAddrs (l : MatLoop) (v : VarSpec) (base quarters rowsA rowsB : Nat) : List Nat × List Nat :=
  let kq := ceilDiv (l.mlk * v.k) 32
  let q0 := l.ik * v.k / 32
  let js := scaleBlocks quarters v.k
  ((tabulate id 0 (rowsA + 1)).flatMap fun m => js.map fun j => scaleRow base kq 0 l.im m q0 + j,
   (tabulate id 0 (rowsB + 1)).flatMap fun n => js.map fun j => scaleRow base kq (l.mlm * 64) l.inn n q0 + j)

/-- MSTEP (R105, R106, R152): without LIVE nothing happens. -/
def semMstep (x : Ctx) (var : MVar) (tc ta tb : Tile) : OpRes :=
  let t := x.m.t
  let l := t.mat
  let v := MVar.spec var
  if !bitAt l.msp 2 then .ok id
  else
    let r := l.resolve v tc.toNat ta.toNat tb.toNat
    let lim := Nat.min 24 t.budget.t
    if lim ≤ r.c ∨ lim ≤ r.a ∨ lim ≤ r.b then .trap Cause.illOperand (illInfo 2)
    else if r.c = r.a ∨ r.c = r.b then ill4
    else
      let rowsA := shapeRows (t.regs.shape r.a) - 1
      let rowsB := shapeRows (t.regs.shape r.b) - 1
      let scaled := t.bind.scaled && Fmt.isFloat v.fa && r.quarters != 0
      let ads := if scaled then scaleAddrs l v t.bind.sbase r.quarters rowsA rowsB else ([], [])
      let all := ads.1 ++ ads.2
      if x.m.c.opBusy r.a || x.m.c.opBusy r.b || x.m.c.opBusy r.c || t.rowsPending r.a 63 ||
          t.rowsPending r.b 63 || t.rowsPending r.c 63 then stall
      else if all.any fun a => !ownScratch x.m a 1 then ill4
      else if shapeFmt (t.regs.shape r.c) ≠ v.fc.toNat then .trap Cause.tileShape (natW r.c)
      else if shapeFmt (t.regs.shape r.a) ≠ v.fa.toNat then .trap Cause.tileShape (natW r.a)
      else if shapeFmt (t.regs.shape r.b) ≠ v.fb.toNat then .trap Cause.tileShape (natW r.b)
      else match t.regs.poisonIn r.c 63 <|> t.regs.poisonIn r.a 63 <|> t.regs.poisonIn r.b 63 with
        | some p => .trap Cause.eccUncorr (natW p)
        | none =>
          match tableStop x.m all with
          | some r => r
          | none =>
            if 2 ≤ x.m.c.steps.countP (fun q => q.start.isNone) then stall
            else
              let now : Act := fun m => if scaled then (m.answerIf fun _ => true).tableRead all 1 else m
              let bytes := fun as => as.map fun a => (now x.m).loadNat (x.m.tablePa a) 1
              let step : MStepRec :=
                { uid := t.uid, var := var, c := r.c, a := r.a, b := r.b, ablk := r.ablk, bblk := r.bblk
                  rowsA := rowsA, rowsB := rowsB, quarters := r.quarters, zeroC := r.zeroC, kpos := l.ik
                  bind := { t.bind with scaled := scaled }, ascale := bytes ads.1, bscale := bytes ads.2, te := t.x.te
                  issue := x.m.s.cyc, start := none, ra := [], rb := [], taint := false }
              .ok fun m => ((now m).onC fun c => { c with steps := c.steps ++ [step] }).onT fun t =>
                { t with mat := l.advance t.mat }

/-! ## What the array does with a step (R106, R124, R125) -/

/-- The cycle at which a queued step starts (R106). -/
def stepStart (c : Core) (st : MStepRec) : Nat := Nat.max (st.issue + 1) c.arrayFree

/-- Whether a tile's row is tainted, for any of its rows. -/
def Regs.tileTaint (r : Regs) (k : Nat) : Bool := (rowRun k 0 64).any fun i => (r.row i).taint

/-- A step that starts: it reads A and B and holds the array for 32 cycles (R106, R152). -/
def MStepRec.begun (st : MStepRec) (r : Regs) (cyc : Nat) : MStepRec :=
  { st with
    start := some cyc
    ra := (rowRun st.a 0 (st.rowsA + 1)).map fun i => (r.row i).data
    rb := (rowRun st.b 0 (st.rowsB + 1)).map fun i => (r.row i).data
    taint := r.tileTaint st.a || r.tileTaint st.b }

/-- The first queued step begun at the present cycle. -/
def beginStep (cyc : Nat) (r : Regs) : List MStepRec → List MStepRec
  | [] => []
  | st :: rest => if st.start.isNone then st.begun r cyc :: rest else st :: beginStep cyc r rest

/-- The elements of a row that a step uses: block `blk` of `bytes` bytes. -/
def stepElems (f : Fmt) (r : Row) (blk bytes k : Nat) : List Nat :=
  chunks f.bits (field r.toNat (blk * bytes * 8) (bytes * 8)) k

/-- A's columns as the duplication map gives them (R107): `base` is the first k position of the step. -/
def dupFetch (map : List (Nat × Nat)) (base : Nat) (xs : List Nat) : List Nat :=
  if map.isEmpty then xs else
  tabulate (fun i =>
    match map.find? fun e => e.2 == base + i with
    | some (s, _) => xs.getD (s - base) 0
    | none => xs.getD i 0) 0 xs.length

/-- An operand element of a floating-point step: a subnormal encoding is flushed before its scale (R124). The E4M3
codes 0x7F and 0xFF are NaN here too, as R109's table has them (DEDUCED, log 65). -/
def stepVal (f : Fmt) (raw : Nat) : FVal :=
  let k := fspec f
  if field raw k.m k.e = 0 then .fin (bitAt raw (k.e + k.m)) 0 0 else decodeF f raw

/-- The scaled values of a row's enabled positions; `sc` holds the row's scale bytes of the needed blocks (R124,
R153). -/
def stepVals (f : Fmt) (quarters k sfmt : Nat) (js sc : List Nat) (xs : List Nat) : List FVal :=
  ((tabulate id 0 k).zip xs).filterMap fun (i, raw) =>
    if !quarterOn quarters k i then none
    else
      let v := stepVal f raw
      match (js.zip sc).find? fun e => e.1 == i / 32 with
      | some (_, b) => some (mulF v (decodeScale sfmt b))
      | none => some v

/-- The integer values of a row's enabled positions. -/
def stepInts (f : Fmt) (quarters k : Nat) (xs : List Nat) : List Int :=
  ((tabulate id 0 k).zip xs).filterMap fun (i, raw) => if quarterOn quarters k i then some (decodeI f raw) else none

/-- The code-10 count of A's fetched elements (R112). -/
def stepTrouble (quarters k : Nat) (xs : List Nat) : Nat :=
  ((tabulate id 0 k).zip xs).foldl (fun n (i, raw) => if quarterOn quarters k i then n + ternTrouble raw else n) 0

/-- One C element of a floating-point step (R124). -/
def floatPos (av bv : List FVal) (old : FVal) : Nat := roundF 1 (matSum (List.zipWith mulF av bv) old)

/-- One C element of an integer step (R125). -/
def intPos (av bv : List Int) (old : Int) : Nat :=
  saturate 7 ((List.zipWith (fun a b => a * b) av bv).foldl (fun a b => a + b) old)

/-- Row `m` of C after a step, and the trouble count of A's row (R102, R124, R125, R152). -/
def stepRow (st : MStepRec) (m : Nat) (old : RowCell) : RowCell × Nat :=
  let v := MVar.spec st.var
  let js := scaleBlocks st.quarters v.k
  let n := if st.bind.scaled then js.length else 0
  let xa := dupFetch st.bind.map (st.kpos * v.k) (stepElems v.fa (st.ra.getD m 0) st.ablk v.ba v.k)
  let olds := unpackRow v.fc old.data
  let row (k : Nat) : List Nat := stepElems v.fb (st.rb.getD k 0) st.bblk v.bb v.k
  let out :=
    if Fmt.isFloat v.fa then
      let av := stepVals v.fa st.quarters v.k st.bind.sfmt js ((st.ascale.drop (m * n)).take n) xa
      tabulate (fun k =>
        if st.rowsB < k then olds.getD k 0
        else floatPos av (stepVals v.fb st.quarters v.k st.bind.sfmt js ((st.bscale.drop (k * n)).take n) (row k))
          (if st.zeroC then .zero else decodeF 1 (olds.getD k 0))) 0 64
    else
      let av := stepInts v.fa st.quarters v.k xa
      tabulate (fun k =>
        if st.rowsB < k then olds.getD k 0
        else intPos av (stepInts v.fb st.quarters v.k (row k)) (if st.zeroC then 0 else decodeI 7 (olds.getD k 0))) 0 64
  (⟨packRow v.fc out, st.te && (st.taint || (!st.zeroC && old.taint)), if st.rowsB = 63 then none else old.poison⟩,
   if st.var = .tern then stepTrouble st.quarters v.k xa else 0)

/-- C written by a step, rows `m` on, `n` of them (R106). -/
def stepWrite (st : MStepRec) (m : Nat) : Nat → Task → Task
  | 0, t => t
  | n + 1, t =>
    let i := rowIx st.c m
    let (cell, k) := stepRow st m (t.regs.row i)
    stepWrite st (m + 1) n { t.writeRow i cell (st.rowsB == 63) with x := { t.x with qtroub := addTrouble t.x.qtroub k } }

/-! ## MZERO, MFIN and MTRN (R154 to R156) -/

/-- Whether an operation of a kind is outstanding (R242). -/
def Core.mopFull (c : Core) (kind : Nat) : Bool := c.mops.any fun o => o.kind == kind

/-- An M operation put in flight. -/
def mopAct (kind : Nat) (tiles : List Nat) (rows : List (Nat × RowCell)) (trouble lat : Nat) : Act := fun m =>
  (m.onT fun t => { t with seq := t.seq + 1 }).onC fun c => { c with mops := c.mops ++ [⟨m.t.uid, kind, tiles, rows, trouble, m.s.cyc + lat, m.t.seq⟩] }

/-- MZERO (R154). -/
def semMzero (x : Ctx) (tc : Tile) : OpRes :=
  if x.m.c.mopFull 0 then stall
  else .ok (mopAct 0 [tc.toNat] ((rowRun tc.toNat 0 64).map fun i => (i, RowCell.zero)) 0 4)

/-- MFIN (R155). -/
def semMfin (x : Ctx) (f : Fmt) (td tc : Tile) : OpRes :=
  let r := x.m.t.regs
  let sh := r.shape tc.toNat
  let n := shapeRows sh
  let src : Fmt := BitVec.ofNat 4 (shapeFmt sh)
  if src ≠ 1 ∧ src ≠ 7 then .trap Cause.tileShape (natW tc.toNat)
  else if x.m.c.mopFull 1 || x.m.t.rowsPending tc.toNat (n - 1) || x.m.t.rowsPending td.toNat (n - 1) then stall
  else match r.poisonIn tc.toNat (n - 1) with
    | some p => .trap Cause.eccUncorr (natW p)
    | none =>
      let cells := (tabulate id 0 n).map fun k =>
        let old := r.row (rowIx tc.toNat k)
        let es := (unpackRow src old.data).map (convert1 f src)
        ((rowIx td.toNat k, (⟨packRow f (es.map Prod.fst), x.m.t.x.te && old.taint, none⟩ : RowCell)),
         es.foldl (fun a e => a + e.2) 0)
      .ok (mopAct 1 [tc.toNat, td.toNat] (cells.map Prod.fst) (cells.foldl (fun a c => a + c.2) 0) 8)

/-- Row `m` of the transposed tile, given the elements of every source row (R156). -/
def trnRow (f : Fmt) (rows : List (List Nat)) (m : Nat) : Row :=
  packRow f ((tabulate id 0 (perRow f / 64)).flatMap fun j => rows.map fun es => es.getD (64 * j + m) 0)

/-- MTRN (R156): Ta is read at issue. -/
def semMtrn (x : Ctx) (td ta : Tile) : OpRes :=
  let r := x.m.t.regs
  let f : Fmt := BitVec.ofNat 4 (shapeFmt (r.shape ta.toNat))
  if f.bits = 0 ∨ f = 13 then .trap Cause.tileShape (natW ta.toNat)
  else if x.m.c.mopFull 2 then stall
  else
    let rows := (rowRun ta.toNat 0 64).map fun i => unpackRow f (r.row i).data
    let taint := x.m.t.x.te && r.tileTaint ta.toNat
    .ok (mopAct 2 [ta.toNat, td.toNat]
      ((tabulate id 0 64).map fun m => (rowIx td.toNat m, (⟨trnRow f rows m, taint, none⟩ : RowCell))) 0 16)

/-- An M operation's rows written to its task, after the rows in flight that land before them (R35). -/
def MOp.land (o : MOp) (t : Task) : Task :=
  let t := o.rows.foldl (fun (t : Task) (e : Nat × RowCell) => t.writeRow e.1 e.2 true) (Task.landRows o.due o.seq t)
  { t with x := { t.x with qtroub := addTrouble t.x.qtroub o.trouble } }

/-- The M operations due before cycle `lim` landed in their tasks. -/
def Core.landMops (lim : Nat) (c : Core) : Core :=
  (c.mops.filter fun o => decide (o.due < lim)).foldl (fun c o => c.onUid o.uid o.land)
    { c with mops := c.mops.filter fun o => !decide (o.due < lim) }

/-- The M operations due before cycle `lim` landed, those of the task of a machine view in its working copy. -/
def Mach.landMops (lim : Nat) (m : Mach) : Mach :=
  { m with c := m.c.landMops lim
           t := (m.c.mops.filter fun o => decide (o.due < lim) && o.uid == m.t.uid).foldl (fun t o => o.land t) m.t }

/-! ## MDUP (R107, R153, R157) -/

/-- An entry of the duplication map: s and t. -/
def dupEntry (e : Nat) : Nat × Nat := (e % 65536, e / 65536)

/-- MDUP (R157): the bundle issues ceil(D / 32) cycles after the MDUP first had only itself to wait for. -/
def semMdup (x : Ctx) (h : HReg) : OpRes :=
  let v := x.h h
  let bindTo (b : MBind) : Act := fun m => m.onT fun t => { t with bind := b }
  if handleBad v false then ill4
  else if hKind v = 0 then .ok (bindTo MBind.none)
  else match x.m.s.tid (clusterOf x.m.s.cur) (hId v) with
    | none => .trap Cause.tidInvalid (natW (hId v))
    | some r =>
      let d := recDcnt r
      let a := recDmap r
      if 256 < d ∨ a % 4 ≠ 0 ∨ (d ≠ 0 ∧ !ownScratch x.m a (4 * d)) then ill4
      else if recScaled r ∧ ((recSfmt r ≠ 0x10 ∧ recSfmt r ≠ 0x11) ∨ recSlog r ≠ 5 ∨ !ownScratch x.m (recSbase r) 1) then ill4
      else
        let ads := tabulate (fun i => a + 4 * i) 0 d
        match tableStop x.m ads with
        | some r => r
        | none =>
        let now : Act := fun m => (m.answerIf fun _ => true).tableRead ads 4
        let es := ads.map fun b => dupEntry ((now x.m).loadNat (x.m.tablePa b) 4)
        if !noDup (es.map Prod.snd) || es.any (fun e => e.1 / 64 != e.2 / 64) then ill4
        else
          let first := x.m.c.mdup.getD x.m.s.cyc
          if x.m.s.cyc < first + ceilDiv d 32 then .last fun m => m.onC fun c => { c with mdup := some first }
          else .ok fun m => bindTo ⟨es, recScaled r, recSbase r, recSfmt r⟩ (now m)

end Sys2Proof.Machine
end

