-- ==== Sys2Proof/Machine/Tasks.lean ====
section
/-! DEFINITION. Tasks on cores: the state a task starts with, instruction-memory halves, SPAWN and END, leaving a core and
coming back, the arbiter, and forced pre-emption (R15, R82 to R95, R159 to R161, R299, R327 to R329, R337). -/

namespace Sys2Proof.Machine

/-! ## The initial state (R15, R88, R100) -/

/-- The stage of task `i`: how many first indices it has reached (R83). -/
def stageOf (d : Desc) (i : Nat) : Nat := d.first.countP fun f => decide (f ≤ i)

/-- The special registers of task `tix` of a launch (R15, R344). -/
def XRegs.start (x : Launch) (tix : Nat) : XRegs :=
  { tix := natW tix, ntask := natW x.desc.ntask, stage := natW (stageOf x.desc tix), seed := natW x.desc.seed
    launch := natW x.lid, arg := natW x.desc.arg, wtmo := natW (2 ^ 32), qtroub := 0, dig := 0, sv := false, psv := false
    dm := x.desc.dmode, ste := true, te := x.desc.te, epc := 0, ecause := 0, einfo := 0, erpt := 0
    tvec := natW x.desc.tvec, ptb := x.ptb, segt := natW x.desc.segt }

/-- The matrix loop state at task start (R103, R104). -/
def MatLoop.start : MatLoop := ⟨0, 0, 0, 0, 0, 0, 0, 0⟩

/-- A task with every register zero, at an entry, with given special registers (R15, R247). -/
def Task.start (uid lid : Nat) (b : Budget) (x : XRegs) (entry cyc : Nat) : Task :=
  { uid := uid, lid := lid, parent := none, spawnCtr := none, budget := b, regs := Regs.zero, x := x, mat := MatLoop.start
    bind := MBind.none, loops := Loops.off, sticky := StickySet.quiet, flow := Flow.none, pc := entry, iter := 0
    flight := [], pend := [], shadow := [], trapped := Trapped.none, faults := [], ninth := none, aperture := .a256
    recovery := .quad2, wins0 := [], wins1 := [], stated := 16384, runStart := cyc, arrived := [], bars := [], held := none, traced := false
    recs := [], recAll := false, rerun := none, flags := 0, told := [], logs := [], seq := 0, joined := 0 }

/-! ## Instruction memory (R299) -/

/-- The word at virtual address `va` that Fleus reads for a launch. -/
def fleusRead (s : State) (ptb : Word) (va n : Nat) : Option Nat :=
  (walk s ptb va).map fun e => s.value (e.phys va) n

/-- `len` bytes at `va` loaded into a half of instruction memory, whose other words go away. -/
def loadHalf (s : State) (ptb : Word) (va len half : Nat) (im : SMap Word) : SMap Word :=
  let lo := half * 16384
  let kept := im.filter fun e => !(decide (lo ≤ e.1) && decide (e.1 < lo + 16384))
  (tabulate id 0 (len / 8)).foldl (fun m i =>
    SMap.set 0 m (lo + i) (natW ((fleusRead s ptb (va + 8 * i) 8).getD 0))) kept

/-- A core whose half 0 holds segment 0 of a launch and whose half 1 is empty, its constant cache invalidated (R185,
R299). -/
def Core.loadImage (s : State) (x : Launch) (c : Core) : Core :=
  { c with imem := loadHalf s x.ptb x.desc.image x.desc.ilen 0 [], imemErr := [], half0 := .holds 0, half1 := .empty, cc := [] }

/-- A core that begins to run a task. -/
def Core.begin (cyc : Nat) (t : Task) (c : Core) : Core :=
  { c with task := some t, pick := none, yielded := false, ready := cyc + 1, reach := none, mdup := none, fifoWait := none,
           wait := none, walk := none, walkBad := none,
           fence := c.fence.filter Fence.isTlbi, ended := false, sliceEnd := if c.sliceEnd ≤ cyc then cyc + 16384 else c.sliceEnd }

/-- A core on which a task begins that has not run before: its record filter is empty (R304), and in D-mode its promises follow
none of another task (R245, R329). -/
def Core.beginFresh (cyc : Nat) (t : Task) (c : Core) : Core :=
  let c := if t.x.dm then { c with qprom0 := 0, qprom1 := 0, oprom := 0, lprom := [] } else c
  { c with recf := [] }.begin cyc t

/-! ## Outstanding operations (R89, R164, R201, R242) -/

/-- The array steps and M operations of a task that have not written their tiles by cycle `now`. -/
def Core.tileOps (c : Core) (uid now : Nat) : Nat :=
  c.steps.countP (fun y => y.uid == uid) + c.mops.countP fun o => o.uid == uid && decide (now < o.due)

/-- The copy-queue operations of a task that have not completed. -/
def Core.copies (c : Core) (uid : Nat) : Nat := (c.cq0 ++ c.cq1).countP fun o => o.uid == uid

/-- The O operations of a task that have not completed. -/
def State.veilOps (s : State) (uid : Nat) : Nat :=
  s.veils.foldl (fun n (_, v) => n + v.ops.countP fun o => o.uid == uid) 0

/-- The L operations of a task that have not completed. -/
def State.linkOps (s : State) (uid : Nat) : Nat := s.links.countP fun o => o.uid == uid

/-- The C, O and L operations of a task outstanding, FPOP included (R164). -/
def outstanding (s : State) (c : Core) (t : Task) : Nat :=
  c.copies t.uid + t.pend.countP (fun p => p.fpop.isSome && !t.x.dm) + s.veilOps t.uid + s.linkOps t.uid

/-- Whether a pending result is a load (R201). -/
def Pend.isLoad (p : Pend) : Bool :=
  match p.src with
  | .ready => p.fpop.isNone
  | .atomic .. => true
  | _ => false

/-- Whether a pending result holds a store half that has not performed (R201). -/
def Pend.isAtomic (p : Pend) : Bool :=
  match p.src with
  | .atomic .. => true
  | _ => false

/-- A task without the pending results that have landed by the end of cycle `now`. -/
def Task.landedBy (now : Nat) (t : Task) : Task := { t with pend := t.pend.filter fun p => !p.lands (now + 1) }

/-- Whether every C, O and L operation that task `uid` of a core issued before cycle `lim` has completed; of the copies, `count`
says which are waited for. -/
def copiesDone (s : State) (c : Core) (uid lim : Nat) (count : CopyOp → Bool := fun _ => true) : Bool :=
  !(c.cq0 ++ c.cq1).any (fun o => o.uid == uid && decide (o.issue < lim) && count o) &&
    !s.veils.any (fun v => v.2.ops.any fun o => o.uid == uid && decide (o.issue < lim)) &&
    !s.links.any fun o => o.uid == uid && decide (o.issue < lim)

/-- A core as a task that is out of it sees it: none of its buffered stores and dirty lines is the task's own. -/
def Core.asOut (c : Core) : Core := { c with stores := [], l1 := [] }

/-- Whether the L1 of a core holds a store that was issued before cycle `lim` and has not reached the cluster's cache. -/
def Core.l1Holds (c : Core) (lim : Nat) : Bool :=
  c.l1.any fun e => match e.2.since with
    | some i => decide (i < lim)
    | none => false

/-- Whether every operation of the classes `cls` that a task of core `k` issued before cycle `lim` has performed (R201, R203,
R207): a store at its home where the scope is `wide`, else at the level that cores of the cluster share. `c` is the
core as the task sees it; a table write performs at its issue. Of the copies, `count` says which are waited for. -/
def classesDone (s : State) (k : Nat) (c : Core) (t : Task) (cls lim : Nat) (wide : Bool) (count : CopyOp → Bool := fun _ => true) : Bool :=
  let old (n : Nat) : Bool := decide (n < lim)
  let t := t.landedBy s.cyc
  (!bitAt cls 0 || !t.pend.any fun p => p.isLoad && old p.issue) &&
  (!bitAt cls 1 || (!c.stores.any (fun st => old st.issue) && !c.l1Holds lim && !t.pend.any (fun p => p.isAtomic && old p.issue) &&
    !(wide && s.ccHolds (clusterOf k) lim))) &&
  (!bitAt cls 2 ||
    (copiesDone s c t.uid lim count && !t.pend.any (fun p => p.fpop.isSome && old p.issue)))

/-! ## Whether a wait is met (R158) -/

/-- The word that a poll of WAITA reads (R237): past the L1, and at a wide scope past the cluster's cache; the core's own stores
of its buffer come first (R18). -/
def Mach.pollWord (m : Mach) (pa : Nat) (wide : Bool) : Word :=
  match regionOf pa with
  | .counter => natW (m.s.ctr ((pa - 0x7D0000000000) / 8))
  | _ =>
    let m := m.early pa 8
    let line := if wide then none else (ccFind (m.s.cc (clusterOf m.s.cur)) (pa / 64)).map SLine.data
    natW (leNat (tabulate (m.byteIn line) pa 8))

/-- Whether the conditions of WAITO hold at once (R164). -/
def Mach.waitoMet (m : Mach) (l s c t : Nat) : Bool :=
  let y := m.t.landedBy m.s.cyc
  decide (y.loadCount ≤ l) && decide (m.c.storeCount ≤ s) && decide (outstanding m.s m.c y ≤ c) &&
    decide (m.c.tileOps m.t.uid m.s.cyc ≤ t)

/-- Whether every other task of the running task's launch has ended (R350); its own sub-tasks are none of them. -/
def othersEnded (m : Mach) : Bool :=
  match SMap.find m.s.launches m.t.lid with
  | some x => decide (x.desc.ntask ≤ x.ended + 1)
  | none => true

/-- Whether a wait is met in this cycle (R163, R164, R207, R235, R237, R350). A barrier completes for all members at
once, by BARRIER_COMPLETE. -/
def Mach.metNow (m : Mach) : WaitKind → Bool
  | .cwait i thr => decide (thr ≤ m.s.ctr i)
  | .waita _ pa v wide => m.pollWord pa wide != v
  | .waito l s c t => m.waitoMet l s c t
  | .sleept w => decide (w ≤ m.s.cyc)
  | .drain cls wide => classesDone m.s m.s.cur m.c m.t cls (m.s.cyc + 1) wide
  | .barg .. => false
  | .digx => othersEnded m

/-- The X.EINFO of a wait that has timed out; `none` for a wait without a time-out. -/
def Mach.timeoutInfo (m : Mach) : WaitKind → Option Word
  | .cwait i _ => some (natW i)
  | .waita va _ _ _ => some (natW va)
  | .waito .. => some (natW (outstanding m.s m.c (m.t.landedBy m.s.cyc)))
  | .sleept w => some (natW w)
  | .digx => some 0
  | .drain .. => none
  | .barg .. => none

/-- Whether a wait ends at its time-out. -/
def WaitKind.timed : WaitKind → Bool
  | .drain .. => false
  | .barg .. => false
  | _ => true

/-- Whether a wait is at a barrier that has not completed. -/
def WaitRec.atBarrier (w : WaitRec) : Bool :=
  match w.kind with
  | .barg .. => !w.met
  | _ => false

/-- The cycle since which a wait is over without being met: that of its time-out. -/
def WaitRec.over (w : WaitRec) (cyc : Nat) : Option Nat :=
  if w.kind.timed && decide (w.reach + w.tmo ≤ cyc) then some (w.reach + w.tmo) else none

/-! ## Leaving a core and coming back (R91, R321, R327, R328) -/

/-- Whether a task may leave its core: its pending results have landed and its tiles are written (R327). -/
def mayLeave (c : Core) (t : Task) (now : Nat) : Bool := t.pend.isEmpty && c.tileOps t.uid now == 0

/-- Whether a launch re-executes serially: its tasks follow R337 and not the arbiter. -/
def isSerial (s : State) (lid : Nat) : Bool :=
  match SMap.find s.launches lid with
  | some x => x.phase == .reexec
  | none => false

/-- A task of a serial re-execution has been set aside in cycle `at_` (R337). -/
def State.ranSerial (s : State) (t : Task) (kind : OutKind) (at_ : Nat) : State :=
  if isSerial s t.lid && t.parent.isNone && kind != .preempted then s.onLaunch t.lid fun x => { x with ranAt := at_ } else s

/-- A task that leaves its core with what the core holds for it; what lands before cycle `at_` stays in flight and lands on its
cycle (R33, R327). -/
def Core.savedOf (c : Core) (t : Task) (kind : OutKind) (at_ : Nat) : Saved :=
  { task := { t with flight := t.flight.filter fun r => decide (r.due < at_) }
    kind := if (c.wait.map WaitRec.atBarrier) == some true then .barrier else kind
    left := at_, since := at_, wait := c.wait, ended := c.ended, replay := capture at_ t.flight, half0 := c.half0, half1 := c.half1
    mask := c.mask, qprom0 := c.qprom0, qprom1 := c.qprom1, oprom := c.oprom, lprom := c.lprom }

/-- The task of core `k` taken out of it at cycle `at_`, in which its next bundle would have issued: exposed results in flight
are kept for its return; its pending results land while it is out, before the core takes another task (R327). Its wait goes
with it, its time-out still counted from where it began (R330); one that waits at a barrier counts as set aside
there (R91). -/
def leave (s : State) (k : Nat) (kind : OutKind) (at_ : Nat) : State :=
  match s.mach k with
  | none => s
  | some m =>
    let m := m.flush
    let out := m.c.savedOf m.t kind at_
    let c := { m.c with saved := m.c.saved ++ [out], task := none, reach := none, mdup := none, fifoWait := none, wait := none, walk := none
                        walkBad := none, fence := m.c.fence.filter Fence.isTlbi, ended := false }
    (m.s.setCore k c).ranSerial m.t out.kind at_

/-- Since when a task out of its core has its waits satisfied; `none` where one is not (R91, R93). -/
def Saved.satisfied (x : Saved) (cyc : Nat) : Option Nat :=
  match x.wait with
  | some w => if w.met then some x.since else (w.over cyc).map fun n => Nat.max n x.left
  | none => some x.since

/-- A half of a task that comes back reloaded (R299). -/
def reloadHalf (s : State) (ptb : Word) (d : Desc) (segt half : Nat) (h : Half) (im : SMap Word) : SMap Word :=
  match h with
  | .holds 0 => loadHalf s ptb d.image d.ilen half im
  | .holds k =>
    loadHalf s ptb ((fleusRead s ptb (segt + 16 * (k - 1)) 8).getD 0)
      ((fleusRead s ptb (segt + 16 * (k - 1) + 8) 4).getD 0) half im
  | _ => im

/-- What a core holds for a task that comes back: the mask that its next OCONV uses, and in D-mode the promises that its next
ones follow (R253, R329). -/
def Core.regain (c : Core) (y : Saved) : Core :=
  let c := { c with mask := y.mask }
  if y.task.x.dm then { c with qprom0 := y.qprom0, qprom1 := y.qprom1, oprom := y.oprom, lprom := y.lprom } else c

/-- A task that is out comes back to core `k`: its replay starts at its first issue (R321, R327). A ninth fault that
arrived meanwhile stops it before it issues a bundle (R325). -/
def comeBack (s : State) (k : Nat) (y : Saved) : State :=
  let c := (s.core k).regain y
  let away := s.cyc - y.left
  let t := { y.task with flight := replay (s.cyc + 1) y.task.seq y.replay y.task.flight, seq := y.task.seq + 1, runStart := y.task.runStart + away }
  let im := match SMap.find s.launches t.lid with
    | some x => reloadHalf s t.x.ptb x.desc t.x.segt.toNat 1 y.half1 (reloadHalf s t.x.ptb x.desc t.x.segt.toNat 0 y.half0 [])
    | none => c.imem
  let c := { c.begin s.cyc t with saved := c.saved.filter fun z => z.task.uid != t.uid, imem := im, imemErr := [], half0 := y.half0
                                  half1 := y.half1, cc := [], wait := y.wait, ended := y.ended }
  match t.ninth with
  | some f => Mach.stop ⟨{ s with cur := k }, c, t⟩ f.cause f.info t.pc t.iter
  | none => s.setCore k c

/-! ## Who runs next (R85, R86, R91, R93, R337) -/

/-- The effective rank of a launch's queue (R93). -/
def rankOf (s : State) (lid : Nat) : Nat :=
  match SMap.find s.launches lid with
  | some x => (s.queue x.queue).rank
  | none => 0

/-- Whether the front end may place no task on core `k`: its companion holds a task of a launch with mask 0x55 (R85). -/
def companionBars (s : State) (k : Nat) : Bool :=
  k % 2 == 1 && match (s.core (k - 1)).task with
    | some t => match SMap.find s.launches t.lid with
      | some x => x.desc.cmask == 0x55
      | none => false
    | none => false

/-- Whether a task whose records added task `tix` to a relaunch of launch `lid` has not ended yet (R310). -/
def adderRuns (s : State) (lid tix : Nat) : Bool :=
  s.watches.any fun (_, w) => match w.bound, w.run with
    | some l, some r => l == lid && r.added.any fun e => e.1 == tix && e.2.any fun b =>
        s.cores.any fun (_, y) => (match y.task with
          | some t => t.lid == lid && t.x.tix.toNat == b
          | none => false) || y.saved.any (fun z => z.task.lid == lid && z.task.x.tix.toNat == b) ||
            y.todo.contains (lid, b)
    | _, _ => false

/-- Whether task `tix` of launch `lid` may start on core `k`: the tasks of its launch before it there have ended or been
set aside, its companion rule allows it, and in a relaunch the tasks that added it have ended (R85, R86, R91, R310). -/
def mayBegin (s : State) (k lid tix : Nat) : Bool :=
  let c := s.core k
  let mine := match c.task with
    | some t => t.lid == lid && t.parent.isNone
    | none => false
  let before := c.saved.any fun y => y.task.lid == lid && y.task.parent.isNone && y.kind == .preempted
  let first := (c.todo.filter fun e => e.1 == lid).head?
  match SMap.find s.launches lid with
  | some x => (x.phase == .running || x.phase == .rerun) && !mine && !before && first == some (lid, tix) && !companionBars s k && !adderRuns s lid tix
  | none => false

/-- A task that is out of core `k` as its wait is judged. -/
def Saved.mach (s : State) (k : Nat) (y : Saved) : Mach := ⟨{ s with cur := k }, (s.core k).asOut, y.task⟩

/-- Since when a task that is out of core `k` has its waits satisfied: for DIGX.LAUNCH since the last other task of its launch
ended, or it left (R93, R350). -/
def Saved.since? (s : State) (k : Nat) (y : Saved) : Option Nat :=
  y.satisfied s.cyc <|>
    match y.wait with
    | some w =>
      if w.kind = .digx ∧ othersEnded (y.mach s k) then
        some (Nat.max y.left (((SMap.find s.launches y.task.lid).map Launch.ranAt).getD 0))
      else none
    | none => none

/-- Whether the arbiter decides over a task that is out: in a serial re-execution only over one that was pre-empted, and over
sub-tasks (R337). -/
def arbitrated (s : State) (y : Saved) : Bool := !isSerial s y.task.lid || y.kind == .preempted || y.task.parent.isSome

/-- The waiting tasks of a core whose waits are satisfied (R93). A task that has not started has waited since its launch started,
also while another of its launch had to end before it (DESIGN CHOICE, log 66). -/
def candidates (s : State) (k : Nat) : List Cand :=
  let c := s.core k
  (c.saved.filterMap fun y =>
    if arbitrated s y then
      (y.since? s k).map fun n => ⟨some y.task.uid, none, rankOf s y.task.lid, n, y.task.stated⟩
    else none) ++
  (c.todo.filterMap fun (l, i) =>
    if mayBegin s k l i then
      some ⟨none, some (l, i), rankOf s l, (match SMap.find s.launches l with
        | some x => x.start
        | none => 0), 16384⟩
    else none)

/-- The better of two candidates: the higher rank, then the longer wait (R93). -/
def betterCand (a b : Cand) : Cand :=
  if a.rank = b.rank then (if a.since ≤ b.since then a else b) else if b.rank < a.rank then a else b

/-- The best of a list of candidates. -/
def bestCand : List Cand → Option Cand
  | [] => none
  | c :: cs => match bestCand cs with
    | some b => some (betterCand c b)
    | none => some c

/-- The arbiter's choice at a switch, and whether a new slice starts (R93): a task that has waited 49,152 cycles whatever the
ranks; else the best of those whose stated run fits the `left` cycles of the slice, all of them where `all` says so; else the
best of all in a new slice. Of several that have waited 49,152 cycles the highest rank is first, then the longest wait (DESIGN CHOICE,
log 66). `me` is the current task where it competes, which wins a tie: it has waited since 0. -/
def arbitrate (cyc left : Nat) (all : Bool) (me others : List Cand) : Option Cand × Bool :=
  match bestCand (others.filter fun c => decide (c.since + 49152 ≤ cyc)) with
  | some b => (some b, all)
  | none => match bestCand ((me ++ others).filter fun c => all || decide (c.stated ≤ left)) with
    | some b => (some b, all)
    | none => (bestCand (me ++ others), true)

/-- The running task as it competes. -/
def Task.cand (s : State) (t : Task) : Cand := ⟨some t.uid, none, rankOf s t.lid, 0, t.stated⟩

/-- Whether an LNCH started a launch. -/
def Launch.isLnch (x : Launch) : Bool :=
  match x.origin with
  | .lnch .. => true
  | .packet .. => false

/-- A task not yet started begins on core `k` (R15, R86, R305). A task of a relaunch, or of a launch that an LNCH started, reads
nothing that caches kept from before (R281, R309). -/
def beginTask (s : State) (k lid tix : Nat) : State :=
  match SMap.find s.launches lid with
  | none => s
  | some x =>
    let c := s.core k
    let rerun := if x.only.isSome then
        (s.watches.find? fun (_, w) => w.bound == some lid && w.run.isSome).map Prod.fst else none
    let added := match rerun with
      | some w => match SMap.find s.watches w with
        | some y => match y.run with
          | some r => r.added.any fun e => e.1 == tix
          | none => false
        | none => false
      | none => false
    let t := { Task.start s.uids lid x.desc.budget (XRegs.start x tix) x.desc.entry s.cyc with
      traced := x.desc.trace != 0, rerun := rerun, flags := (if rerun.isSome then 2 else 0) + (if added then 4 else 0) }
    let c := (c.loadImage s x).beginFresh s.cyc t
    let anew := rerun.isSome || x.isLnch
    let c := { c with todo := c.todo.filter fun e => e != (lid, tix), l1 := if anew then [] else c.l1 }
    let s := { s with uids := s.uids + 1 }.setCore k c
    let s := if anew then s.ccAcquire (clusterOf k) else s
    if x.desc.trace = 0 then s else writeTrace s x t 1 t.flags 1 []

/-! ## Serial re-execution (R337) -/

/-- Whether a task of launch `lid` runs on some core or is out of one that it was pre-empted from; sub-tasks run beside
their parents. -/
def launchBusy (s : State) (lid : Nat) : Bool :=
  s.cores.any fun (_, c) => (match c.task with
    | some t => t.lid == lid && t.parent.isNone
    | none => false) || c.saved.any fun y => y.task.lid == lid && y.task.parent.isNone && y.kind == .preempted

/-- The tasks of a launch that are out, with their cores. -/
def outTasks (s : State) (lid : Nat) : List (Nat × Saved) :=
  s.cores.flatMap fun (k, c) => (c.saved.filter fun y => y.task.lid == lid && y.task.parent.isNone).map fun y => (k, y)

/-- The set-aside task with the lowest index among those given. -/
def lowestOut : List (Nat × Saved) → Option (Nat × Saved)
  | [] => none
  | e :: es => match lowestOut es with
    | some b => if e.2.task.x.tix.toNat ≤ b.2.task.x.tix.toNat then some e else some b
    | none => some e

/-- What a serial re-execution does next: a task set aside at a wait comes back once another task has ended or been set aside
since; then those whose barrier has completed, in index order; then the next task; then the lowest still waiting
(R337). -/
inductive SerialNext where
  | back (k : Nat) (y : Saved)
  | fresh (k tix : Nat)
  | none

/-- The `n`-th task of the present run: of a relaunch only the tasks that ran in it (R337, R367). -/
def Launch.runTask (x : Launch) (n : Nat) : Option Nat :=
  match x.only with
  | none => if n < x.desc.ntask then some n else none
  | some l => l[n]?

/-- The next move of a serial re-execution, when none of its tasks runs. A companion that bars its core lets a fresh task wait
(R85). -/
def serialNext (s : State) (x : Launch) : SerialNext :=
  let outs := outTasks s x.lid
  let waited := outs.filter fun e => e.2.kind == .spilled && decide (e.2.left < s.cyc)
  let barred := outs.filter fun e => e.2.kind == .barrier && (e.2.satisfied s.cyc).isSome
  match lowestOut (waited.filter fun e => decide (e.2.left < x.ranAt)) with
  | some (k, y) => .back k y
  | none => match lowestOut barred with
    | some (k, y) => .back k y
    | none =>
      match (x.runTask x.next).filter fun i => !adderRuns s x.lid i with
      | some i =>
        let k := x.assign.getD i 0
        if companionBars s k then .none else .fresh k i
      | none => match lowestOut waited with
        | some (k, y) => .back k y
        | none => .none

/-! ## The free core (R86, R91, R93) -/

/-- Whether the tasks out of a core have nothing pending there any more (R327). -/
def Core.drained (c : Core) (now : Nat) : Bool := c.saved.all fun y => mayLeave c y.task now

/-- The arbiter's choice at the last switch, where it still stands (R93). -/
def picked (s : State) (k : Nat) : Option Cand :=
  (s.core k).pick.bind fun p => (candidates s k).find? fun c => c.out == p.out && c.start == p.start

/-- Whether a throttle holds a core at the switch that a D-mode task has come to (R374). -/
def heldSwitch (s : State) (c : Core) : Bool := s.fl.holdD && c.yielded

/-- What core `k`, which runs nothing, should run: a serial re-execution's next task, or the arbiter's choice. R93 names no switch
point where a task ends: the arbiter then chooses among all candidates, as if each fitted, and the slice runs on (DESIGN CHOICE,
log 66). -/
def nextOn (s : State) (k : Nat) : Option Cand :=
  if !(s.core k).drained s.cyc || heldSwitch s (s.core k) then none else
  let serial := s.launches.findSome? fun (l, x) =>
    if x.phase == .reexec && !launchBusy s l then
      match serialNext s x with
      | .back j y => if j = k then some (⟨some y.task.uid, none, 0, 0, 16384⟩ : Cand) else none
      | .fresh j i => if j = k then some ⟨none, some (l, i), 0, 0, 16384⟩ else none
      | .none => none
    else none
  serial <|> picked s k <|> (arbitrate s.cyc 0 true [] (candidates s k)).1

/-- Whether the running task of core `k`, a sub-task like another (09 R164), waits at a barrier while a later task of its
launch is queued there: it is then set aside (R91); in a serial re-execution whenever another task can run (R337). -/
def setsAside (s : State) (k : Nat) : Option OutKind :=
  let c := s.core k
  match c.task, c.wait with
  | some t, some w =>
    if w.met || !mayLeave c t s.cyc then none
    else match w.kind with
      | .barg .. =>
        if c.todo.any (fun e => e.1 == t.lid) || isSerial s t.lid then some .barrier else none
      | .cwait .. | .waita .. | .sleept .. =>
        if isSerial s t.lid && t.parent.isNone then
          match SMap.find s.launches t.lid with
          | some x => if (x.runTask x.next).isSome ||
                (outTasks s t.lid).any (fun e => e.2.kind != .barrier || (e.2.satisfied s.cyc).isSome)
              then some .spilled else none
          | none => none
        else none
      | _ => none
  | _, _ => none

/-- The waiting tasks that R91 or R337 sets aside before core `k` takes its next task: its own, and on any core that of a serial
re-execution. -/
def setAside (s : State) (k : Nat) : State :=
  s.cores.foldl (fun s e =>
    if e.1 = k || (e.2.task.map fun t => isSerial s t.lid) == some true then
      match setsAside s e.1 with
      | some kind => leave s e.1 kind s.cyc
      | none => s
    else s) s

/-- A task started that the launch's record counts as the next of a serial re-execution. -/
def beginNext (s : State) (k lid tix : Nat) : State :=
  let s := beginTask s k lid tix
  if isSerial s lid then s.onLaunch lid fun x => { x with next := x.next + 1 } else s

/-- TASK_START on core `k`: a waiting task is set aside if R91 or R337 says so, and the next queued task begins. -/
def taskStart (s : State) (k : Nat) : Option State :=
  let s := setAside s k
  if (s.core k).task.isSome then none
  else match nextOn s k with
    | some ⟨none, some (l, i), _, _, _⟩ => some (beginNext s k l i)
    | _ => none

/-- BARRIER_WAITER_RESUME on core `k`: a task that is out comes back to its free core (R91, R327, R337). -/
def waiterResume (s : State) (k : Nat) : Option State :=
  let s := setAside s k
  if (s.core k).task.isSome then none
  else match nextOn s k with
    | some ⟨some u, _, _, _, _⟩ => ((s.core k).saved.find? fun y => y.task.uid == u).map fun y => comeBack s k y
    | _ => none

/-! ## Yield points (R93, R160) -/

/-- A queue's streak after a yield within budget: every 64 in a row raise its rank by 1, up to its set rank. -/
def goodYield (s : State) (lid : Nat) : State :=
  match SMap.find s.launches lid with
  | none => s
  | some x =>
    let q := s.queue x.queue
    let q := if q.streak + 1 = 64 then { q with streak := 0, rank := Nat.min (q.rank + 1) q.setRank }
      else { q with streak := q.streak + 1 }
    s.setQueue x.queue q

/-- The arbiter asked on core `k` with the running task as candidate `me`: the state with the slice it leaves, and its choice
(R93). `yk` ends the slice, as YIELD does; so does its last cycle. -/
def switchOn (s : State) (k : Nat) (yk : Bool) (me : List Cand) : State × Option Cand :=
  let c := s.core k
  let all := yk || decide (c.sliceEnd ≤ s.cyc)
  let p := arbitrate s.cyc (c.sliceEnd - s.cyc) all me (candidates s k)
  (s.setCore k { c with pick := p.1, sliceEnd := if p.2 then s.cyc + 16384 else c.sliceEnd }, p.1)

/-- A switch point of the running task of core `k`, after a bundle: at a yield bundle with stated run `stated`, or at
YIELD, which ends the slice (R93, R160). Answers whether the task gives way. -/
def yieldPoint (s : State) (k : Nat) (yk : Bool) (stated : Nat) : State × Bool :=
  let c := s.core k
  match c.task with
  | none => (s, false)
  | some t =>
    let s := goodYield s t.lid
    let t := { t with stated := stated, runStart := s.cyc }
    let (s, p) := switchOn (s.setCore k { c with task := some t }) k yk [t.cand s]
    (s, match p with
      | some b => b.out != some t.uid
      | none => false)

/-- YIELD_OVERRUN on core `k` (R93): at the first boundary after the stated run has passed the queue's rank falls and the
event is posted; with a waiting task whose waits are satisfied the task is forced out and the arbiter chooses, the task
itself competing with a new stated run unless it waits; else that run begins at once. -/
def yieldOverrun (s : State) (k : Nat) : Option State :=
  let c := s.core k
  match c.task with
  | none => none
  | some t =>
    if t.iter ≠ 0 ∨ s.cyc ≤ t.runStart + t.stated then none
    else if decide (s.cyc < c.ready) || c.ended then none
    else match SMap.find s.launches t.lid with
      | none => none
      | some x =>
        let q := s.queue x.queue
        let s := s.setQueue x.queue { q with rank := q.rank - 1, streak := 0 }
        let s := s.post (s.partOf (clusterOf k)) ⟨4, 0, x.queue, q.home, 0, t.lid⟩
        let t := { t with stated := 16384, runStart := s.cyc }
        let s := s.setCore k { c with task := some t }
        let free := match c.wait with
          | some w => w.met
          | none => true
        some (if (candidates s k).isEmpty then s
          else leave (switchOn s k false (if free then [t.cand s] else [])).1 k .preempted s.cyc)

/-! ## SPAWN and END (R88, R89, R159, R161) -/

/-- The core that SPAWN names (R88). -/
def spawnCore (k off : Nat) : Nat := k / 8 * 8 + (k % 8 + off) % 8

/-- Whether a core is idle for SPAWN (R88): no task, no sub-task and no saved barrier waiter. -/
def Core.spawnIdle (c : Core) (now : Nat) : Bool :=
  c.task.isNone && c.drained now && !c.saved.any fun y => y.kind == .barrier || y.task.parent.isSome

/-- The sub-task that a SPAWN starts (R88). Its X.PTB is the one that its parent has now (DESIGN CHOICE, log 55). -/
def subTask (m : Mach) (uid entry : Nat) (ctr : Option Nat) : Task :=
  let p := m.t
  let x : XRegs := { p.x with wtmo := natW (2 ^ 32), qtroub := 0, dig := 0, sv := false, psv := false, ste := true, epc := 0
                              ecause := 0, einfo := 0, erpt := 0 }
  let t := Task.start uid p.lid p.budget x entry m.s.cyc
  let regs := (tabulate id 1 8).foldl (fun r n => r.setSreg n (p.regs.sreg n) none) t.regs
  { t with parent := some p.uid, spawnCtr := ctr, regs := regs, traced := p.traced, rerun := p.rerun }

/-- SPAWN (R88, R159): idleness is judged first. -/
def semSpawn (x : Ctx) (off : BitVec 3) (e c : SReg) : OpRes :=
  let k := x.m.s.cur
  let j := spawnCore k off.toNat
  let a := (x.s e).toNat
  let n := (x.s c).toNat
  if j = k ∨ !(x.m.s.core j).spawnIdle x.m.s.cyc then .trap Cause.spawnBusy (natW (coordOf j))
  else if a % 8 ≠ 0 then .trap Cause.memAlign (natW a)
  else if 0x40000 ≤ a then ill4 a
  else if c ≠ 0 ∧ 65535 < n then ill4
  else .ok fun m =>
    let (uid, m) := m.uid
    let t := subTask m uid a (if c = 0 then none else some n)
    m.onS fun s =>
      let y := s.core j
      let y := match SMap.find s.launches t.lid with
        | some l => y.loadImage s l
        | none => y
      s.setCore j (y.beginFresh s.cyc t)

/-- The trouble check of BARG and END (R122): whether the launch's threshold is passed. -/
def troubled (s : State) (t : Task) : Bool :=
  match SMap.find s.launches t.lid with
  | some x => x.desc.qthr != 0 && decide (x.desc.qthr < t.x.qtroub.toNat)
  | none => false

/-- END (R89, R161): it takes hold after the bundle's last iteration. -/
def semEnd (x : Ctx) : OpRes :=
  if troubled x.m.s x.m.t then .trap Cause.quantTrouble x.m.t.x.qtroub
  else .ok fun m => m.onT fun t => { t with flow := { t.flow with endk := true } }

/-- YIELD (R160). -/
def semYield (_x : Ctx) : OpRes := .ok fun m => m.onT fun t => { t with flow := { t.flow with yk := true } }

/-! ## The end of a task (R89) -/

/-- Whether a task has live sub-tasks. -/
def hasSubs (s : State) (uid : Nat) : Bool :=
  s.cores.any fun (_, c) => (match c.task with
    | some t => t.parent == some uid
    | none => false) || c.saved.any fun y => y.task.parent == some uid

/-- Whether everything that END waits for is done, its release at module scope among it (R89). -/
def endReady (s : State) (k : Nat) (c : Core) (t : Task) : Bool :=
  !s.ccHolds (clusterOf k) c.ready && !hasSubs s t.uid && t.pend.isEmpty && t.flight.isEmpty && c.stores.isEmpty &&
    !c.l1Holds c.ready && outstanding s c t == 0 && c.tileOps t.uid s.cyc == 0

/-- END_COMPLETE on core `k` (R89): the counter of a SPAWN takes its addition, and the task counts as ended. A pending
fault comes first (R325). -/
def endComplete (s : State) (k : Nat) : Option State :=
  let c := s.core k
  match c.task with
  | some t =>
    if c.ended && endReady s k c t && (t.faults.isEmpty || t.x.sv) then
      let s := s.setCore k { c with task := none, ended := false, reach := none, mdup := none, wait := none, walk := none, walkBad := none,
                                    fence := c.fence.filter Fence.isTlbi }
      let s := if t.parent.isSome then s.sendAdd t.spawnCtr 1 k t.uid 0 else s
      some (taskEnded s t false)
    else none
  | none => none

/-- How many tasks the present run of a launch has (R337, R367). -/
def Launch.runCount (x : Launch) : Nat :=
  match x.only with
  | none => x.desc.ntask
  | some l => l.length

/-- LAUNCH_REEXECUTE (R337, R367): a marked D-mode launch or relaunch, all of whose tasks have ended, restarts serially. -/
def launchReexecute (s : State) (l : Nat) : Option State :=
  match SMap.find s.launches l with
  | some x =>
    if (x.phase == .running || x.phase == .rerun) && x.left == 0 && x.redo then
      some (s.onLaunch l fun x => { x with phase := .reexec, again := true, ended := x.desc.ntask - x.runCount, left := x.runCount
                                           digest := 0, next := 0, fault := false, marked := false, exchange := false })
    else none
  | none => none

end Sys2Proof.Machine
end

