-- ==== Sys2Proof/Machine/Sync.lean ====
section
/-! DEFINITION. Counters, waits, drains, barriers, sleeping, asynchronous faults and FIFO relief (R90, R95, R158,
R162 to R164, R202 to R207, R234 to R238, R324 to R326). -/

namespace Sys2Proof.Machine

/-! ## Waits (R158) -/

/-- A wait that has ended joins the last calibration of its chiplet's engine, where `f` says so of the task and the counter
of that OCAL: a transform that follows finds the engine as it left it (R270). -/
def joinCal (f : Nat → Option Nat → Bool) : Act := fun m =>
  match SMap.find m.s.veils (chipletOf m.s.cur) with
  | some v => if f v.calBy.1 v.calBy.2 then m.onT fun t => { t with joined := v.calAt.getD 0 } else m
  | none => m

/-- A wait that begins to hold its bundle: its time-out counts from this cycle (R158). -/
def beginWait (kind : WaitKind) : Act := fun m =>
  m.onC fun c => { c with wait := some ⟨kind, m.s.cyc, m.t.x.wtmo.toNat, false⟩ }

/-- A bundle held before issue by a wait: with the condition met it issues with the wait's acquire; else it waits, its
time-out counted from the cycle it first reached issue in. -/
def waitOn (x : Ctx) (kind : WaitKind) (now : Bool) (acq : Act) : OpRes :=
  match x.m.c.wait with
  | some w => if w.met then .ok acq else stall
  | none =>
    if now then .ok acq
    else .hold (beginWait kind)

/-- Whether a scope reaches beyond the cluster. -/
def Scope.wide : Scope → Bool
  | .core => false
  | .cluster => false
  | .chiplet => true
  | .module => true
  | .system => true

/-- An acquire (R202): later loads take no line that the L1 held before, and beyond the cluster none that its cache held. Dirty
lines of the L1 are written back. -/
def acquireAct (wide : Bool) : Act := fun m =>
  let m := m.l1Leave fun _ => true
  if wide then m.onS fun s => s.ccAcquire (clusterOf s.cur) else m

/-- The wait of core `k`, if one is held and not met, with the machine. -/
def waiting (s : State) (k : Nat) : Option (Mach × WaitRec) :=
  match s.mach k with
  | some m => match m.c.wait with
    | some w => if w.met then none else some (m, w)
    | none => none
  | none => none

/-- A core's wait marked as met. -/
def Core.setMet (c : Core) : Core := { c with wait := c.wait.map fun w => { w with met := true } }

/-- Whether a wait is CWAIT's. -/
def WaitKind.isCwait : WaitKind → Bool
  | .cwait .. => true
  | _ => false
/-- Whether a wait is WAITA's. -/
def WaitKind.isWaita : WaitKind → Bool
  | .waita .. => true
  | _ => false
/-- Whether a wait is WAITO's. -/
def WaitKind.isWaito : WaitKind → Bool
  | .waito .. => true
  | _ => false
/-- Whether a wait is SLEEPT's. -/
def WaitKind.isSleept : WaitKind → Bool
  | .sleept .. => true
  | _ => false
/-- Whether a wait is DRAIN's. -/
def WaitKind.isDrain : WaitKind → Bool
  | .drain .. => true
  | _ => false
/-- Whether a wait is DIGX's. -/
def WaitKind.isDigx : WaitKind → Bool
  | .digx => true
  | _ => false

/-- Whether a task that is out waits at a wait that `f` accepts and that is met in this cycle. -/
def Saved.meets (s : State) (k : Nat) (f : WaitKind → Bool) (y : Saved) : Bool :=
  match y.wait with
  | some w => !w.met && f w.kind && (y.mach s k).metNow w.kind
  | none => false

/-- A task that is out, its wait met: its waits are satisfied from this cycle on (R93). -/
def Saved.setMet (cyc : Nat) (y : Saved) : Saved :=
  { y with since := cyc, wait := y.wait.map fun w => { w with met := true } }

/-- A wait of a kind that `f` accepts, met in this cycle: that of core `k`'s task, or else of those that are out of it. -/
def waitMet (s : State) (k : Nat) (f : WaitKind → Bool) : Option State :=
  let here := match waiting s k with
    | some (m, w) => if f w.kind && m.metNow w.kind then some (s.setCore k m.c.setMet) else none
    | none => none
  here <|>
    (if (s.core k).saved.any fun y => y.meets s k f then
      some (s.setCore k { s.core k with saved := (s.core k).saved.map fun y => if y.meets s k f then y.setMet s.cyc else y })
    else none)

/-- WAIT_TIMEOUT on core `k`: precise at the held bundle (R158). -/
def waitTimeout (s : State) (k : Nat) : Option State :=
  match waiting s k with
  | some (m, w) =>
    if m.metNow w.kind || decide (s.cyc < w.reach + w.tmo) then none
    else (m.timeoutInfo w.kind).map fun info => takeTrap m Cause.waitTimeout info TrapKind.precise m.t.pc m.t.iter
  | none => none

/-! ## Counters (R204, R234 to R236) -/

/-- CADD (R234). -/
def semCadd (x : Ctx) (c v : SReg) (rel : Bool) (sc : Scope) (cls : BitVec 5) : OpRes :=
  let i := (x.s c).toNat
  if 65535 < i then ill4
  else .ok fun m => m.onS fun s =>
    s.sendAdd (some i) (x.s v).toNat s.cur x.m.t.uid (if rel then cls.toNat else 0) (Scope.wide sc)

/-- The task of core `k` with a uid, running or out, and the core as it sees it. -/
def taskOn (s : State) (k uid : Nat) : Option (Core × Task) :=
  let c := s.core k
  match c.task with
  | some t => if t.uid = uid then some (c, t) else (c.saved.find? fun y => y.task.uid == uid).map fun y => (c.asOut, y.task)
  | none => (c.saved.find? fun y => y.task.uid == uid).map fun y => (c.asOut, y.task)

/-- Whether an addition may apply: after its cycle of issue, and with its release's operations performed, wherever its task
is by now; the copies of one that has been stopped run on (R202, R203, R326). -/
def CtrAdd.free (s : State) (a : CtrAdd) : Bool :=
  decide (a.issue < s.cyc) &&
    (a.cls == 0 ||
      (match taskOn s a.core a.uid with
       | some (c, t) => classesDone s a.core c t a.cls a.issue a.wide
       | none => !(a.wide && s.ccHolds (clusterOf a.core) a.issue) && (!bitAt a.cls 2 || copiesDone s (s.core a.core) a.uid a.issue)))

/-- The first pending addition to counter `i` that may apply, with the others; a core's additions keep their order
(R234). `held` lists the cores that have an earlier one; what a core has not sent yet holds nothing. -/
def takeAdd (s : State) (i : Nat) (held : List Nat) : List CtrAdd → Option (CtrAdd × List CtrAdd)
  | [] => none
  | a :: rest =>
    if a.i = i ∧ !held.contains a.core ∧ a.free s then some (a, rest)
    else
      (takeAdd s i (if a.i = i ∧ a.issue < s.cyc then a.core :: held else held) rest).map fun (b, r) => (b, a :: r)

/-- COUNTER_ADD_APPLY on counter `i`: the sum saturates, and an overflow is reported to the task that issued (R204,
R234). -/
def counterAddApply (s : State) (i : Nat) : Option State :=
  (takeAdd s i [] s.adds).map fun (a, rest) =>
    let sum := s.ctr i + a.val
    let s := { s with adds := rest, ctrs := SMap.set 0 s.ctrs i (Nat.min sum (2 ^ 64 - 1)) }
    if 2 ^ 64 ≤ sum ∧ a.uid ≠ 0 then s.report a.core a.uid Cause.counterOverflow (natW i) else s

/-- CWAIT (R235). -/
def semCwait (x : Ctx) (c t : SReg) (acq : Bool) (sc : Scope) : OpRes :=
  let i := (x.s c).toNat
  let thr := (x.s t).toNat
  if 65535 < i then ill4
  else waitOn x (.cwait i thr) (x.m.metNow (.cwait i thr)) fun m =>
    joinCal (fun _ c => c == some i) (if acq then acquireAct (Scope.wide sc) m else m)

/-- CREAD (R236): the value is read at a free cycle from issue to landing. -/
def semCread (x : Ctx) (d c : SReg) : OpRes :=
  let i := (x.s c).toNat
  if 65535 < i then ill4
  else if x.m.loadsFull then stall
  else .ok fun m =>
    let (k, m) := m.fresh
    m.pollS (.cread i) k d.toNat

/-- Whether the core's cluster holds bytes of the line at `pa` that its home has not got yet: the first poll at a wide scope has
them written back, so that the core finds its own stores there (R18, R237). -/
def Mach.lineWaits (m : Mach) (pa : Nat) : Bool :=
  m.c.stores.any (fun st => lineMeets st.pa st.bytes.length (pa / 64)) ||
    ((l1Find m.c.l1 (pa / 64)).map L1Line.dirty == some true) ||
    ((ccFind (m.s.cc (clusterOf m.s.cur)) (pa / 64)).map SLine.dirty == some true)

/-- That line written back to its home. -/
def Mach.lineHome (pa : Nat) (m : Mach) : Mach := m.flush.onS fun s => s.ccClean (clusterOf s.cur) fun x => x.line == pa / 64

/-- WAITA (R237). -/
def semWaita (x : Ctx) (a v : SReg) (sc : Scope) : OpRes :=
  let ea := (x.s a).toNat
  match scalarCheck x.m ⟨true, false⟩ ea 8 true false with
  | .stop r => r
  | .go pa _ =>
    let k : WaitKind := .waita ea pa (x.s v) (Scope.wide sc)
    let ctr := if regionOf pa = .counter then some ((pa - 0x7D0000000000) / 8) else none
    if x.m.c.wait.isNone && Scope.wide sc && cacheable pa && x.m.lineWaits pa then .hold fun m => beginWait k (m.lineHome pa)
    else waitOn x k (x.m.metNow k) fun m => joinCal (fun _ c => c.isSome && c == ctr) (acquireAct (Scope.wide sc) m)

/-- DRAIN (R207, R238): an empty mask has no effect; with ld it acquires, with const the constant cache goes. -/
def semDrain (x : Ctx) (sc : Scope) (cls : BitVec 5) : OpRes :=
  let n := cls.toNat
  let k : WaitKind := .drain n (Scope.wide sc)
  waitOn x k (x.m.metNow k) fun m =>
    let m := if bitAt n 0 then acquireAct (Scope.wide sc) m else m
    if bitAt n 4 then m.onC fun c => { c with cc := [] } else m

/-! ## WAITO and SLEEPT (R163, R164) -/

/-- WAITO (R164): it acquires at core scope. -/
def semWaito (x : Ctx) (l s : BitVec 8) (c : BitVec 10) (t : BitVec 6) : OpRes :=
  let k : WaitKind := .waito l.toNat s.toNat c.toNat t.toNat
  waitOn x k (x.m.metNow k) fun m => joinCal (fun u _ => u == m.t.uid) (acquireAct false m)

/-- The promises recorded for a task's operations that are not complete (R163). -/
def recorded (s : State) (c : Core) (uid : Nat) : List Nat :=
  ((c.cq0 ++ c.cq1).filterMap fun o => if o.uid = uid then o.promise else none) ++
  (s.veils.flatMap fun (_, v) => v.ops.filterMap fun o => if o.uid = uid then o.promise else none) ++
  (s.links.filterMap fun o => if o.uid = uid then o.promise else none)

/-- The least of a list. -/
def leastOf : List Nat → Option Nat
  | [] => none
  | x :: xs => match leastOf xs with
    | some y => some (Nat.min x y)
    | none => some x

/-- SLEEPT (R163): one that passes acquires at core scope (R246). -/
def semSleept (x : Ctx) (t : SReg) : OpRes :=
  let w := (x.s t).toNat
  let join : Act := fun m => joinCal (fun u _ => u == m.t.uid) (acquireAct false m)
  if x.m.s.cyc < w then waitOn x (.sleept w) false join
  else match leastOf ((recorded x.m.s x.m.c x.m.t.uid).filter fun p => decide (p ≤ w)) with
    | some p => .trap Cause.promiseMissed (natW p)
    | none => .ok join

/-! ## Barriers (R90 to R92, R162) -/

/-- The group of a core in a barrier of a scope (R90). -/
def groupOf (sc : BScope) (k : Nat) : Nat :=
  match sc with
  | .cl => clusterOf k
  | .ch => chipletOf k
  | .mod => 0
  | .launch => 0

/-- How many barriers of a scope a task has come to (R90). -/
def Task.bargs (t : Task) (sc : BScope) : Nat := t.arrived.countP fun e => e.1 == sc

/-- Whether a barrier's scope reaches beyond the cluster (R90). -/
def BScope.wide : BScope → Bool
  | .cl => false
  | .ch => true
  | .mod => true
  | .launch => true

/-- A task's arrivals without that of the wait `w`, whose BARG issues. -/
def Task.unbar (w : WaitRec) (t : Task) : Task :=
  match w.kind with
  | .barg sc _ _ n => { t with bars := t.bars.filter fun b => !(b.sc == sc && b.n == n) }
  | _ => t

/-- BARG (R90, R162): the trouble check is made before the caller arrives; then the bundle is held until the barrier
completes, and acquires. A bundle that reaches issue anew after a trap finds its wait as it was (R325). -/
def semBarg (x : Ctx) (sc : BScope) : OpRes :=
  match x.m.c.wait with
  | some w => if w.met then .ok fun m => (acquireAct (BScope.wide sc) m).onT (Task.unbar w) else stall
  | none =>
    if troubled x.m.s x.m.t then .trap Cause.quantTrouble x.m.t.x.qtroub
    else .hold fun m =>
      let n := m.t.bargs sc + 1
      (m.onT fun t => { t with arrived := t.arrived ++ [(sc, n)], bars := t.bars ++ [⟨sc, n, m.s.cyc, false⟩] }).onC fun c =>
        { c with wait := some ⟨.barg sc m.t.lid (groupOf sc m.s.cur) n, m.s.cyc, 0, false⟩ }

/-- Whether a task of core `k` has arrived at its `n`-th barrier of a scope: it has come to it, and its release of every class
has performed, which a BARG that has issued since awaited (R90, R162). Copies that R92 holds until the next exchange phase do
not count (log 26). `c` is the core as the task sees it. -/
def arrivedAt (s : State) (k : Nat) (c : Core) (t : Task) (sc : BScope) (n : Nat) : Bool :=
  match t.bars.find? fun b => b.sc == sc && b.n == n with
  | some b => b.met || classesDone s k c t 31 b.at_ (BScope.wide sc) fun o => !(o.held && heldPhase s o.lid)
  | none => decide (n ≤ t.bargs sc)

/-- Whether every member of core `k` in a barrier has arrived at its `n`-th, or ended (R90). -/
def coreArrived (s : State) (k lid : Nat) (sc : BScope) (n : Nat) : Bool :=
  let c := s.core k
  (match c.task with
   | some t => t.lid != lid || arrivedAt s k c t sc n
   | none => true) &&
  (c.saved.all fun y => y.task.lid != lid || arrivedAt s k c.asOut y.task sc n) &&
  !c.todo.any fun e => e.1 == lid

/-- The numbers of the barriers of a group that its members have come to and that have not completed. -/
def bargWaits (s : State) (lid : Nat) (sc : BScope) (g : Nat) : List Nat :=
  let of (t : Task) : List Nat :=
    if t.lid = lid then t.bars.filterMap fun b => if b.sc = sc ∧ !b.met then some b.n else none else []
  s.cores.flatMap fun (k, c) =>
    if groupOf sc k = g then (match c.task with
      | some t => of t
      | none => []) ++ c.saved.flatMap fun y => of y.task
    else []

/-- A wait marked as met if it is at the barrier given. -/
def meetBarg (lid : Nat) (sc : BScope) (g n : Nat) (w : Option WaitRec) : Option WaitRec :=
  w.map fun w => match w.kind with
    | .barg sc' l g' n' => if sc' = sc ∧ l = lid ∧ g' = g ∧ n' = n then { w with met := true } else w
    | _ => w

/-- A task's arrival at the `n`-th barrier of a scope marked as met. -/
def Task.meetBarg (t : Task) (lid : Nat) (sc : BScope) (n : Nat) : Task :=
  if t.lid = lid then { t with bars := t.bars.map fun (b : BarEnt) => if b.sc = sc ∧ b.n = n then { b with met := true } else b } else t

/-- A task out of its core as the barrier completes. -/
def Saved.meetBarg (cyc lid : Nat) (sc : BScope) (g n : Nat) (y : Saved) : Saved :=
  let w := Machine.meetBarg lid sc g n y.wait
  { y with task := y.task.meetBarg lid sc n, wait := w, since := if w = y.wait then y.since else cyc }

/-- A core of the group as the barrier completes: the arrivals and waits of its tasks marked. -/
def Core.meetBarg (cyc lid : Nat) (sc : BScope) (g n : Nat) (c : Core) : Core :=
  { c with task := c.task.map fun t => t.meetBarg lid sc n
           wait := Machine.meetBarg lid sc g n c.wait
           saved := c.saved.map (Saved.meetBarg cyc lid sc g n) }

/-- Whether the tasks of a serial re-execution that have not started yet leave a group complete (R337). -/
def nextAllowed (x : Launch) (sc : BScope) (g : Nat) : Bool :=
  match x.phase with
  | .reexec => (tabulate id x.next (x.runCount - x.next)).all fun n =>
      groupOf sc (((x.runTask n).bind fun i => x.assign[i]?).getD 0) != g
  | _ => true

/-- Whether the barrier of a group is complete: the number of the BARG that completes. -/
def barrierReady (s : State) (lid : Nat) (sc : BScope) (g : Nat) : Option Nat :=
  match leastOf (bargWaits s lid sc g), SMap.find s.launches lid with
  | some n, some x =>
    if nextAllowed x sc g && s.cores.all fun (k, _) => groupOf sc k != g || coreArrived s k lid sc n then some n else none
  | _, _ => none

/-- BARRIER_COMPLETE (R90, R92): every member's bundle may issue from this cycle on; a launch-wide barrier of a launch
that declares supersteps begins its other phase. R92's launch-wide BARG is BARG.LAUNCH alone (DESIGN CHOICE, log 56). In a
launch of several devices the members elsewhere are the environment's, which says when it completes (R376). -/
def barrierComplete (s : State) (lid : Nat) (sc : BScope) (g : Nat) : Option State :=
  match barrierReady s lid sc g with
  | none => none
  | some n =>
    let s := { s with cores := s.cores.map fun (k, c) => (k, if groupOf sc k = g then Core.meetBarg s.cyc lid sc g n c else c) }
    some (s.onLaunch lid fun x => if sc = BScope.launch ∧ x.desc.super then { x with exchange := !x.exchange } else x)

/-! ## Asynchronous faults (R216, R324 to R326) -/

/-- The first report that matches, with the others. -/
def takeReport (core cause : Nat) (info : Word) : List Report → Option (Report × List Report)
  | [] => none
  | r :: rest =>
    if r.core = core ∧ r.cause = cause ∧ r.info = info then some (r, rest)
    else (takeReport core cause info rest).map fun (a, b) => (a, r :: b)

/-- A fault that reaches a task: the first eight are kept; a ninth stops a task that holds its core, and is kept for the
return of one that is out (R325). -/
def arrive (s : State) (k uid : Nat) (f : AFault) : State :=
  match s.mach k with
  | some m =>
    if m.t.uid = uid then
      (if m.t.faults.length < 8 then (m.onT fun t => { t with faults := t.faults ++ [f] }).put
       else m.stop f.cause f.info m.t.pc m.t.iter)
    else s.setCore k (m.c.onUid uid fun t =>
      if t.faults.length < 8 then { t with faults := t.faults ++ [f] }
      else if t.ninth.isNone then { t with ninth := some f } else t)
  | none => s.setCore k ((s.core k).onUid uid fun t =>
      if t.faults.length < 8 then { t with faults := t.faults ++ [f] }
      else if t.ninth.isNone then { t with ninth := some f } else t)

/-- ASYNC_FAULT_REPORT: a fault of an engine operation reaches its core (R324, R325); or Fleus finds that the address a
suspended copy waits for lies outside every mapping of its launch, which ends the copy (R216, R326). -/
def asyncFaultReport (s : State) (k cause : Nat) (info : Word) : Option State :=
  match takeReport k cause info s.reports with
  | some (r, rest) =>
    let s := { s with reports := rest }
    some (if (s.core k).hasUid r.uid then arrive s k r.uid ⟨cause, info⟩ else s)
  | none => if cause = Cause.pageFault then copyUnmapped s k info.toNat else none

/-- ASYNC_FAULT_DELIVERY on core `k` (R325): the oldest pending fault, at a bundle boundary in user mode; during END's
wait once it ends; not while a barrier holds the bundle. -/
def asyncFaultDelivery (s : State) (k : Nat) : Option State :=
  match s.mach k with
  | none => none
  | some m =>
    match m.t.faults with
    | [] => none
    | f :: rest =>
      let atBarrier := match m.c.wait with
        | some ⟨.barg .., _, _, _⟩ => true
        | _ => false
      if m.t.x.sv || m.t.iter != 0 || atBarrier || decide (s.cyc < m.c.ready) || (m.c.ended && !endReady s k m.c m.t) then none
      else
        let m' := m.onT fun t => { t with faults := rest }
        some (takeTrap m' f.cause f.info ⟨true, !rest.isEmpty, m.c.ended⟩ m.t.pc 0)

/-! ## FIFO relief (R95) -/

/-- Whether the task of a core stalls on a FIFO bank, a counter, which WAITA may poll too (R237), or a barrier. -/
def Core.blocked (c : Core) : Bool :=
  c.fifoWait.isSome || match c.wait with
    | some w => !w.met && match w.kind with
      | .cwait .. => true
      | .barg .. => true
      | .waita _ pa _ _ => regionOf pa == .counter
      | _ => false
    | none => false

/-- Whether a copy queue is blocked: an empty one has nothing to run, and an operation that R92 holds waits for a barrier. -/
def queueBlocked (s : State) (q : List CopyOp) : Bool :=
  match q with
  | [] => true
  | o :: _ => o.stage == .queued && o.held && heldPhase s o.lid

/-- The cores of a cluster. -/
def coresOf (cl : Nat) : List Nat := tabulate id (8 * cl) 8

/-- The full FIFO of a cluster, by size and then number the smallest. One with free entries, but too few for the rows of a push,
is not full, and rows on their way into it count as entries (DESIGN CHOICE, log 67). -/
def fullFifo (s : State) (cl : Nat) : Option Nat :=
  let fs := (tabulate id (16 * cl) 12).filter fun n =>
    (s.bank n).mode == .fifo && decide (fifoRoom s n ≤ (s.bank n).fifo.length + fifoComing s n)
  fs.foldl (fun a n => match a with
    | some b => if fifoRoom s n < fifoRoom s b then some n else some b
    | none => some n) none

/-- A lowest bank of the relief pool: among 0 to 11, in reserve mode and not on loan. -/
def reliefBank (s : State) (cl : Nat) : Option Nat :=
  (tabulate id (16 * cl) 12).find? fun n => (s.bank n).mode == .reserve && (s.bank n).lent.isNone

/-- The cores of a cluster that run a task. -/
def runningCores (s : State) (cl : Nat) : List Nat := (coresOf cl).filter fun k => (s.core k).task.isSome

/-- Whether every unit of a cluster is blocked and some FIFO bank of it is full (R95). -/
def State.stuck (s : State) (cl : Nat) : Bool :=
  (fullFifo s cl).isSome && !(runningCores s cl).isEmpty && (runningCores s cl).all (fun k => (s.core k).blocked) &&
    (coresOf cl).all fun k => queueBlocked s (s.core k).cq0 && queueBlocked s (s.core k).cq1

/-- The clusters with entries in a FIFO. -/
def fifoClusters (s : State) : List Nat := clustersOf ((s.banks.filter fun e => !e.2.fifo.isEmpty).map fun e => e.1 / 16 * 8)

/-- The clusters that are blocked with a full FIFO at the end of this cycle, each with the cycle since which it has been. -/
def State.noteStuck (s : State) : State :=
  { s with relief := ((fifoClusters s).filter s.stuck).map fun cl => (cl, (SMap.find s.relief cl).getD s.cyc) }

/-- FIFO_RELIEF of a cluster (R95), blocked for 1,024 cycles: the smallest full FIFO takes a bank of the pool; with none left every
blocked task traps FIFO_EXHAUSTED. The blocked state is then counted anew. -/
def fifoRelief (s : State) (cl : Nat) : Option State :=
  match SMap.find s.relief cl, fullFifo s cl with
  | some since, some n =>
    if s.cyc < since + 1024 ∨ !s.stuck cl then none
    else
      let s := { s with relief := SMap.del s.relief cl }
      match reliefBank s cl with
      | some b => some (s.setBank b { s.bank b with lent := some n })
      | none => some ((runningCores s cl).foldl (fun s k => match s.mach k with
        | some m => takeTrap m Cause.fifoExhausted (natW (n % 16)) TrapKind.precise m.t.pc m.t.iter
        | none => s) s)
  | _, _ => none

end Sys2Proof.Machine
end

