-- ==== Sys2Proof/Machine/VeilMath.lean ====
section
/-! DEFINITION. What the Veil engine computes: unitary transforms in fixed point with 276 fraction bits, far below the
analogue error, and the bounds that the error keeps (R249, R250, R254,
R265). -/

namespace Sys2Proof.Machine

/-- A complex number as numerators over 2^276. -/
abbrev Cplx := Int × Int

/-- The fraction bits of a value. -/
def veilBits : Nat := 276
/-- The fraction bits of a root of unity. -/
def rootBits : Nat := 144

/-- The square root of a number with `rootBits` fraction bits. -/
def fixSqrt (x : Int) : Int := Nat.sqrt ((x * 2 ^ rootBits).toNat)

/-- Cosine and sine of half an angle in the first quadrant. -/
def halfAngle (c : Int) : Int × Int :=
  let one : Int := 2 ^ rootBits
  (fixSqrt ((one + c) / 2), fixSqrt ((one - c) / 2))

/-- e^(−2πi/n) for n = 2^L: L = 2 gives −i, each further L halves the angle. -/
def rootOf : Nat → Int × Int
  | 0 => (2 ^ rootBits, 0)
  | 1 => (-(2 ^ rootBits), 0)
  | 2 => (0, -(2 ^ rootBits))
  | n + 1 =>
    let (c, _) := rootOf n
    let (c', s') := halfAngle c
    (c', -s')

/-- A product with a root of unity. -/
def mulRoot (a : Cplx) (w : Int × Int) : Cplx :=
  ((a.1 * w.1 - a.2 * w.2) / 2 ^ rootBits, (a.1 * w.2 + a.2 * w.1) / 2 ^ rootBits)

/-- The powers of a root, `n` of them from `z` on. -/
def powers (w : Int × Int) (z : Int × Int) : Nat → List (Int × Int)
  | 0 => []
  | n + 1 => z :: powers w (mulRoot z w) n

/-- The sum of products of a line with the powers that index k picks. -/
def dftAt (roots : List (Int × Int)) (n k : Nat) (xs : List Cplx) : Cplx :=
  ((tabulate id 0 n).zip xs).foldl (fun a (i, x) =>
    let y := mulRoot x (roots.getD (i * k % n) (0, 0))
    (a.1 + y.1, a.2 + y.2)) (0, 0)

/-- A one-dimensional transform without its scale. -/
def dft1 (roots : List (Int × Int)) (n : Nat) (xs : List Cplx) : List Cplx := tabulate (fun k => dftAt roots n k xs) 0 n

/-- Columns of a square grid. -/
def columns (n : Nat) (g : List (List Cplx)) : List (List Cplx) :=
  tabulate (fun j => g.map fun row => row.getD j (0, 0)) 0 n

/-- The unitary two-dimensional transform of a grid of rows, forward or inverse (R250). -/
def dft2 (inverse : Bool) (logn : Nat) (g : List (List Cplx)) : List (List Cplx) :=
  let n := 2 ^ logn
  let (c, s) := rootOf logn
  let roots := powers (c, if inverse then -s else s) (2 ^ rootBits, 0) n
  let cols := (columns n (g.map (dft1 roots n))).map (dft1 roots n)
  (columns n cols).map fun row => row.map fun z => (z.1 / 2 ^ logn, z.2 / 2 ^ logn)

/-- An exact value times 2^sh as a numerator over 2^276; the values of R249 lose no bit. -/
def toFix (v : FVal) (sh : Int) : Int :=
  match v with
  | .fin s m e =>
    let k := e + sh + veilBits
    let a : Nat := if 0 ≤ k then m * 2 ^ k.toNat else m / 2 ^ (-k).toNat
    if s then -(a : Int) else a
  | _ => 0

/-- A numerator over 2^276, times 2^sh, as an exact value. -/
def ofFix (v : Int) (sh : Int) : FVal := .fin (decide (v < 0)) v.natAbs (sh - veilBits)

/-- |z|² as a numerator over 2^276. -/
def normSq (z : Cplx) : Int := (z.1 * z.1 + z.2 * z.2) / 2 ^ veilBits

/-- Whether |u|² ≤ 1, exactly (R249, R253): its square as a numerator over 2^552. -/
def inUnit (z : Cplx) : Bool := decide (z.1 * z.1 + z.2 * z.2 ≤ 2 ^ (2 * veilBits))

/-- The product of two grids, element by element (R250). -/
def mulGrid (a b : List (List Cplx)) : List (List Cplx) :=
  List.zipWith (fun r q => List.zipWith (fun x y =>
    ((x.1 * y.1 - x.2 * y.2) / 2 ^ veilBits, (x.1 * y.2 + x.2 * y.1) / 2 ^ veilBits)) r q) a b

/-- |z|² exactly, as a numerator over 2^552. -/
def cplxSq (z : Cplx) : Int := z.1 * z.1 + z.2 * z.2

/-- Whether the errors of a frame keep the bounds of R254 exactly: an error's square is a numerator over 2^552. `rms2` and
`max2` are twice the exponents of the table. -/
def errorOk (rms2 : Nat) (max2 : Option Nat) (es : List Cplx) : Bool :=
  decide (es.foldl (fun a e => a + cplxSq e) 0 ≤ 2 ^ (2 * veilBits - rms2) * es.length) &&
    (match max2 with
     | some k => es.all fun e => decide (cplxSq e ≤ 2 ^ (2 * veilBits - k))
     | none => true)

/-- The largest |z|² of a frame. -/
def topSq (zs : List Cplx) : Int := zs.foldl (fun a z => max a (cplxSq z)) 0

/-- What an engine can see of the conditions under which an OCONV contracts (R265): the largest input modulus is in [1/2, 1],
and the mask's dynamic range, taken before its rounding to CBF16, may be at most 2^6. -/
def contracts (mask us : List Cplx) : Bool :=
  decide (2 ^ (2 * veilBits - 2) ≤ topSq us) && mask.all fun z => decide (64 * topSq mask ≤ 4096 * 65 * cplxSq z)

/-- Whether errors leave an OCONV its contraction (R265): none above 2^−7 of the largest result, less a 64th; the rest of the
2^−6 is left to the mask's rounding (log 11). -/
def contractOk (ws es : List Cplx) : Bool := es.all fun e => decide (32 * 2 ^ 14 * cplxSq e ≤ 31 * topSq ws)

/-- The errors of a frame: the free values given, where they keep the bounds, else none (log 11). `ws` holds the exact results
of an OCONV that contracts. -/
def frameErrors (rec : Recovery) (ws : Option (List Cplx)) (es : List Cplx) : List Cplx :=
  let (r, m) := match rec with
    | .quad2 => (16, some 13)
    | .quad4 => (20, some 17)
    | .inten => (18, none)
  let small := match ws with
    | some ws => contractOk ws es
    | none => true
  if errorOk r m es && small then es else es.map fun _ => (0, 0)

end Sys2Proof.Machine
end

