-- ==== Sys2Proof/Machine/Veil.lean ====
section
/-! DEFINITION. The Veil engines: the O-slot operations, engine order and windows, masks, shots, calibration (R247 to
R262, R266 to R271). -/

namespace Sys2Proof.Machine

/-! ## The engine of a chiplet -/

/-- An engine as reset leaves it (log 5): never calibrated, so stale. -/
def Veil.start : Veil :=
  { serial := 0, calAt := none, limit := 100000, marks := [], plane := none, calBy := (0, none), ops := [], loads := [], served := none
    slotServed := none }

/-- The engine of chiplet `h`. -/
def State.veil (s : State) (h : Nat) : Veil := (SMap.find s.veils h).getD Veil.start
/-- That engine replaced. -/
def State.setVeil (s : State) (h : Nat) (v : Veil) : State := { s with veils := SMap.put s.veils h v }

/-- The die temperature (R255). -/
def Veil.temp (v : Veil) : Nat := match v.marks with
  | m :: _ => m.temp
  | [] => 0
/-- TEMP_CAL (R256). -/
def Veil.tempCal (v : Veil) : Nat := match v.marks with
  | m :: _ => m.tempCal
  | [] => 0

/-- The marks that the staleness checks of the next cycles can reach. -/
def pruneMarks (cyc : Nat) : List VeilMark → List VeilMark
  | [] => []
  | m :: ms => if m.since + 17 ≤ cyc then [m] else m :: pruneMarks cyc ms

/-- A new mark from this cycle on. -/
def Veil.mark (v : Veil) (cyc : Nat) (aged : Bool) (temp tempCal : Nat) : Veil :=
  { v with marks := pruneMarks cyc (⟨cyc, aged, temp, tempCal⟩ :: v.marks) }

/-- Whether a mark is stale (R256): aged past CAL_LIMIT, or more than 32 units from TEMP_CAL. -/
def VeilMark.stale (m : VeilMark) : Bool :=
  m.aged || decide (32 < m.temp - m.tempCal) || decide (32 < m.tempCal - m.temp)

/-- Whether an engine is stale at a cycle (R256). -/
def Veil.staleAt (v : Veil) (cyc : Nat) : Bool :=
  match v.marks.find? fun m => decide (m.since ≤ cyc) with
  | some m => m.stale
  | none => true

/-- µs since the last OCAL completed (R255). -/
def Veil.age (v : Veil) (cyc : Nat) : Nat := match v.calAt with
  | some c => (cyc - c) / 1800
  | none => 2 ^ 64 - 1

/-- An engine register as OSTAT reads it (R255). -/
def veilReg (s : State) (h : Nat) (r : OReg) : Word :=
  let v := s.veil h
  match r with
  | .calSerial => natW v.serial
  | .calAge => natW (v.age s.cyc)
  | .calLimit => natW v.limit
  | .temp => natW v.temp
  | .gainmapBase => natW (mapBase s.fl.resets (2 * h))
  | .phasemapBase => natW (mapBase s.fl.resets (2 * h + 1))
  | .refpower => Config.refPower (4 * s.cyc + h)

/-! ## Sizes and times (R247, R254, R258 to R260) -/

/-- The pixels P of an aperture's side (R247). -/
def Aperture.pixels : Aperture → Nat
  | .a256 => 256
  | .a64 => 64
  | .a16 => 16

/-- The frames of a shot (R247). -/
def Aperture.frames (a : Aperture) : Nat := 256 / Aperture.pixels a * (256 / Aperture.pixels a)

/-- The shot time T of a recovery mode (R254). -/
def Recovery.time : Recovery → Nat
  | .quad2 => 225
  | .quad4 => 450
  | .inten => 225

/-- The spacing of an operation's shots: a full shot's bytes over the die-to-die link may lengthen T (R254). -/
def shotTime (rec : Recovery) (frames n bytes : Nat) : Nat :=
  Nat.max (Recovery.time rec) (ceilDiv (frames * n * n * bytes) 1111)

/-- The eligible cores of a launch on a chiplet, in coordinate order (R85, R260). -/
def veilCores (s : State) (x : Launch) (h : Nat) : List Nat :=
  (tabulate id (128 * h) 128).filter fun k => SMap.get 0 s.fl.parts (clusterOf k) == x.part && bitAt x.desc.cmask (k % 8)

/-- The time-division schedule of a launch on an engine for one of its cores (R260): the launch's start, the length of a
round, the core's window in it, and where its calibration slot begins. -/
structure Sched where
  f0   : Nat
  len  : Nat
  win  : Nat
  slot : Nat
  deriving DecidableEq, Repr

/-- The place of an item in a list, or the list's length. -/
def indexOf (k : Nat) : List Nat → Nat
  | [] => 0
  | x :: xs => if x = k then 0 else indexOf k xs + 1

/-- The schedule of core `k` in launch `lid`. -/
def schedOf (s : State) (lid k : Nat) : Sched :=
  match SMap.find s.launches lid with
  | some x =>
    let ks := veilCores s x (chipletOf k)
    ⟨x.start, ks.length * 16384 + 73728, indexOf k ks * 16384, ks.length * 16384⟩
  | none => ⟨0, 90112, 0, 16384⟩

/-- The first moment at offset `off` of a round at or after `t`. -/
def Sched.next (d : Sched) (off t : Nat) : Nat :=
  let t := Nat.max t d.f0
  let m := d.f0 + (t - d.f0) / d.len * d.len + off
  if t ≤ m then m else m + d.len

/-- The first shot time of an operation with spacing `τ` at or after `t` (R260): window start + 2,700 + j × τ, for shots
that end within the window. -/
def Sched.shot (d : Sched) (tau t : Nat) : Nat :=
  let t := Nat.max t d.f0
  let w := d.f0 + (t - d.f0) / d.len * d.len + d.win
  let j := ceilDiv (t - (w + 2700)) tau
  if 2700 + (j + 1) * tau ≤ 16384 then w + 2700 + j * tau else w + d.len + 2700

/-- The time of the last of `n` + 1 shots, the first at `t`. -/
def Sched.last (d : Sched) (tau t : Nat) : Nat → Nat
  | 0 => t
  | n + 1 => d.last tau (d.shot tau (t + 1)) n

/-! ## Issue (R266 to R271) -/

/-- OMODE (R267). -/
def semOmode (_x : Ctx) (a : Aperture) (r : Recovery) : OpRes :=
  .ok fun m => m.onT fun t => { t with aperture := a, recovery := r }

/-- OSTAT (R255, R271): the value that the register holds at issue; that of REFPOWER, which is measured continuously, at a free
cycle from issue to landing. -/
def semOstat (x : Ctx) (d : SReg) (r : OReg) : OpRes :=
  if x.m.loadsFull then stall
  else .ok fun m =>
    let (k, m) := m.fresh
    match r with
    | .refpower => m.pollS (.ostat r) k d.toNat
    | _ => m.pendS (.ostat r) (1 + Config.extraLatency k) d.toNat (veilReg m.s (chipletOf m.s.cur) r)

/-- Whether every byte of a view that lies inside its tensor is scratchpad of chiplet `h` (R251). -/
def onChiplet (m : Mach) (h : Handle) (r : Record) : Bool :=
  let ok (a : Nat) : Bool :=
    let c := canon (clusterOf m.s.cur) m.s.devnum a
    regionOf c == .scratch && (c - 0x7F0000000000) / 2 ^ 28 == chipletOf m.s.cur
  (viewAddrs h r).all fun a => ok a && ok (a + (recFmt r).bits / 8 - 1)

/-- The O operations of a core that are outstanding (R242). -/
def veilCount (s : State) (k : Nat) : Nat := (s.veil (chipletOf k)).ops.countP fun o => o.core == k

/-- The core that holds a task. -/
def coreOfUid (s : State) (uid : Nat) : Option Nat := (s.cores.find? fun e => e.2.hasUid uid).map Prod.fst

/-- The core in whose windows a task's O operations run (R260). -/
def Mach.veilRoot (m : Mach) : Nat :=
  match m.t.parent with
  | none => m.s.cur
  | some p => (coreOfUid m.s (rootUid m.s 512 p)).getD m.s.cur

/-- A blank O operation of the task. -/
def VeilOp.new (m : Mach) (op : Instr) : VeilOp :=
  { id := 0, op := op, core := m.s.cur, root := m.veilRoot, uid := m.t.uid, lid := m.t.lid, hd := 0, hs := 0, rd := 0, rs := 0
    ctr := none, promise := none, ptb := m.t.x.ptb, te := m.t.x.te, dm := m.t.x.dm, ex := 0, logn := 0, ap := m.t.aperture
    recovery := m.t.recovery, desc := none, shots := 0, time := 1, issue := m.s.cyc, begin := 0, start := 0, fired := 0
    flying := [], bad := none }

/-- The promise of an O operation with S at `s` (R259, R260), and in D-mode when its first step is due. In D-mode an operation
without a shot, whose completion R260 does not give, promises S (log 71). -/
def veilPromise (st : State) (o : VeilOp) (s : Nat) : Nat × Nat :=
  let d := schedOf st o.lid o.root
  match o.op with
  | .omask .. => if o.dm then (let w := d.next d.win s; (w + 2700, w + 2700)) else (s + 2700, 0)
  | .ocal .. => if o.dm then (let w := d.next d.slot s; (w + 72000, w + 72000)) else (s + 72000, 0)
  | _ =>
    if !o.dm then (s + 1080 + o.shots * o.time - o.time, 0)
    else if o.shots = 0 then (s, s)
    else (let f := d.shot o.time s; (d.last o.time f (o.shots - 1) + 1080, f))

/-- The promise that the next O operation of task `uid` follows: what its core holds for it while it is out, else the core's own
(R260, R329). -/
def Core.opromOf (c : Core) (uid : Nat) : Nat :=
  match c.saved.find? fun y => y.task.uid == uid with
  | some y => y.oprom
  | none => c.oprom

/-- That promise replaced. -/
def Core.setOprom (uid p : Nat) (c : Core) : Core :=
  if c.saved.any fun y => y.task.uid == uid then
    { c with saved := c.saved.map fun y => if y.task.uid = uid then { y with oprom := p } else y }
  else { c with oprom := p }

/-- An O operation that joins the engine order (R258 to R260): it forks, takes its promise, in D-mode behind those of the task at
the root of its chain, and in F-mode begins at once where no other is before it. -/
def veilJoin (prm : SReg) (o : VeilOp) : Act := fun m =>
  let (id, m) := m.uid
  let m := m.fork id
  let owner := if o.dm then o.root else m.s.cur
  let root := if o.dm then rootUid m.s 512 m.t.uid else m.t.uid
  let prev := (if owner = m.s.cur then m.c else m.s.core owner).opromOf root
  let s := Nat.max (m.s.cyc + 1) prev
  let (p, due) := veilPromise m.s o s
  let h := chipletOf m.s.cur
  let v := m.s.veil h
  let start := if o.dm then due else if v.ops.any fun y => !y.dm then 0 else m.s.cyc + 1
  let o := { o with id := id, begin := s, start := start, promise := if prm = 0 then none else some p }
  let m := m.onS fun s => s.setVeil h { v with ops := v.ops ++ [o] }
  let m := if owner = m.s.cur then m.onC (Core.setOprom root p)
    else m.onS fun s => s.setCore owner ((s.core owner).setOprom root p)
  if prm = 0 then m else m.flyS 1 prm.toNat (natW p)

/-- The counter of an O operation's cnt field. -/
def Ctx.ctr (x : Ctx) (e : PrmCnt) : Option Nat := ctrOf e.cnt (x.s e.cnt)

/-- OMASK (R268): the view that passes replaces the core's descriptor at issue. -/
def semOmask (x : Ctx) (op : Instr) (h : HReg) (e : PrmCnt) : OpRes :=
  let v := x.h h
  match views x.m [v] with
  | .error r => r
  | .ok rs =>
    let r := rs.getD 0 0
    let n := hExt v 0
    let l := Nat.log2 n
    if recFmt r ≠ 14 ∨ hExt v 1 ≠ n ∨ n ≠ 2 ^ l ∨ l < 2 ∨ 8 < l ∨ effExt v r 0 ≠ n ∨ effExt v r 1 ≠ n ∨ effExt v r 2 ≠ 1 ∨
        effExt v r 3 ≠ 1 ∨ !onChiplet x.m v r then ill4
    else if 16 ≤ veilCount x.m.s x.m.s.cur then stall
    else .ok fun m =>
      let (id, m) := m.uid
      let d : MaskDesc := ⟨id, v, r, n⟩
      veilJoin e.prm { VeilOp.new m op with hs := v, rs := r, logn := l, ctr := x.ctr e, desc := some d }
        (m.onC fun c => { c with mask := some d })

/-- Whether the views of a transform break R251. -/
def framesBad (x : Ctx) (hd : Handle) (rd : Record) (hs : Handle) (rs : Record) (n : Nat) : Bool :=
  let inten := x.m.t.recovery == .inten
  let srcOk := recFmt rs == 1 || recFmt rs == 2 || recFmt rs == 13 || recFmt rs == 14
  let dstOk := if inten then recFmt rd == 1 || recFmt rd == 2 else recFmt rd == 13 || recFmt rd == 14
  effExt hs rs 0 != n || effExt hs rs 1 != n || !sameExt hd rd hs rs || !srcOk || !dstOk || !onChiplet x.m hs rs ||
    !onChiplet x.m hd rd || decide (Aperture.pixels x.m.t.aperture < n)

/-- OFT, OIFT and OCONV (R251, R269). The cycle of the staleness check is free, but no earlier than a calibration that the
task has joined (R256, R270). -/
def transform (x : Ctx) (op : Instr) (d s : HReg) (ex : SReg) (e : PrmCnt) (logn : BitVec 4) : OpRes :=
  let hd := x.h d
  let hs := x.h s
  let n := 2 ^ logn.toNat
  match views x.m [hd, hs] with
  | .error r => r
  | .ok rs =>
    let rd := rs.getD 0 0
    let r2 := rs.getD 1 0
    let k := (x.s ex).toInt
    let v := x.m.s.veil (chipletOf x.m.s.cur)
    let back := Config.staleLookback (512 * x.m.s.cyc + x.m.s.cur) % 17
    if k < -126 ∨ 127 < k then ill4
    else if framesBad x hd rd hs r2 n then ill4
    else if v.staleAt (Nat.max (x.m.s.cyc - back) (Nat.min x.m.s.cyc x.m.t.joined)) then .trap Cause.veilStaleCal (natW v.serial)
    else if 16 ≤ veilCount x.m.s x.m.s.cur then stall
    else .ok fun m =>
      let frames := effExt hs r2 2 * effExt hs r2 3
      let fps := Aperture.frames m.t.aperture
      let bytes := Nat.max ((recFmt rd).bits / 8) ((recFmt r2).bits / 8)
      let full := Nat.min fps frames
      veilJoin e.prm
        { VeilOp.new m op with
          hd := hd, hs := hs, rd := rd, rs := r2, ctr := x.ctr e, ex := k, logn := logn.toNat, desc := m.c.mask
          shots := ceilDiv frames fps, time := shotTime m.t.recovery full n bytes } m

def semOft (x : Ctx) (op : Instr) (d s : HReg) (ex : SReg) (e : PrmCnt) (n : BitVec 4) : OpRes := transform x op d s ex e n
def semOift (x : Ctx) (op : Instr) (d s : HReg) (ex : SReg) (e : PrmCnt) (n : BitVec 4) : OpRes := transform x op d s ex e n
def semOconv (x : Ctx) (op : Instr) (d s : HReg) (ex : SReg) (e : PrmCnt) (n : BitVec 4) : OpRes := transform x op d s ex e n

/-- OCAL (R270). -/
def semOcal (x : Ctx) (op : Instr) (e : PrmCnt) : OpRes :=
  if 16 ≤ veilCount x.m.s x.m.s.cur then stall
  else .ok fun m => veilJoin e.prm { VeilOp.new m op with ctr := x.ctr e } m

/-! ## The engine's current operation -/

/-- An operation of an engine replaced. -/
def Veil.setOp (v : Veil) (o : VeilOp) : Veil := { v with ops := v.ops.map fun y => if y.id = o.id then o else y }

/-- The operations that may act: the oldest in F-mode, and of each window's owner the oldest in D-mode. -/
def Veil.heads (v : Veil) : List VeilOp :=
  v.ops.filter fun o =>
    ((v.ops.filter fun y => y.dm == o.dm && (!o.dm || (y.root == o.root && y.lid == o.lid))).head?).map VeilOp.id == some o.id

/-- An operation that leaves the engine order; the next F-mode one begins (R258). -/
def Veil.leave (v : Veil) (cyc : Nat) (o : VeilOp) : Veil :=
  let ops := v.ops.filter fun y => y.id != o.id
  let next := (ops.find? fun y => !y.dm).map VeilOp.id
  { v with ops := if o.dm then ops else
      ops.map fun y => if some y.id = next then { y with start := Nat.max (y.issue + 1) cyc } else y }

/-- An operation completed, with its counter addition, or ended in its fault (R216, R252, R258). -/
def veilEnd (s : State) (h : Nat) (o : VeilOp) : State :=
  let s := s.setVeil h ((s.veil h).leave s.cyc o)
  let s := if o.uid = 0 then s else s.setCore o.core ((s.core o.core).joined o.id)
  match o.bad with
  | some f => s.report o.core o.uid f.cause f.info
  | none => s.sendDone o.ctr 1 o.core o.uid

/-- An operation that ends in a fault now. -/
def veilFail (s : State) (h : Nat) (o : VeilOp) (cause : Nat) (info : Word) : State :=
  veilEnd s h { o with bad := some ⟨cause, info⟩ }

/-! ## Elements (R249, R253) -/

/-- An element read: where, its pattern, whether an uncorrectable error lies in it. One outside the tensor, which reads as
fill, has the address that R192 gives its position. -/
structure VElem where
  va  : Nat
  raw : Nat
  bad : Bool
  deriving DecidableEq, Repr

/-- The in-tensor addresses of positions, in order. -/
def elemAddrs (r : Record) (ps : List Pos) : List Nat := ps.filterMap fun p => (locate r p).map Prod.fst

/-- The elements at positions of a view, read through a fork, with fill outside the tensor (R193, R209). -/
def readElems (s : State) (core id : Nat) (r : Record) (m : List (Nat × Nat)) (ps : List Pos) : List VElem :=
  ps.map fun p => match locate r p with
    | some l =>
      let pa := physIn m l.1
      let n := (recFmt r).bits / 8
      ⟨l.1, (s.core core).forkNat s id pa n, s.badRange pa n⟩
    | none => ⟨wrap 64 (runBase r p + Pos.at p 0 * recStride r 0), fillOf r, false⟩

/-- The parts of an element as exact values; a real one has imaginary part +0 (R249). -/
def elemParts (f : Fmt) (raw : Nat) : FVal × FVal :=
  if Fmt.inC f then
    let p := partFmt f
    (decodeF p (field raw 0 p.bits), decodeF p (field raw p.bits p.bits))
  else (decodeF f raw, .zero)

/-- An element normalised by 2^−s, with whether it breaks |u| ≤ 1 (R249, R253). -/
def elemVal (f : Fmt) (s : Int) (raw : Nat) : Cplx × Bool :=
  let (a, b) := elemParts f raw
  let fin (v : FVal) : Bool := match v with
    | .fin .. => true
    | _ => false
  let big (v : FVal) : Bool := match v with
    | .fin _ m e => m != 0 && decide (1 ≤ floorLog2 m e - s)
    | _ => true
  let z : Cplx := (toFix a (-s), toFix b (-s))
  (z, !fin a || !fin b || big a || big b || !inUnit z)

/-- The positions of frame `f` of a view, rows i with j inside (R251). -/
def framePos (h : Handle) (r : Record) (n f : Nat) : List Pos :=
  let e2 := effExt h r 2
  (tabulate id 0 n).flatMap fun i => (tabulate id 0 n).map fun j =>
    posOf h r ((i : Nat), (j : Nat), (f % e2 : Nat), (f / e2 : Nat))

/-- The same positions in memory order, d0 fastest, by which the first offending element is found. -/
def framePosOrd (h : Handle) (r : Record) (n f : Nat) : List Pos :=
  let e2 := effExt h r 2
  (tabulate id 0 n).flatMap fun j => (tabulate id 0 n).map fun i =>
    posOf h r ((i : Nat), (j : Nat), (f % e2 : Nat), (f / e2 : Nat))

/-! ## Masks (R253, R268) -/

/-- The mask plane loaded from a core's descriptor: the elements, and the fault of the first in memory order that has an
uncorrectable error or breaks the bound (R216, R253). A fault of the loading's translation is the second component. -/
def loadPlane (s : State) (core id : Nat) (ptb : Word) (d : MaskDesc) : Except EFault Plane :=
  let ps := framePos d.view d.rec_ d.n 0
  let vas := elemAddrs d.rec_ ps
  match engXlats s core ptb true false vas with
  | .error e => .error e
  | .ok pas =>
    let es := readElems s core id d.rec_ (vas.zip pas) ps
    let ord := readElems s core id d.rec_ (vas.zip pas) (framePosOrd d.view d.rec_ d.n 0)
    .ok ⟨d, es.map VElem.raw, (ord.find? fun e => e.bad || (elemVal (recFmt d.rec_) 0 e.raw).2).map fun e =>
      ⟨if e.bad then Cause.eccUncorr else Cause.veilRange, natW e.va⟩⟩

/-- A descriptor cleared wherever it still stands: on the core, with a task that is out of it, and for the OCONVs queued
(R253). -/
def clearMask (s : State) (h core id : Nat) : State :=
  let drop (o : Option MaskDesc) : Option MaskDesc := o.filter fun d => d.id != id
  let c := s.core core
  let v := s.veil h
  (s.setCore core { c with mask := drop c.mask, saved := c.saved.map fun (y : Saved) => { y with mask := drop y.mask } }).setVeil h
    { v with ops := v.ops.map fun (o : VeilOp) => { o with desc := drop o.desc } }

/-- Whether the plane holds what an OCONV needs. -/
def Veil.holds (v : Veil) (o : VeilOp) : Bool :=
  match v.plane, o.desc with
  | some p, some d => p.desc == d
  | _, _ => false

/-- Whether an OCONV has no mask, or one of another size (R253). -/
def noMask (o : VeilOp) : Bool :=
  match o.desc with
  | some d => d.n != 2 ^ o.logn
  | none => true

/-- Whether an operation is an OCONV. -/
def VeilOp.isConv (o : VeilOp) : Bool := match o.op with
  | .oconv .. => true
  | _ => false
/-- Whether an operation is an OMASK. -/
def VeilOp.isMask (o : VeilOp) : Bool := match o.op with
  | .omask .. => true
  | _ => false
/-- Whether an operation is an OCAL. -/
def VeilOp.isCal (o : VeilOp) : Bool := match o.op with
  | .veilCal .. => true
  | .ocal .. => true
  | _ => false

/-- An operation that a fault of its mask load ends: one that breaks the bound clears the descriptor (R253). -/
def maskFail (s : State) (h : Nat) (o : VeilOp) (d : MaskDesc) (f : AFault) : State :=
  veilFail (if f.cause = Cause.veilRange then clearMask s h o.core d.id else s) h o f.cause f.info

/-- An OMASK whose load is done: it completes, or ends in its fault (R253). -/
def maskDone (s : State) (h : Nat) (o : VeilOp) (p : Plane) : State :=
  let s := s.setVeil h { s.veil h with plane := some p }
  match p.bad with
  | some f => maskFail s h o p.desc f
  | none => veilEnd s h o

/-- An OCONV whose mask reload is done: its next shot may fire from this cycle on, or it ends in the reload's fault (R253). -/
def reloadDone (s : State) (h : Nat) (o : VeilOp) (p : Plane) : State :=
  let s := s.setVeil h { s.veil h with plane := some p }
  match p.bad with
  | some f => maskFail s h o p.desc f
  | none => s.setVeil h ((s.veil h).setOp { o with start := s.cyc - o.fired * o.time })

/-- A fault of a translation; an absent page waits for its translation as a copy does (R216). -/
def veilFault (s : State) (h : Nat) (o : VeilOp) : EFault → Option State
  | .page va => if covers o.lid va then none else some (veilFail s h o Cause.pageFault (natW va))
  | .fault c i => some (veilFail s h o c i)

/-- A mask load of operation `o` that is due: OMASK's own, or the reload before the next shots of an F-mode OCONV whose mask
the plane does not hold. -/
def maskStep (s : State) (h : Nat) (o : VeilOp) : Option State :=
  let due := if o.dm then o.start else o.start + o.fired * o.time + 2700
  if s.cyc < due then none else
  match o.desc with
  | none => none
  | some d =>
    let done : Option (Plane → State) :=
      if o.isMask then some (maskDone s h o)
      else if o.isConv && !o.dm && decide (o.fired < o.shots) && !(s.veil h).holds o && !noMask o then some (reloadDone s h o)
      else none
    done.bind fun k => match loadPlane s o.core o.id o.ptb d with
      | .error e => veilFault s h o e
      | .ok p => some (k p)

/-- The load at the start of a window of core `k` done: the plane holds its descriptor's mask (R260). -/
def windowLoad (s : State) (h k : Nat) : State :=
  match (s.core k).mask, (s.core k).task with
  | some d, some t => match loadPlane s k 0 t.x.ptb d with
    | .ok p => s.setVeil h { s.veil h with plane := some p }
    | .error _ => s
  | _, _ => s

/-- VEIL_MASK_LOADED (R253, R258, R260). -/
def veilMaskLoaded (s : State) (h : Nat) : Option State :=
  let v := s.veil h
  match v.loads.find? fun e => decide (e.2 ≤ s.cyc) with
  | some (k, due) => some (windowLoad (s.setVeil h { v with loads := v.loads.filter fun e => e != (k, due) }) h k)
  | none => v.heads.findSome? fun o => maskStep s h o

/-! ## Shots (R248 to R252, R254, R258) -/

/-- The frames of a shot. -/
def shotFrames (o : VeilOp) : List Nat :=
  let fps := Aperture.frames o.ap
  let all := effExt o.hs o.rs 2 * effExt o.hs o.rs 3
  tabulate id (o.fired * fps) (Nat.min fps (all - o.fired * fps))

/-- `n` rows of `n` items. -/
def rowsOf {α : Type} (n : Nat) (xs : List α) : List (List α) := pieces n n xs

/-- The exact result w of a frame (R250): `mask` holds the mask elements of an OCONV. -/
def frameOut (o : VeilOp) (mask : List Nat) (us : List Cplx) : List Cplx :=
  let n := 2 ^ o.logn
  let g := rowsOf n us
  let w := match o.op with
    | .oft .. => dft2 false o.logn g
    | .oift .. => dft2 true o.logn g
    | _ => dft2 true o.logn (mulGrid (rowsOf n (mask.map fun e => (elemVal 14 0 e).1)) (dft2 false o.logn g))
  w.flatten

/-- An output element (R250): the estimate, or under INTEN its squared modulus with its own error, scaled and rounded. -/
def outElem (o : VeilOp) (w e : Cplx) : Nat :=
  match o.recovery with
  | .inten =>
    let p := normSq w + e.1
    roundF (recFmt o.rd) (ofFix (if p < 0 then normSq w else p) (2 * o.ex))
  | _ =>
    let f := partFmt (recFmt o.rd)
    roundF f (ofFix (w.1 + e.1) o.ex) + roundF f (ofFix (w.2 + e.2) o.ex) * 2 ^ f.bits

/-- The analogue errors that the free values from `k` on give a frame of inputs `us` with exact results `ws` (R254, R265). -/
def freeErrors (o : VeilOp) (mask : List Nat) (us ws : List Cplx) (k : Nat) : List Cplx :=
  let pass := o.isConv && o.recovery != .inten && recFmt o.rd == 13 && contracts (mask.map fun e => (elemVal 14 0 e).1) us
  frameErrors o.recovery (if pass then some ws else none)
    (tabulate (fun i => (Config.veilErrorRe i, if o.recovery = .inten then 0 else Config.veilErrorIm i)) k ws.length)

/-- The write units of a frame at its in-tensor positions. -/
def frameUnits (o : VeilOp) (m : List (Nat × Nat)) (f : Nat) (ys : List Nat) : List CUnit :=
  ((framePos o.hd o.rd (2 ^ o.logn) f).zip ys).filterMap fun (p, y) =>
    (locate o.rd p).map fun l => ⟨f, l.1, physIn m l.1, 0, (recFmt o.rd).bits, y, o.te⟩

/-- What a shot reads: its elements, frame by frame; or the fault it meets. -/
def shotRead (s : State) (o : VeilOp) (m : List (Nat × Nat)) (fs : List Nat) : Except AFault (List (List Cplx)) :=
  let n := 2 ^ o.logn
  let ord := fs.flatMap fun f => readElems s o.core o.id o.rs m (framePosOrd o.hs o.rs n f)
  let addr (e : VElem) : Word := natW e.va
  match ord.find? fun e => e.bad || (elemVal (recFmt o.rs) o.ex e.raw).2 with
  | some e => .error (if e.bad then ⟨Cause.eccUncorr, addr e⟩ else ⟨Cause.veilRange, addr e⟩)
  | none => .ok (fs.map fun f =>
      (readElems s o.core o.id o.rs m (framePos o.hs o.rs n f)).map fun e => (elemVal (recFmt o.rs) o.ex e.raw).1)

/-- A shot that fires: its frames are written 1,080 cycles later (R258). A shot with a bad element writes nothing and is
the operation's last (R252). -/
def fireShot (s : State) (h : Nat) (o : VeilOp) (mask : List Nat) (sm dm : List (Nat × Nat)) : State :=
  let fs := shotFrames o
  let next := if o.dm then (schedOf s o.lid o.root).shot o.time (s.cyc + 1) else s.cyc - o.fired * o.time
  match shotRead s o sm fs with
  | .error f =>
    let o := { o with shots := o.fired, bad := some f }
    if o.flying.isEmpty then veilEnd s h o else s.setVeil h ((s.veil h).setOp o)
  | .ok us =>
    let n := 2 ^ o.logn * 2 ^ o.logn
    let rows := ((tabulate id 0 fs.length).zip (fs.zip us)).flatMap fun (i, f, u) =>
      let w := frameOut o mask u
      frameUnits o dm f (List.zipWith (outElem o) w (freeErrors o mask u w (s.fresh + i * n)))
    let s := s.countDiscard (clusterOf o.core) o.lid (fs.length * n - rows.length)
    let o := { o with fired := o.fired + 1, start := next, flying := o.flying ++ [⟨s.cyc + 1080, rows⟩] }
    { s with fresh := s.fresh + fs.length * n }.setVeil h ((s.veil h).setOp o)

/-- The plane's elements for an OCONV; in D-mode a plane that holds another mask is filled anew as the shot fires. -/
def planeFor (s : State) (h : Nat) (o : VeilOp) (d : MaskDesc) : Except EFault Plane :=
  match (s.veil h).plane with
  | some p => if p.desc = d then .ok p else loadPlane s o.core o.id o.ptb d
  | none => loadPlane s o.core o.id o.ptb d

/-- A shot of operation `o` that is due. -/
def shotStep (s : State) (h : Nat) (o : VeilOp) : Option State :=
  let due := if o.dm then o.start else o.start + o.fired * o.time
  let moves := match o.op with
    | .oft .. => true
    | .oift .. => true
    | .oconv .. => true
    | _ => false
  if !moves || decide (o.shots ≤ o.fired) || decide (s.cyc < due) then none
  else if o.isConv && noMask o then some (veilFail s h o Cause.illOperand (illInfo 4))
  else if o.isConv && !o.dm && !(s.veil h).holds o then none
  else
    let n := 2 ^ o.logn
    let fs := shotFrames o
    let sv := fs.flatMap fun f => elemAddrs o.rs (framePosOrd o.hs o.rs n f)
    let dv := fs.flatMap fun f => elemAddrs o.rd (framePosOrd o.hd o.rd n f)
    match engXlats s o.core o.ptb true false sv, engXlats s o.core o.ptb false true dv with
    | .error e, _ => veilFault s h o e
    | _, .error e => veilFault s h o e
    | .ok sp, .ok dp =>
      match (if o.isConv then o.desc else none) with
      | some d =>
        match planeFor s h o d with
        | .error e => veilFault s h o e
        | .ok p =>
          let s := s.setVeil h { s.veil h with plane := some p }
          match p.bad with
          | some f => some (maskFail s h o d f)
          | none => some (fireShot s h o p.vals (sv.zip sp) (dv.zip dp))
      | none => some (fireShot s h o [] (sv.zip sp) (dv.zip dp))

/-- VEIL_SHOT (R252, R258, R260). -/
def veilShot (s : State) (h : Nat) : Option State := (s.veil h).heads.findSome? fun o => shotStep s h o

/-- A unit of a frame written, with its taint (R261); it folds into no digest. -/
def veilWrite (lid : Nat) (te : Bool) (s : State) (u : CUnit) : State :=
  s.writeTaint (some lid) u.pa ((leBytes (u.w / 8) u.val).map some) te

/-- The granules of a shot's frames set to the operation's taint (R261). -/
def veilTaint (s : State) (te : Bool) (us : List CUnit) : State :=
  { s with gtaint := us.foldl (fun g u => SMap.set false g (u.pa / 64) te) s.gtaint }

/-- A shot's units written: as far as the banks that they reach now accept them; the address of the first refused (R179). -/
def writeFrames (s : State) (o : VeilOp) (us : List CUnit) : State × Option Nat :=
  let bad := us.findIdx? fun u => !s.bankOk o.core u.pa
  let now := us.take (bad.getD us.length)
  (veilTaint (now.foldl (veilWrite o.lid o.te) s) o.te now, (bad.bind fun i => us[i]?).map CUnit.va)

/-- The frames of operation `o` that are due written, and the operation completed with its last (R258). -/
def writeStep (s : State) (h : Nat) (o : VeilOp) : Option State :=
  match o.flying with
  | f :: rest =>
    if s.cyc < f.due then none
    else
      let w := writeFrames s o f.units
      let o := { o with flying := rest }
      some (match w.2 with
        | some va => veilFail w.1 h o Cause.prot (natW va)
        | none => if rest.isEmpty && decide (o.shots ≤ o.fired) then veilEnd w.1 h o else w.1.setVeil h ((w.1.veil h).setOp o))
  | [] =>
    if o.shots = 0 ∧ o.start ≤ s.cyc ∧ !o.isMask ∧ !o.isCal then some (veilEnd s h o) else none

/-- VEIL_FRAMES_WRITTEN (R250, R258, R261). -/
def veilFramesWritten (s : State) (h : Nat) : Option State := (s.veil h).heads.findSome? fun o => writeStep s h o

/-! ## Calibration (R255 to R257, R270) -/

/-- Both maps of an engine rewritten with free values (R255, log 15), by an operation of launch `tag` if of any (R307). -/
def writeMaps (s : State) (h : Nat) (tag : Option Nat) : State :=
  let put (s : State) (i : Nat) : State :=
    let f := s.fresh
    { s with fresh := f + 262144 }.writeAll tag (mapBase s.fl.resets i) (tabulate Config.mapByte f 262144)
  put (put s (2 * h)) (2 * h + 1)

/-- The state that a calibration leaves: an OCAL, or Fleus's own, whose number of task is 0 (R257). -/
def calibrate (s : State) (h : Nat) (o : VeilOp) : State :=
  let v := s.veil h
  let v := { v with serial := v.serial + 1, calAt := some s.cyc, plane := none, calBy := (o.uid, o.ctr) }
  writeMaps (s.setVeil h (v.mark s.cyc false v.temp v.temp)) h (if o.uid = 0 then none else some o.lid)

/-- VEIL_CAL_COMPLETE (R257, R260). -/
def veilCalComplete (s : State) (h : Nat) : Option State :=
  ((s.veil h).heads.find? fun o => o.isCal && decide ((if o.dm then o.start else o.start + 72000) ≤ s.cyc)).map fun o =>
    veilEnd (calibrate s h o) h o

/-- CALIBRATION_STALE (R256): CAL_AGE has passed CAL_LIMIT. -/
def calibrationStale (s : State) (h : Nat) : Option State :=
  let v := s.veil h
  let fresh := match v.marks with
    | m :: _ => !m.aged
    | [] => false
  if fresh && decide (v.limit < v.age s.cyc) then some (s.setVeil h (v.mark s.cyc true v.temp v.tempCal)) else none

/-- DIE_TEMPERATURE_CHANGE (R256). -/
def temperature (s : State) (h temp : Nat) : State :=
  let v := s.veil h
  let aged := match v.marks with
    | m :: _ => m.aged
    | [] => true
  s.setVeil h (v.mark s.cyc aged temp v.tempCal)

/-! ## Windows (R260) -/

/-- The D-mode launches that run. -/
def dLaunches (s : State) : List Launch := (s.launches.filter fun (_, x) => x.live && x.desc.dmode).map Prod.snd

/-- The cores of a chiplet whose window starts in this cycle and that have a mask. -/
def windowCores (s : State) (h : Nat) : List Nat :=
  (dLaunches s).flatMap fun x => (veilCores s x h).filter fun k =>
    let d := schedOf s x.lid k
    (s.core k).mask.isSome && decide (d.f0 ≤ s.cyc) && d.next d.win s.cyc == s.cyc

/-- VEIL_WINDOW_START (R260): the owner's mask is loaded, in 2,700 cycles. -/
def veilWindowStart (s : State) (h : Nat) : Option State :=
  let v := s.veil h
  let ks := windowCores s h
  if ks.isEmpty || v.served == some s.cyc then none
  else some (s.setVeil h { v with served := some s.cyc, loads := v.loads ++ ks.map fun k => (k, s.cyc + 2700) })

/-- VEIL_CAL_SLOT_START (R260): an OCAL of the slot takes the mask plane. -/
def veilCalSlotStart (s : State) (h : Nat) : Option State :=
  let v := s.veil h
  let runs := v.heads.any fun o => o.isCal && o.dm && o.start == s.cyc + 72000
  if !runs || v.slotServed == some s.cyc then none
  else some (s.setVeil h { v with slotServed := some s.cyc, plane := none })

end Sys2Proof.Machine
end

