-- ==== Sys2Proof/Machine/Link.lean ====
section
/-! DEFINITION. Skovak links: the L-slot operations, matching, messages, time-outs, ports (R272 to R280, R359, R376). -/

namespace Sys2Proof.Machine

/-! ## The neighbour table and time-outs (R272, R277) -/

/-- A launch's table entry for a port. -/
def ringEntry (s : State) (lid p : Nat) : Nat :=
  match SMap.find s.launches lid with
  | some x => (SMap.get 0 x.ring p).toNat
  | none => 0

/-- DEST, DV, SRC and SV of an entry (R272). -/
def entDest (e : Nat) : Nat := field e 0 9
def entDv (e : Nat) : Bool := bitAt e 15
def entSrc (e : Nat) : Nat := field e 16 9
def entSv (e : Nat) : Bool := bitAt e 31

/-- The time-out of a launch on a port, in µs (R277). -/
def portTmo (s : State) (lid p : Nat) : Nat :=
  match SMap.find s.launches lid with
  | some x => SMap.get 10000 x.ltmo p
  | none => 10000

/-- The tag of a launch's messages (R376). -/
def dtagOf (s : State) (lid : Nat) : Nat :=
  match SMap.find s.launches lid with
  | some x => x.desc.dtag
  | none => 0

/-! ## Issue (R274 to R280) -/

/-- The L operations of a core that are outstanding (R242). -/
def linkCount (s : State) (k : Nat) : Nat := s.links.countP fun o => o.core == k

/-- A blank L operation of the task on a port. -/
def LinkOp.new (m : Mach) (op : Instr) (port : Nat) : LinkOp :=
  { id := 0, op := op, core := m.s.cur, uid := m.t.uid, lid := m.t.lid, dtag := dtagOf m.s m.t.lid, port := port, peer := 0
    h := 0, r := 0, addr := 0, len := 0, val := 0, ctr := none, promise := none, ptb := m.t.x.ptb, te := m.t.x.te
    dm := m.t.x.dm, tmo := portTmo m.s m.t.lid port, issue := m.s.cyc, begin := none, k := 0, moved := false, due := 0, wrote := [] }

/-- A port that is down stops an L operation at issue (R277). -/
def portDownAt (s : State) (p : Nat) : Bool := (s.port p).state == 0

/-- Whether an earlier operation of the same core and port is outstanding (R274). -/
def linkBlocked (links : List LinkOp) (core port : Nat) : Bool := links.any fun y => y.core == core && y.port == port

/-- Whether an operation receives. -/
def LinkOp.recv (o : LinkOp) : Bool := match o.op with
  | .lrecv .. => true
  | .lradd .. => true
  | .lqadd .. => true
  | _ => false

/-- Whether an operation is an LSEND. -/
def LinkOp.isSend (o : LinkOp) : Bool := match o.op with
  | .lsend .. => true
  | _ => false

/-- The count that numbers an operation: of the sends or the receives of its tag, port and other device (R274). -/
def LinkOp.count (o : LinkOp) : Nat := 2 * (32 * (512 * o.dtag + o.peer) + o.port) + o.recv.toNat

/-- The tag of a count. -/
def countTag (key : Nat) : Nat := key / 32768

/-- An operation that starts in the next cycle takes its number (R274). -/
def linkBegin (s : State) (o : LinkOp) : State × LinkOp :=
  let n := SMap.get 0 s.lcounts o.count
  ({ s with lcounts := SMap.set 0 s.lcounts o.count (n + 1) }, { o with begin := some (s.cyc + 1), k := n })

/-- An operation put behind the others: it starts at once unless an earlier one of its core holds the port. -/
def linkPush (s : State) (o : LinkOp) : State :=
  let (s, o) := if linkBlocked s.links o.core o.port then (s, o) else linkBegin s o
  { s with links := s.links ++ [o] }

/-- The message counts of a tag start anew; a message kept for a receive under the old counts is discarded (R273, R274). -/
def State.recount (s : State) (dtag : Nat) : State :=
  { s with lcounts := s.lcounts.filter fun e => countTag e.1 != dtag
           msgs := s.msgs.filter fun m => m.dtag != dtag }

/-- An L operation queued: it starts at once unless an earlier one of its core holds the port. In F-mode a message of
`bytes` takes its promise; in D-mode the promise is 0 and is not recorded (R274, R280). -/
def linkJoin (prm : SReg) (bytes : Nat) (o : LinkOp) : Act := fun m =>
  let (id, m) := m.uid
  let m := m.fork id
  let s := Nat.max (m.s.cyc + 1) (SMap.get 0 m.c.lprom o.port)
  let p := if o.dm then 0 else s + 3600 + ceilDiv (3 * ceilDiv bytes 64) 5
  let o := { o with id := id, promise := if prm = 0 ∨ o.dm then none else some p }
  let m := m.onS fun s => linkPush s o
  let m := m.onC fun c => { c with lprom := SMap.set 0 c.lprom o.port p }
  if prm = 0 then m else m.flyS 1 prm.toNat (natW p)

/-- The bytes of a view's message: packed for a sub-byte format (R275). -/
def messageBytes (h : Handle) (r : Record) : Nat := ceilDiv (viewCount h r * (recFmt r).bits) 8

/-- LSEND and LRECV (R275): `dev` and `ok` are the entry's device and its valid bit. -/
def sendRecv (x : Ctx) (op : Instr) (port : Nat) (h : HReg) (e : PrmCnt) (dev : Nat → Nat) (ok : Nat → Bool) : OpRes :=
  let v := x.h h
  match views x.m [v] with
  | .error r => r
  | .ok rs =>
    let r := rs.getD 0 0
    let ent := ringEntry x.m.s x.m.t.lid port
    if !ok ent then ill4
    else if portDownAt x.m.s port then .trap Cause.linkDown (natW port)
    else if 64 ≤ linkCount x.m.s x.m.s.cur then stall
    else .ok fun m => linkJoin e.prm (messageBytes v r)
      { LinkOp.new m op port with h := v, r := r, peer := dev ent, ctr := x.ctr e, len := messageBytes v r } m

def semLsend (x : Ctx) (op : Instr) (port : BitVec 5) (h : HReg) (e : PrmCnt) : OpRes :=
  sendRecv x op port.toNat h e entDest entDv
def semLrecv (x : Ctx) (op : Instr) (port : BitVec 5) (h : HReg) (e : PrmCnt) : OpRes :=
  sendRecv x op port.toNat h e entSrc entSv

/-- Whether `n` bytes from `a` on are scratchpad of the issuing chiplet. -/
def chipletRange (m : Mach) (a n : Nat) : Bool :=
  let ok (b : Nat) : Bool :=
    let c := canon (clusterOf m.s.cur) m.s.devnum b
    regionOf c == .scratch && (c - 0x7F0000000000) / 2 ^ 28 == chipletOf m.s.cur
  ok a && ok (a + n - 1) && isOwnView a == isOwnView (a + n - 1)

/-- LRADD and LQADD (R276): `wide` doubles the accumulator. -/
def accumulate (x : Ctx) (op : Instr) (port : Nat) (a l : SReg) (e : PrmCnt) (wide : Bool) : OpRes :=
  let ad := (x.s a).toNat
  let n := (x.s l).toNat
  let ent := ringEntry x.m.s x.m.t.lid port
  if ad % 64 ≠ 0 ∨ n % 64 ≠ 0 ∨ n < 64 ∨ 2 ^ 20 < n ∨ !chipletRange x.m ad (if wide then 2 * n else n) ∨ !entSv ent then ill4
  else if portDownAt x.m.s port then .trap Cause.linkDown (natW port)
  else if 64 ≤ linkCount x.m.s x.m.s.cur then stall
  else .ok fun m => linkJoin e.prm n
    { LinkOp.new m op port with peer := entSrc ent, ctr := x.ctr e, addr := ad, len := n } m

def semLradd (x : Ctx) (op : Instr) (port : BitVec 5) (a l : SReg) (e : PrmCnt) : OpRes :=
  accumulate x op port.toNat a l e false
def semLqadd (x : Ctx) (op : Instr) (port : BitVec 5) (a l : SReg) (e : PrmCnt) : OpRes :=
  accumulate x op port.toNat a l e true

/-- LTMO (R277). -/
def semLtmo (x : Ctx) (port : BitVec 5) (t : SReg) : OpRes :=
  let v := (x.s t).toNat
  if 1000000 < v then ill4
  else .ok fun m => m.onS fun s => s.onLaunch x.m.t.lid fun y =>
    { y with ltmo := SMap.set 10000 y.ltmo port.toNat (if v = 0 then 10000 else v) }

/-- Whether a table entry is refused: a reserved bit, or a valid device outside the domain of devices 0 to 511, which
its 9 bits never name (R272, R273, R359). -/
def entryBad (e : Nat) : Bool := field e 9 6 != 0 || field e 25 6 != 0 || field e 32 32 != 0

/-- LRING (R273): it stalls until the launch's L operations are done and the core's own earlier work has performed; the
table then changes as one, and the message counts start anew. -/
def semLring (x : Ctx) (a : SReg) : OpRes :=
  let ea := (x.s a).toNat
  match vecCheck x.m ea 64 (tabulate (fun i => (ea + 64 * i, 64)) 0 4) true false with
  | .stop r => r
  | .denied va => .trap Cause.prot (natW va)
  | .go ps =>
    if x.m.s.links.any (fun o => o.lid == x.m.t.lid) || !classesDone x.m.s x.m.s.cur x.m.c x.m.t 31 (x.m.s.cyc + 1) true then stall
    else
      let es := chunks 64 (leNat (ps.flatMap fun e => x.m.s.bytes e.1 64)) 32
      if es.any entryBad then ill4
      else .ok fun m => m.onS fun s =>
        (s.onLaunch x.m.t.lid fun y =>
          { y with ring := ((tabulate id 0 32).zip es).foldl (fun r (p, e) => SMap.set 0 r p (natW e)) [] }).recount (dtagOf s x.m.t.lid)

/-- LSTAT (R278): the word is read at a free cycle from issue to landing. -/
def semLstat (x : Ctx) (d : SReg) (port : BitVec 5) : OpRes :=
  if x.m.loadsFull then stall
  else .ok fun m =>
    let (k, m) := m.fresh
    m.pollS (.lstat port.toNat) k d.toNat

/-- The state of a port as LSTAT reads it (R278). -/
def linkStat (s : State) (lid p : Nat) : Word :=
  let e := ringEntry s lid p
  let out := Nat.min 255 (s.links.countP fun o => o.lid == lid && o.port == p)
  BitVec.ofNat 64 ((s.port p).state + portTmo s lid p * 2 ^ 4 + out * 2 ^ 24 + entDest e * 2 ^ 32 + (entDv e).toNat * 2 ^ 41 +
    entSrc e * 2 ^ 42 + (entSv e).toNat * 2 ^ 51 + Nat.min 4095 (s.port p).err * 2 ^ 52)

/-- LCADD (R279). -/
def semLcadd (x : Ctx) (op : Instr) (dev c v : SReg) : OpRes :=
  let d := (x.s dev).toNat
  let i := (x.s c).toNat
  let port := d % 32
  if 65535 < i ∨ 511 < d then ill4
  else if portDownAt x.m.s port then .trap Cause.linkDown (natW port)
  else if 64 ≤ linkCount x.m.s x.m.s.cur then stall
  else .ok fun m =>
    let (id, m) := m.uid
    m.onS fun s => linkPush s { LinkOp.new m op port with id := id, peer := d, addr := i, val := (x.s v).toNat }

/-! ## Starting and ending (R274, R277) -/

/-- An L operation replaced. -/
def setLink (s : State) (o : LinkOp) : State := { s with links := s.links.map fun y => if y.id = o.id then o else y }

/-- The next operation of a core on a port begins, when none holds the port (R274). -/
def beginNext1 (s : State) (core port : Nat) : State :=
  match s.links.find? fun o => o.core == core && o.port == port with
  | some o =>
    if o.begin.isSome then s
    else
      let (s, o) := linkBegin s o
      setLink s o
  | none => s

/-- An L operation gone. -/
def linkLeave (s : State) (o : LinkOp) : State :=
  let s := beginNext1 { s with links := s.links.filter fun y => y.id != o.id } o.core o.port
  s.setCore o.core ((s.core o.core).joined o.id)

/-- An L operation ended in a fault (R324). -/
def linkFail (s : State) (o : LinkOp) (cause : Nat) (info : Word) : State := (linkLeave s o).report o.core o.uid cause info

/-- An L operation completed: its digest terms and its counter addition (R275, R334). -/
def linkDone (s : State) (o : LinkOp) : State :=
  let s := linkLeave s o
  (s.fold o.uid (wroteDigest o.wrote)).sendDone o.ctr 1 o.core o.uid

/-- The opcode that X.EINFO of LINK_TIMEOUT names (R277). -/
def linkOpcode : Instr → Nat
  | .lsend .. => 1
  | .lrecv .. => 2
  | .lradd .. => 3
  | .lqadd .. => 4
  | _ => 8

/-! ## Reading and writing a view (R275) -/

/-- The in-tensor addresses of a view, in order. -/
def LinkOp.vas (o : LinkOp) : List Nat :=
  match o.op with
  | .lradd .. => tabulate (fun i => o.addr + 64 * i) 0 (o.len / 64)
  | .lqadd .. => tabulate (fun i => o.addr + 64 * i) 0 (2 * o.len / 64)
  | .lcadd .. => []
  | _ => viewAddrs o.h o.r

/-- The physical addresses of an operation's view, which an addition reads and writes; host, peer, counter and MMIO space are refused (R275). -/
def linkXlat (s : State) (o : LinkOp) : Except EFault (List (Nat × Nat)) :=
  let vas := o.vas
  let adds := match o.op with
    | .lrecv .. => false
    | _ => true
  match engXlats s o.core o.ptb (!o.recv || adds) o.recv vas with
  | .error e => .error e
  | .ok pas =>
    let refused (pa : Nat) : Bool := match regionOf pa with
      | .host => true
      | .peer => true
      | .counter => true
      | .mmio => true
      | _ => false
    match (vas.zip pas).find? fun e => refused e.2 with
    | some (va, _) => .error (.fault Cause.prot (natW va))
    | none => .ok (vas.zip pas)

/-- A message as one number, its elements in order, each of its width (R275). -/
def readMessage (s : State) (o : LinkOp) (m : List (Nat × Nat)) : Nat :=
  let w := (recFmt o.r).bits
  unchunks w ((tabulate (viewPos o.h o.r) 0 (viewCount o.h o.r)).map fun p =>
    match locate o.r p with
    | some l => field ((s.core o.core).forkNat s o.id (physIn m l.1) (spanBytes l.2 w)) l.2 w
    | none => fillOf o.r)

/-- The first address of a send's source that D-mode may not move (R217, R275), or that holds an uncorrectable error. -/
def sendFault (s : State) (o : LinkOp) (m : List (Nat × Nat)) : Option AFault :=
  let n := spanBytes 0 (recFmt o.r).bits
  match m.find? fun e => s.badRange e.2 n with
  | some (va, _) => some ⟨Cause.eccUncorr, natW va⟩
  | none =>
    if o.dm && o.te then (m.find? fun e => regionOf e.2 == .scratch && s.taintRange e.2 1).map fun e => ⟨Cause.detTaint, natW e.1⟩
    else none

/-- The operation's bytes at their home, where errors that their stripes rebuild are rebuilt (R341). -/
def healView (s : State) (m : List (Nat × Nat)) (n : Nat) : State := m.foldl (fun s e => s.heal e.2 n) s

/-- The first address of an accumulator that holds an uncorrectable error, which its addition would read (R276, R340). -/
def accFault (s : State) (o : LinkOp) (m : List (Nat × Nat)) : Option AFault :=
  match o.op with
  | .lrecv .. => none
  | _ => (m.find? fun e => s.badRange e.2 64).map fun e => ⟨Cause.eccUncorr, natW e.1⟩

/-- A byte run written for an operation at its home, recorded for its digest. -/
def linkPut (acc : State × LinkOp) (va pa : Nat) (bs : List Byte) : State × LinkOp :=
  let (s, o) := acc
  (s.engineWrite (clusterOf o.core) o.lid pa bs,
   { o with wrote := ((tabulate id 0 bs.length).zip bs).foldl (fun w (i, b) => SMap.put w (va + i) b) o.wrote })

/-- The elements of a message written to a view; positions outside the tensor are discarded, and granules take taint 0
(R193, R275). -/
def writeView (s : State) (o : LinkOp) (m : List (Nat × Nat)) (msg : Nat) : State × LinkOp :=
  let w := (recFmt o.r).bits
  let n := viewCount o.h o.r
  let (s, o) := ((tabulate (viewPos o.h o.r) 0 n).zip (chunks w msg n)).foldl (fun (acc : State × LinkOp) (p, v) =>
    match locate o.r p with
    | some l =>
      let pa := physIn m l.1
      let old := acc.1.value pa (spanBytes l.2 w)
      let new := old - field old l.2 w * 2 ^ l.2 + v * 2 ^ l.2
      let (s, o) := linkPut acc l.1 pa (leBytes (spanBytes l.2 w) new)
      ({ s with gtaint := if regionOf pa = .scratch then SMap.set false s.gtaint (pa / 64) false else s.gtaint }, o)
    | none => (acc.1.countDiscard (clusterOf o.core) o.lid 1, acc.2)) (s, o)
  (s.mendRuns ((tabulate (viewPos o.h o.r) 0 n).filterMap fun p => (locate o.r p).map fun l => (8 * physIn m l.1 + l.2, w)), o)

/-- One accumulator element after an update (R276). -/
def accElem (op : Instr) (d v : Nat) : Nat :=
  match op with
  | .lradd i32 _ _ _ _ => if i32 then (d + v) % 2 ^ 32 else roundF 1 (addF (decodeF 1 d) (decodeF 1 v))
  | _ => (d + wrap 64 (signed 32 v)) % 2 ^ 64

/-- The elements of a message added to an accumulator (R276). -/
def addView (s : State) (o : LinkOp) (m : List (Nat × Nat)) (msg : Nat) : State × LinkOp :=
  let w := match o.op with
    | .lqadd .. => 8
    | _ => 4
  let n := o.len / 4
  ((tabulate id 0 n).zip (chunks 32 msg n)).foldl (fun (acc : State × LinkOp) (j, v) =>
    let va := o.addr + w * j
    let pa := physIn m (va / 64 * 64) + va % 64
    linkPut acc va pa (leBytes w (accElem o.op (acc.1.value pa w) v))) (s, o)

/-- The cycles that `n` bytes take on a port: 200 GB/s, half of that with lanes lost, and half where power lacks (R280, R359,
R374). -/
def portCycles (s : State) (p n : Nat) : Nat :=
  ceilDiv (9 * n * (if (s.port p).state = 3 then 2 else 1) * (if s.fl.halved then 2 else 1)) 1000

/-- Port `p` replaced. -/
def State.setPort (s : State) (p : Nat) (x : Port) : State := { s with ports := SMap.put s.ports p x }

/-- `n` bytes put on a port after those under way in one direction: the first cycle in which they have moved. -/
def takePort (s : State) (p n : Nat) (inward : Bool) : Nat × State :=
  let x := s.port p
  let till := Nat.max (s.cyc + 1) (if inward then x.inTo else x.outTo) + portCycles s p n
  (till, s.setPort p (if inward then { x with inTo := till } else { x with outTo := till }))

/-- A message moved into a receive; it may complete a free time after its bytes have come (R280, log 10). -/
def receive (s : State) (o : LinkOp) (m : List (Nat × Nat)) (msg : Nat) : State :=
  let (s, o) := if (match o.op with
      | .lrecv .. => true
      | _ => false) then writeView s o m msg else addView s o m msg
  let (k, s) := s.takeFresh
  let (till, s) := takePort s o.port o.len true
  let s := match o.op with
    | .lrecv .. => s.record o.core o.uid true (m.map fun e => (e.2, 1))
    | _ => s
  setLink s { o with moved := true, due := till + Config.engineExtra k }

/-! ## Matching (R274, R275) -/

/-- The send on this device that meets a receive: the one of its number, tag and port to this device, once it has begun. -/
def selfSend (s : State) (r : LinkOp) : Option LinkOp :=
  if r.peer ≠ s.devnum then none else
  s.links.find? fun o => o.isSend && o.begin.isSome && !o.moved && o.port == r.port && o.dtag == r.dtag && o.peer == s.devnum &&
    o.k == r.k

/-- The arrived message that meets a receive, with the others. -/
def takeMsg (r : LinkOp) : List LinkMsg → Option (LinkMsg × List LinkMsg)
  | [] => none
  | m :: ms =>
    if m.port = r.port ∧ m.dev = r.peer ∧ m.dtag = r.dtag ∧ m.k = r.k then some (m, ms)
    else (takeMsg r ms).map fun (a, b) => (a, m :: b)

/-- A fault found before a message moves; an absent page waits as a copy does (R216). -/
def linkFault (s : State) (o : LinkOp) : EFault → Option State
  | .page va => if covers o.lid va then none else some (linkFail s o Cause.pageFault (natW va))
  | .fault c i => some (linkFail s o c i)

/-- A message that leaves the device. -/
def State.sendOut (s : State) (m : LinkMsg) : State := { s with outbox := s.outbox ++ [m] }

/-- The reads of a send recorded (R303). -/
def recordSend (s : State) (o : LinkOp) (m : List (Nat × Nat)) : State :=
  s.record o.core o.uid false (m.map fun e => (e.2, 1))

/-- A receive met by a send of this device. -/
def matchSelf (s : State) (r o : LinkOp) (rm : List (Nat × Nat)) : Option State :=
  match linkXlat s o with
  | .error e => linkFault s o e
  | .ok m =>
    let s := healView s m (spanBytes 0 (recFmt o.r).bits)
    match sendFault s o m with
    | some f => some (linkFail s o f.cause f.info)
    | none =>
      if o.len ≠ r.len then
        some (linkFail (linkFail s o Cause.illOperand (illInfo 4)) r Cause.illOperand (illInfo 4))
      else
        let msg := readMessage s o m
        let s := recordSend s o m
        let s := receive s r rm msg
        let (k, s) := s.takeFresh
        let (till, s) := takePort s o.port o.len false
        let s := setLink s { o with moved := true, due := till + Config.engineExtra k }
        some (s.setCore o.core ((s.core o.core).joined o.id))

/-- A receive that is due to be met, by a message of another device or a send of this one. -/
def matchRecv (s : State) (r : LinkOp) : Option State :=
  match linkXlat s r with
  | .error e => linkFault s r e
  | .ok rm =>
    match accFault s r rm with
    | some f => some (linkFail s r f.cause f.info)
    | none => match takeMsg r s.msgs with
      | some (m, rest) =>
        let s := { s with msgs := rest }
        some (if m.data.length ≠ r.len then linkFail s r Cause.illOperand (illInfo 4) else receive s r rm (leNat m.data))
      | none => match selfSend s r with
        | some o => matchSelf s r o rm
        | none => none

/-- A send to another device whose receive has been posted there: its data leaves, and the reply of that device ends it. -/
def matchSend (s : State) (o : LinkOp) : Option State :=
  match linkXlat s o with
  | .error e => linkFault s o e
  | .ok m =>
    let s := healView s m (spanBytes 0 (recFmt o.r).bits)
    match sendFault s o m with
    | some f => some (linkFail s o f.cause f.info)
    | none =>
      let s := s.sendOut ⟨o.port, o.peer, o.dtag, o.k, leBytes o.len (readMessage s o m)⟩
      let s := recordSend s o m
      let (till, s) := takePort s o.port o.len false
      let s := setLink s { o with moved := true, due := till }
      some (s.setCore o.core ((s.core o.core).joined o.id))

/-- Whether an LCADD may perform: the core's earlier stores and copies have at system scope, and its earlier L operations to that
device (R279). -/
def lcaddFree (s : State) (o : LinkOp) : Bool :=
  let c := s.core o.core
  let done (t : Task) : Bool := !t.pend.any fun p => (p.isAtomic || p.fpop.isSome) && decide (p.issue < o.issue)
  !(c.stores.any fun st => decide (st.issue < o.issue)) && !s.ccHolds (clusterOf o.core) o.issue &&
    !((c.cq0 ++ c.cq1).any fun y => decide (y.issue < o.issue)) &&
    (match c.task with
     | some t => done t
     | none => true) && c.saved.all (fun y => done y.task) &&
    !(s.links.any fun y => y.core == o.core && y.peer == o.peer && decide (y.id < o.id))

/-- An LCADD performed: on the local counter, or sent to its device (R279). -/
def matchLcadd (s : State) (o : LinkOp) : Option State :=
  if !lcaddFree s o then none
  else if o.peer = s.devnum then some ((linkLeave s o).sendAdd (some o.addr) o.val o.core o.uid 0)
  else some (setLink (s.sendOut ⟨o.port, o.peer, o.dtag, 0, leBytes 2 o.addr ++ leBytes 8 o.val⟩) { o with moved := true })

/-- LINK_MATCH: an operation that has begun meets its counterpart. -/
def linkMatch (s : State) (id : Nat) : Option State :=
  match s.links.find? fun o => o.id == id && o.begin.isSome && !o.moved && decide (2 ≤ (s.port o.port).state) with
  | some o =>
    if o.recv then matchRecv s o
    else if o.isSend then (if o.peer = s.devnum then none else matchSend s o)
    else matchLcadd s o
  | none => none

/-- LINK_MESSAGE_ARRIVAL: the `k`-th message of its port, device and tag; one that no SRC names is discarded (R274). -/
def linkArrival (s : State) (port src dtag k : Nat) (data : List Byte) : Option State :=
  if (s.port port).state < 2 then none
  else
    let named := s.launches.any fun (_, x) => x.live && x.desc.dtag == dtag &&
      (let e := (SMap.get 0 x.ring port).toNat; entSv e && entSrc e == src)
    let posted := s.links.any fun o => o.recv && o.port == port && o.dtag == dtag && o.peer == src
    some (if named || posted then { s with msgs := s.msgs ++ [⟨port, src, dtag, k, data⟩] } else s)

/-- Whether another device ends an operation by its reply: a send or an LCADD to it. -/
def LinkOp.away (s : State) (o : LinkOp) : Bool := !o.recv && o.peer != s.devnum

/-- LINK_OP_COMPLETE: an operation whose message has moved ends as the other device replies, or for a receive and within this
device by itself: it completes, its message is refused there, or an LCADD overflows there (R274, R275, R279). -/
def linkComplete (s : State) (id : Nat) (reply : LinkReply) : Option State :=
  (s.links.find? fun o => o.id == id && o.moved && decide (o.due ≤ s.cyc)).bind fun o =>
    match reply with
    | .done => some (linkDone s o)
    | .refused => if o.away s && o.isSend then some (linkFail s o Cause.illOperand (illInfo 4)) else none
    | .overflow => if o.away s && !o.isSend then some ((linkDone s o).report o.core o.uid Cause.counterOverflow (natW o.addr)) else none

/-! ## Time-outs and ports (R277, R278, R359) -/

/-- The bytes that a cancelled receive would have written take free values (R277, log 13). -/
def cancelBytes (s : State) (o : LinkOp) : State :=
  if !o.recv then s else
  match linkXlat s o with
  | .error _ => s
  | .ok m =>
    let n := match o.op with
      | .lrecv .. => spanBytes 0 (recFmt o.r).bits
      | _ => 64
    m.foldl (fun (s : State) (e : Nat × Nat) =>
      let f := s.fresh
      { s with fresh := f + n }.writeAll (some o.lid) e.2 (tabulate Config.cancelledByte f n)) s

/-- LINK_TIMEOUT (R277). -/
def linkTimeout (s : State) (id : Nat) : Option State :=
  match s.links.find? fun o => o.id == id with
  | some o =>
    match o.begin with
    | some b =>
      if b + o.tmo * 1800 ≤ s.cyc ∧ !(o.moved ∧ o.due ≤ s.cyc ∧ o.due ≠ 0) then
        some (linkFail (cancelBytes s o) o Cause.linkTimeout (natW (o.port + linkOpcode o.op * 2 ^ 8)))
      else none
    | none => none
  | none => none

/-- PORT_DOWN (R277, R359): the operations that have started on the port end in LINK_DOWN. -/
def portDown (s : State) (p : Nat) : State :=
  let s := s.setPort p { s.port p with state := 0 }
  (s.links.filter fun o => o.port == p && o.begin.isSome).foldl (fun (s : State) (o : LinkOp) =>
    linkFail (cancelBytes s o) o Cause.linkDown (natW p)) s

/-- PORT_LANES_LOST (R359): the port stays up at half bandwidth. -/
def portLanesLost (s : State) (p : Nat) : Option State :=
  if 2 ≤ (s.port p).state then some (s.setPort p { s.port p with state := 3 }) else none

/-- PORT_UP (R278, R359): a port that was down or training is up. -/
def portUp (s : State) (p : Nat) : Option State :=
  if p < 32 ∧ (s.port p).state < 2 then some (s.setPort p { s.port p with state := 2 }) else none

/-- REMOTE_COUNTER_ADD: an addition that another device's LCADD sends (R279). -/
def remoteAdd (s : State) (ctr val : Nat) : Option State :=
  if ctr < 65536 ∧ val < 2 ^ 64 then some (s.sendAdd (some ctr) val 0 0 0) else none

/-- FLIT_RETRY (R359): an error corrected. -/
def flitRetry (s : State) (p : Nat) : Option State :=
  if 2 ≤ (s.port p).state then
    some (s.setPort p { s.port p with err := Nat.min 4095 ((s.port p).err + 1) })
  else none

end Sys2Proof.Machine
end

