-- ==== Sys2Proof/Machine/Scalar.lean ====
section
/-! DEFINITION. The S-slot meanings of chapter 04: integer and bit operations, immediates, compares, loads and stores,
control, special registers, handles, shapes, traps and return (R58 to R81, R344 to R346). -/

namespace Sys2Proof.Machine

/-! ## Integer and bit operations (R59 to R61) -/

/-- SHL (R59). -/
def shlW (a b : Word) : Word := if b.toNat < 64 then a <<< b.toNat else 0
/-- SHR (R59). -/
def shrW (a b : Word) : Word := if b.toNat < 64 then a >>> b.toNat else 0
/-- SRA (R59). -/
def sraW (a b : Word) : Word := a.sshiftRight (Nat.min b.toNat 63)

/-- The operation shared by the S slot and KALU (R59, R348). -/
def KRegOp.apply : KRegOp → Word → Word → Word
  | .add, a, b => a + b
  | .sub, a, b => a - b
  | .and, a, b => a &&& b
  | .or, a, b => a ||| b
  | .xor, a, b => a ^^^ b
  | .shl, a, b => shlW a b
  | .shr, a, b => shrW a b
  | .sra, a, b => sraW a b

/-- The register operation that an immediate operation computes (R62). -/
def KImmOp.reg : KImmOp → KRegOp
  | .addi => .add | .andi => .and | .ori => .or | .xori => .xor
/-- The register operation that an immediate shift computes (R62). -/
def KShiftOp.reg : KShiftOp → KRegOp
  | .shli => .shl | .shri => .shr | .srai => .sra

/-- An immediate of 33 bits, sign-extended (R62). -/
def imm33 (i : BitVec 33) : Word := i.signExtend 64

/-- MULH (R59). -/
def mulhW (u : Bool) (a b : Word) : Word :=
  if u then BitVec.ofNat 64 (a.toNat * b.toNat / 2 ^ 64) else BitVec.ofInt 64 (a.toInt * b.toInt / (2 ^ 64 : Nat))

/-- The quotient of R60; the divisor is not zero. -/
def divW (u : Bool) (a b : Word) : Word :=
  if u then BitVec.ofNat 64 (a.toNat / b.toNat) else BitVec.ofInt 64 (a.toInt.tdiv b.toInt)
/-- The remainder of R60; the divisor is not zero. -/
def remW (u : Bool) (a b : Word) : Word :=
  if u then BitVec.ofNat 64 (a.toNat % b.toNat) else BitVec.ofInt 64 (a.toInt.tmod b.toInt)

/-- MIN (R59). -/
def minW (u : Bool) (a b : Word) : Word :=
  if u then (if a.toNat ≤ b.toNat then a else b) else if a.toInt ≤ b.toInt then a else b
/-- MAX (R59). -/
def maxW (u : Bool) (a b : Word) : Word :=
  if u then (if a.toNat ≤ b.toNat then b else a) else if a.toInt ≤ b.toInt then b else a

/-- The number of leading zero bits among the low `n` bits of `a`. -/
def clzFrom (a : Nat) : Nat → Nat
  | 0 => 0
  | n + 1 => if bitAt a n then 0 else 1 + clzFrom a n

/-- The position and the last bit of a field descriptor (R61). -/
def fieldPos (b : Word) : Nat × Nat :=
  let pos := field b.toNat 0 6
  (pos, Nat.min (pos + field b.toNat 8 6) 63)

/-- BEXT (R61). -/
def bextW (a b : Word) : Word :=
  let (pos, hi) := fieldPos b
  BitVec.ofNat 64 (field a.toNat pos (hi + 1 - pos))

/-- BINS (R61). -/
def binsW (old a b : Word) : Word :=
  let (pos, hi) := fieldPos b
  let w := hi + 1 - pos
  BitVec.ofNat 64 (old.toNat - field old.toNat pos w * 2 ^ pos + field a.toNat 0 w * 2 ^ pos)

/-- A result that lands `lat` cycles after issue in S[d]. -/
def okS (lat : Nat) (d : SReg) (v : Word) : OpRes := .ok fun m => m.flyS lat d.toNat v

def semAdd (x : Ctx) (d a b : SReg) : OpRes := okS 1 d (x.s a + x.s b)
def semSub (x : Ctx) (d a b : SReg) : OpRes := okS 1 d (x.s a - x.s b)
def semAnd (x : Ctx) (d a b : SReg) : OpRes := okS 1 d (x.s a &&& x.s b)
def semOr (x : Ctx) (d a b : SReg) : OpRes := okS 1 d (x.s a ||| x.s b)
def semXor (x : Ctx) (d a b : SReg) : OpRes := okS 1 d (x.s a ^^^ x.s b)
def semShl (x : Ctx) (d a b : SReg) : OpRes := okS 1 d (shlW (x.s a) (x.s b))
def semShr (x : Ctx) (d a b : SReg) : OpRes := okS 1 d (shrW (x.s a) (x.s b))
def semSra (x : Ctx) (d a b : SReg) : OpRes := okS 1 d (sraW (x.s a) (x.s b))
/-- MUL lands at issue + 3 (R34). -/
def semMul (x : Ctx) (d a b : SReg) : OpRes := okS 3 d (x.s a * x.s b)
def semMulh (x : Ctx) (u : Bool) (d a b : SReg) : OpRes := okS 3 d (mulhW u (x.s a) (x.s b))

/-- DIV and REM (R60): a zero divisor traps; the result is pending for at most 20 cycles, how many is free (log 10). -/
def divRem (x : Ctx) (d b : SReg) (v : Word) : OpRes :=
  if x.s b = 0 then .trap Cause.divZero 0
  else if x.m.loadsFull then stall
  else .ok fun m =>
    let (k, m) := m.fresh
    m.pendS .calc (1 + Config.divLatency k % 20) d.toNat v

def semDiv (x : Ctx) (u : Bool) (d a b : SReg) : OpRes := divRem x d b (divW u (x.s a) (x.s b))
def semRem (x : Ctx) (u : Bool) (d a b : SReg) : OpRes := divRem x d b (remW u (x.s a) (x.s b))
def semMin (x : Ctx) (u : Bool) (d a b : SReg) : OpRes := okS 1 d (minW u (x.s a) (x.s b))
def semMax (x : Ctx) (u : Bool) (d a b : SReg) : OpRes := okS 1 d (maxW u (x.s a) (x.s b))
def semClz (x : Ctx) (d a : SReg) : OpRes := okS 1 d (natW (clzFrom (x.s a).toNat 64))
def semPopc (x : Ctx) (d a : SReg) : OpRes := okS 1 d (natW (popCount (x.s a).toNat 64))
def semBext (x : Ctx) (d a b : SReg) : OpRes := okS 1 d (bextW (x.s a) (x.s b))
/-- BINS reads Sd as a third source (R61). -/
def semBins (x : Ctx) (d a b : SReg) : OpRes := okS 1 d (binsW (x.s d) (x.s a) (x.s b))

/-! ## Immediates and long constants (R62, R63) -/

def semAddi (x : Ctx) (d a : SReg) (i : BitVec 33) : OpRes := okS 1 d (x.s a + imm33 i)
def semAndi (x : Ctx) (d a : SReg) (i : BitVec 33) : OpRes := okS 1 d (x.s a &&& imm33 i)
def semOri (x : Ctx) (d a : SReg) (i : BitVec 33) : OpRes := okS 1 d (x.s a ||| imm33 i)
def semXori (x : Ctx) (d a : SReg) (i : BitVec 33) : OpRes := okS 1 d (x.s a ^^^ imm33 i)
def semShli (x : Ctx) (d a : SReg) (n : BitVec 6) : OpRes := okS 1 d (shlW (x.s a) (n.setWidth 64))
def semShri (x : Ctx) (d a : SReg) (n : BitVec 6) : OpRes := okS 1 d (shrW (x.s a) (n.setWidth 64))
def semSrai (x : Ctx) (d a : SReg) (n : BitVec 6) : OpRes := okS 1 d (sraW (x.s a) (n.setWidth 64))
def semLdi (_x : Ctx) (d : SReg) (i : BitVec 45) : OpRes := okS 1 d (i.signExtend 64)
/-- LDIH keeps bits 44:0 (R63). -/
def semLdih (x : Ctx) (d : SReg) (i : BitVec 19) : OpRes :=
  okS 1 d (BitVec.ofNat 64 ((x.s d).toNat % 2 ^ 45 + i.toNat * 2 ^ 45))

/-! ## Compares, selects and predicate logic (R64 to R66) -/

def semCmp (x : Ctx) (c : Cond) (d : PReg) (a b : SReg) : OpRes :=
  .ok fun m => m.flyP 1 d.toNat (Cond.holds 64 c (x.s a).toNat (x.s b).toNat)
def semCmpi (x : Ctx) (c : Cond) (d : PReg) (a : SReg) (i : BitVec 33) : OpRes :=
  .ok fun m => m.flyP 1 d.toNat (Cond.holds 64 c (x.s a).toNat (imm33 i).toNat)
/-- SEL reads its predicate at issue (R65). -/
def semSel (x : Ctx) (d a b : SReg) (p : PReg) (neg : Bool) : OpRes :=
  okS 1 d (if x.m.t.regs.preg p.toNat != neg then x.s a else x.s b)
def semPlog (x : Ctx) (o : LogOp) (d a b : PReg) : OpRes :=
  .ok fun m => m.flyP 1 d.toNat (LogOp.bool o (x.m.t.regs.preg a.toNat) (x.m.t.regs.preg b.toNat))

/-! ## Loads and stores (R67 to R71) -/

/-- The effective address of form SM (R67). -/
def Ctx.ea (x : Ctx) (a : SReg) (off : BitVec 33) : Nat := (x.s a + imm33 off).toNat

/-- The effect of a checked load: the L1, the pending mark, the trace (R36, R68, R69). -/
def loadAct (x : Ctx) (ea pa n reuse : Nat) (na : Bool) (dests : List (Nat × Word)) : Act := fun m =>
  let (lat, m) := (m.early pa n).loadTime pa n 4 (if na then 7 else reuse)
  let poison := x.m.poisonOf ea pa n
  let res : List Result := dests.map fun (d, v) =>
    ⟨.s d, v.setWidth 2048, BitVec.allOnes 256, false, poison, 0, 0⟩
  let m := (m.onS (State.heal · pa n)).record false pa n
  m.onT fun t => t.pendOn ⟨.ready, res, m.s.cyc, m.s.cyc + lat, none, none, 0⟩

/-- LD (R68): counter space takes LD.D alone, MMIO space 4-byte and 8-byte loads in supervisor mode (R169, R170). -/
def semLd (x : Ctx) (sz : MSize) (d a : SReg) (reuse : BitVec 3) (off : BitVec 33) : OpRes :=
  let ea := x.ea a off
  let n := MSize.bytes sz
  match scalarCheck x.m ⟨sz == .d, x.m.t.x.sv && decide (4 ≤ n)⟩ ea n true false with
  | .stop r => r
  | .go pa na =>
    if x.m.loadsFull then stall
    else .ok (loadAct x ea pa n reuse.toNat na [(d.toNat, MSize.extend sz (x.m.readScalar pa n))])

/-- LDP (R68). -/
def semLdp (x : Ctx) (d a : SReg) (reuse : BitVec 3) (off : BitVec 33) : OpRes :=
  let ea := x.ea a off
  match scalarCheck x.m ⟨false, false⟩ ea 16 true false with
  | .stop r => r
  | .go pa na =>
    if x.m.loadsFull then stall
    else .ok (loadAct x ea pa 16 reuse.toNat na
      [(d.toNat, natW (x.m.readScalar pa 8)), (d.toNat + 1, natW (x.m.readScalar (pa + 8) 8))])

/-- ST (R68). A store to MMIO space is performed at issue (R170). -/
def semSt (x : Ctx) (sz : MSize) (d a : SReg) (off : BitVec 33) : OpRes :=
  let ea := x.ea a off
  let n := MSize.bytes sz
  match scalarCheck x.m ⟨false, x.m.t.x.sv && decide (4 ≤ n)⟩ ea n false true with
  | .stop r => r
  | .go pa _ =>
    if regionOf pa = .mmio then
      .ok fun m => (m.onS fun s => mmioWrite s pa n ((x.s d).toNat % 2 ^ (8 * n))).fold (digestOf ea ((leBytes n (x.s d).toNat).map some))
    else if x.m.storesFull then stall
    else .ok fun m => m.store ea pa ((leBytes n (x.s d).toNat).map some) none

/-- STP (R68). -/
def semStp (x : Ctx) (d a : SReg) (off : BitVec 33) : OpRes :=
  let ea := x.ea a off
  match scalarCheck x.m ⟨false, false⟩ ea 16 false true with
  | .stop r => r
  | .go pa _ =>
    if x.m.storesFull then stall
    else .ok fun m =>
      m.store ea pa ((leBytes 8 (x.s d).toNat ++ leBytes 8 (x.m.t.regs.sreg (d.toNat + 1)).toNat).map some) none

/-- The bytes of a line from the level that holds it, below the L1 (R185): the cluster's cache, or else its home. -/
def Mach.lineBelow (m : Mach) (line : Nat) : List Byte :=
  match ccFind (m.s.cc (clusterOf m.s.cur)) line with
  | some x => x.data
  | none => tabulate m.s.seen (64 * line) 64

/-- The constant cache with the line of `pa` filled, if it is not there (R185): a full set loses a line that the
implementation chooses (log 14). Nothing on this device caches a peer's memory (R167, R171). -/
def constFill (m : Mach) (pa : Nat) : Mach :=
  let line := pa / 64
  if m.c.cc.any (fun l => l.line == line) || regionOf pa == .peer || m.badBelow (64 * line) 64 line then m else
  let new : CLine := ⟨line, m.lineBelow line⟩
  let set := m.c.cc.filter fun l => l.line % 64 == line % 64
  if set.length < 4 then m.onC fun c => { c with cc := c.cc ++ [new] }
  else
    let (k, m) := m.fresh
    let out := (set.map CLine.line).getD (Config.constVictim k % 4) 0
    m.onC fun c => { c with cc := (c.cc.filter fun l => l.line != out) ++ [new] }

/-- What LDC reads: the constant cache's line, or the level below. -/
def constRead (m : Mach) (pa n : Nat) : Nat :=
  let line := match m.c.cc.find? fun l => l.line == pa / 64 with
    | some l => l.data
    | none => m.lineBelow (pa / 64)
  leNat ((line.drop (pa % 64)).take n)

/-- LDC (R71, R185). -/
def semLdc (x : Ctx) (sz : MSize) (d a : SReg) (off : BitVec 33) : OpRes :=
  let ea := x.ea a off
  let n := MSize.bytes sz
  match scalarCheck x.m ⟨false, false⟩ ea n true false with
  | .stop r => r
  | .go pa _ =>
    if x.m.loadsFull then stall
    else
      let hit := x.m.c.cc.any fun l => l.line == pa / 64
      .ok fun m =>
        let v := MSize.extend sz (constRead x.m pa n)
        let m := (constFill m pa).onS (State.heal · pa n)
        let (k, m) := m.fresh
        let lat := if hit then 4 else 5 + Config.extraLatency k
        let m := m.record false pa n
        m.pendS .ready lat d.toNat v (if !hit && x.m.badBelow pa n (pa / 64) then some ea else none)

/-! ## Branches, calls and hardware loops (R72 to R76) -/

/-- The checks of a branch target (R72). -/
def targetCheck (a : Nat) (act : Act) : OpRes :=
  if a % 8 ≠ 0 then .trap Cause.memAlign (natW a)
  else if 0x40000 ≤ a then ill4 a
  else .ok act

/-- A taken branch: it takes effect after the last iteration (R31, R73). -/
def jumpTo (a : Nat) : Act := fun m => m.onT fun t => { t with flow := { t.flow with jump := some a } }

/-- The target of a displacement, in syllables from the header (R73). -/
def Ctx.disp (x : Ctx) (d : BitVec 32) : Nat := (BitVec.ofNat 64 x.hdr + BitVec.ofInt 64 (8 * d.toInt)).toNat

/-- The link value: the address of the next bundle (R73). -/
def Ctx.link (x : Ctx) : Word := natW (x.hdr + 8 * x.len)

def semBr (x : Ctx) (d : BitVec 32) : OpRes := targetCheck (x.disp d) (jumpTo (x.disp d))
def semBri (x : Ctx) (a : SReg) : OpRes := targetCheck (x.s a).toNat (jumpTo (x.s a).toNat)
def semCall (x : Ctx) (d : BitVec 32) : OpRes :=
  targetCheck (x.disp d) fun m => (jumpTo (x.disp d) m).flyS 1 31 x.link
/-- CALLI S31 jumps to the old S31 (R73). -/
def semCalli (x : Ctx) (a : SReg) : OpRes :=
  targetCheck (x.s a).toNat fun m => (jumpTo (x.s a).toNat m).flyS 1 31 x.link
def semRet (x : Ctx) : OpRes := targetCheck (x.s 31).toNat (jumpTo (x.s 31).toNat)

/-- One of the two levels. -/
def Loops.level (l : Loops) (n : Bool) : Level := if n then l.l1 else l.l0
/-- One of the two levels replaced. -/
def Loops.setLevel (l : Loops) (n : Bool) (v : Level) : Loops := if n then { l with l1 := v } else { l with l0 := v }

/-- The length in bytes of the bundle whose header a core's instruction memory holds at `a`. -/
def bundleBytes (c : Core) (a : Nat) : Nat := 8 * (1 + popCount (field (SMap.get 0 c.imem (a / 8)).toNat 51 9) 9)

/-- LOOP and LOOPI (R74, R76): a level active with a non-zero count traps; a zero count skips past the end bundle,
whose length is read from whatever word stands at its header when the LOOP issues (DESIGN CHOICE where that is no header or its
half is not loaded, log 62). -/
def armLoop (x : Ctx) (lvl : Bool) (disp : BitVec 20) (count : Word) : OpRes :=
  let l := x.m.t.loops.level lvl
  let ls := x.hdr + 8 * x.len
  let le := x.hdr + 8 * disp.toNat
  if l.active ∧ l.lc ≠ 0 then .trap Cause.loopReg (boolW lvl)
  else if 0x40000 ≤ ls then ill4 ls
  else targetCheck le fun m => m.onT fun t =>
    { t with
      loops := { (t.loops.setLevel lvl ⟨count, natW ls, natW le, count != 0⟩) with last1 := lvl }
      flow := if count = 0 then { t.flow with skip := some (le + bundleBytes x.m.c le) } else t.flow }

def semLoop (x : Ctx) (lvl : Bool) (disp : BitVec 20) (c : SReg) : OpRes := armLoop x lvl disp (x.s c)
def semLoopi (x : Ctx) (lvl : Bool) (disp : BitVec 20) (n : BitVec 30) : OpRes := armLoop x lvl disp (n.setWidth 64)

/-! ## Special registers (R10 to R13, R77, R344, R345) -/

/-- The loop state that MOVX and MOVXW reach: trapped_loops while the handler runs (R322). -/
def Task.loopView (t : Task) : Loops := if t.x.sv then t.trapped.loops else t.loops

/-- The loop state written where `loopView` reads it. -/
def Task.setLoopView (t : Task) (l : Loops) : Task :=
  if t.x.sv then { t with trapped := { t.trapped with loops := l } } else { t with loops := l }

/-- X.DIG as the running task sees it: a sub-task's folds go into its parent's (R88, R334, log 25). -/
def Mach.dig (m : Mach) : Word :=
  match m.t.parent with
  | none => m.t.x.dig
  | some p => match m.s.findUid (rootUid m.s 512 p) with
    | some t => t.x.dig
    | none => m.t.x.dig

/-- A special register as MOVX reads it (R10, R77). -/
def Mach.xget (m : Mach) (n : Nat) : Word :=
  let x := m.t.x
  let lp := m.t.loopView
  match n with
  | 0x000 => natW m.s.cyc
  | 0x001 => x.tix
  | 0x002 => x.ntask
  | 0x003 => x.stage
  | 0x004 => natW (coordOf m.s.cur)
  | 0x005 => x.seed
  | 0x006 => x.launch
  | 0x007 => x.arg
  | 0x010 => lp.l0.lc
  | 0x011 => lp.l0.ls
  | 0x012 => lp.l0.le
  | 0x013 => lp.l1.lc
  | 0x014 => lp.l1.ls
  | 0x015 => lp.l1.le
  | 0x018 => natW m.t.mat.mlm
  | 0x019 => natW m.t.mat.mln
  | 0x01A => natW m.t.mat.mlk
  | 0x01B => natW m.t.mat.msp
  | 0x020 => x.wtmo
  | 0x021 => x.qtroub
  | 0x022 => m.dig
  | 0x023 => x.status
  | 0x100 => x.epc
  | 0x101 => x.ecause
  | 0x102 => x.einfo
  | 0x103 => x.erpt
  | 0x104 => x.tvec
  | 0x108 => x.ptb
  | 0x109 => x.segt
  | _ => 0

/-- A level's count, start or end written (R77). -/
def Level.put (l : Level) (k : Nat) (v : Word) : Level :=
  if k = 0 then { l with lc := v }
  else if k = 1 then { l with ls := natW (field v.toNat 3 15 * 8) }
  else { l with le := natW (field v.toNat 3 15 * 8) }

/-- A special register as MOVXW writes it, at the end of the issue cycle (R13, R77, R344). -/
def Mach.xput (m : Mach) (n : Nat) (v : Word) : Mach :=
  let w := v.toNat
  if 0x10 ≤ n ∧ n ≤ 0x15 then
    let lvl := decide (0x13 ≤ n)
    m.onT fun t => t.setLoopView (t.loopView.setLevel lvl ((t.loopView.level lvl).put ((n - 0x10) % 3) v))
  else
  match n with
  | 0x018 => m.onT fun t => { t with mat := { t.mat with mlm := w % 65536 }.recount }
  | 0x019 => m.onT fun t => { t with mat := { t.mat with mln := w % 65536 }.recount }
  | 0x01A => m.onT fun t => { t with mat := { t.mat with mlk := w % 65536 }.recount }
  | 0x01B => m.onT fun t => { t with mat := { t.mat with msp := w % 16 } }
  | 0x020 => m.onX fun x => { x with wtmo := v }
  | 0x021 => m.onX fun x => { x with qtroub := v }
  | 0x023 => m.onX fun x => x.setStatus w
  | 0x100 => m.onX fun x => { x with epc := v }
  | 0x101 => m.onX fun x => { x with ecause := v }
  | 0x102 => m.onX fun x => { x with einfo := v }
  | 0x103 => m.onX fun x => { x with erpt := natW (w % 256) }
  | 0x104 => m.onX fun x => { x with tvec := natW (field w 3 15 * 8) }
  | 0x108 => m.onX fun x => { x with ptb := natW (w % 2 ^ 52) }
  | 0x109 => m.onX fun x => { x with segt := natW (field w 4 48 * 16) }
  | _ => m

/-- Whether user mode may not reach a register of class SV (R11). -/
def svOnly (n : Nat) : Bool := xclass n == some .sv

/-- MOVX (R11, R77). -/
def semMovx (x : Ctx) (d : SReg) (n : BitVec 12) : OpRes :=
  if svOnly n.toNat && !x.m.t.x.sv then .trap Cause.priv (natW n.toNat)
  else okS 1 d (x.m.xget n.toNat)

/-- MOVXW (R11, R13, R76, R77). While the handler runs, the saved levels count as active (R322). -/
def semMovxw (x : Ctx) (n : BitVec 12) (a : SReg) : OpRes :=
  let k := n.toNat
  let v := x.s a
  if (svOnly k || k == 0x23) && !x.m.t.x.sv then .trap Cause.priv (natW k)
  else if k = 0x23 ∧ v.toNat / 32 ≠ 0 then .trap Cause.illOperand (illInfo 3)
  else if 0x10 ≤ k ∧ k ≤ 0x15 ∧ (k - 0x10) % 3 ≠ 0 ∧ (x.m.t.x.sv || (x.m.t.loopView.level (decide (0x13 ≤ k))).active) then
    .trap Cause.loopReg (boolW (decide (0x13 ≤ k)))
  else .ok fun m => m.xput k v

/-! ## Handles and shapes (R78, R79) -/

def semHmov (x : Ctx) (h h2 : HReg) : OpRes := .ok fun m => m.flyH 1 h.toNat (x.h h2)
def semHget (x : Ctx) (d : SReg) (h : HReg) (w : BitVec 2) : OpRes :=
  okS 1 d (BitVec.ofNat 64 (field (x.h h).toNat (64 * w.toNat) 64))
def semHset (x : Ctx) (h : HReg) (w : BitVec 2) (a : SReg) : OpRes :=
  .ok fun m => m.flyH 1 h.toNat (setField (x.h h) (64 * w.toNat) 64 (x.s a).toNat)
def semHadv (x : Ctx) (h : HReg) (dim : BitVec 2) (a : SReg) : OpRes :=
  .ok fun m => m.flyH 1 h.toNat (advOrg (x.h h) dim.toNat (x.s a).toNat)

/-- The row capacity of a format in columns (R79). -/
def rowCap (f : Fmt) : Nat := if f.bits = 0 then 0 else 2048 / f.bits

/-- TSHAPE (R79). TSd is written at issue and is no exposed result, so that a trap of the next bundle captures none of it
(DESIGN CHOICE, log 72). -/
def semTshape (_x : Ctx) (t : Tile) (f : Fmt) (rows : BitVec 6) (cols : BitVec 10) : OpRes :=
  if rowCap f < cols.toNat + 1 then .trap Cause.tileShape (natW t.toNat)
  else .ok fun m => m.onR fun r =>
    r.setShape t.toNat (natW (f.toNat + rows.toNat * 2 ^ 4 + cols.toNat * 2 ^ 10))

/-! ## Traps, return, TLBI (R80, R81, R345, R346) -/

def semTrap (x : Ctx) (i : BitVec 16) : OpRes := .trap Cause.brk (natW (i.toNat + x.len * 2 ^ 16))
def semSysc (x : Ctx) (i : BitVec 16) : OpRes := .trap Cause.syscall (natW (i.toNat + x.len * 2 ^ 16))

/-- ERET (R81, R321, R345). With ECAUSE.ENDW set it re-enters END's wait; a bundle that waits at a barrier has arrived already
(R325). -/
def semEret (x : Ctx) : OpRes :=
  let epc := x.m.t.x.epc.toNat
  if !x.m.t.x.sv then .trap Cause.priv 0
  else if epc % 8 ≠ 0 then .trap Cause.memAlign (natW epc)
  else if 0x40000 ≤ epc then ill4 epc
  else if field (SMap.get 0 x.m.c.imem (epc / 8)).toNat 34 8 < x.m.t.x.erpt.toNat then ill4
  else .ok fun m =>
    let endw := m.t.x.endw
    let wait := m.t.heldWait
    (m.onT fun t => { t.return m.s.cyc with held := none }).onC fun c => { c with ready := m.s.cyc + 3, ended := endw, wait := wait }

/-- TLBI (R346): entries go when the removal completes, at most 4,000 cycles later; the next bundle waits for it. -/
def semTlbi (x : Ctx) (f : TlbiForm) (a : SReg) : OpRes :=
  if !x.m.t.x.sv then .trap Cause.priv 0
  else .ok fun m =>
    let (k, m) := m.fresh
    m.onC fun c => { c with fence := c.fence ++
      [.tlbi f (x.s a) (field m.t.x.ptb.toNat 0 12) (m.s.cyc + 1 + Config.holdCycles k % 4000)] }

end Sys2Proof.Machine
end

