-- ==== Sys2Proof/Machine/System.lean ====
section
/-! DEFINITION. Checking, digests, context images and TLB removal (R346 to R352). -/

namespace Sys2Proof.Machine

/-! ## CHK, KALU and the digests (R347 to R350) -/

/-- The lowest byte, among `n` from `i` on, in which two values differ. -/
def diffByte (a b i n : Nat) : Nat := (firstFrom (fun j => field a (8 * j) 8 != field b (8 * j) 8) i n).getD 0

/-- X.EINFO of CHK_MISMATCH (R347). -/
def chkInfo (a ra b rb byte : Nat) (v : Bool) : Word :=
  BitVec.ofNat 64 (a + ra * 2 ^ 6 + b * 2 ^ 12 + rb * 2 ^ 18 + byte * 2 ^ 24 + v.toNat * 2 ^ 63)

/-- CHK (R347). -/
def semChk (x : Ctx) : ChkForm → OpRes
  | .s a b =>
    if x.s a = x.s b then .ok id
    else .trap Cause.chkMismatch (chkInfo a.toNat 0 b.toNat 0 (diffByte (x.s a).toNat (x.s b).toNat 0 8) false)
  | .v a b =>
    let u := (x.row a).data
    let v := (x.row b).data
    if u = v then .ok id
    else .trap Cause.chkMismatch
      (chkInfo a.t.toNat a.r.toNat b.t.toNat b.r.toNat (diffByte u.toNat v.toNat 0 256) true)

/-- KALU (R348). -/
def semKalu (x : Ctx) (d a : SReg) : KaluSrc → OpRes
  | .reg o b => okS 1 d (KRegOp.apply o (x.s a) (x.s b))
  | .imm o i => okS 1 d (KRegOp.apply (KImmOp.reg o) (x.s a) (imm33 i))
  | .shift o n => okS 1 d (KRegOp.apply (KShiftOp.reg o) (x.s a) (n.setWidth 64))

/-- DIGR (R349). -/
def semDigr (x : Ctx) (launch : Bool) (d : SReg) : OpRes :=
  if launch then
    (if x.m.loadsFull then stall
     else .ok fun m =>
       let (k, m) := m.fresh
       m.pollS .digest k d.toNat)
  else okS 1 d x.m.dig

/-- The comparison of DIGX (R350). -/
def digCompare (v want : Word) : OpRes := if v = want then .ok id else .trap Cause.digestMismatch v

/-- Whether the task's launch runs in D-mode. -/
def Mach.dMode (m : Mach) : Bool := m.t.x.dm

/-- The digest that the launch will have if the issuing task folds nothing more (R350). -/
def Mach.finalDigest (m : Mach) : Word := natW (launchDigest m.s m.t.lid) + mix64 (m.dig ^^^ m.t.x.tix)

/-- DIGX (R350). -/
def semDigx (x : Ctx) (launch : Bool) (a : SReg) : OpRes :=
  if !launch then digCompare x.m.dig (x.s a)
  else if !x.m.dMode then digCompare 0 (x.s a)
  else if x.m.metNow .digx then digCompare x.m.finalDigest (x.s a)
  else waitOn x .digx false id

/-! ## Context images (R351, R352) -/

/-- The bytes of a context image. -/
def imageLen : Nat := 401408

/-- The 64 KiB pieces of `n` bytes from `a` on. -/
def pagesOf (a n : Nat) : List Part :=
  (tabulate id (a / 65536) ((a + n - 1) / 65536 - a / 65536 + 1)).map fun p =>
    let lo := Nat.max a (65536 * p)
    (lo, Nat.min (a + n) (65536 * (p + 1)) - lo)

/-- The bits that `f` gives for `n` indices, the first the least. -/
def bitsOf (f : Nat → Bool) (n : Nat) : Nat := unchunks 1 ((tabulate f 0 n).map Bool.toNat)

/-- The engine state of a task whose handler saves it: the state its trap saved, not the handler's own (R352). -/
def engineOf (c : Core) (t : Task) : EngineState :=
  { trapped := t.trapped, mat := t.mat, bind := t.bind, aperture := t.aperture, recovery := t.recovery, wins0 := t.wins0
    wins1 := t.wins1, half0 := c.half0, half1 := c.half1, shadow := t.shadow, faults := t.faults, sp := t.regs.sp
    rowp := t.regs.rows.filterMap fun (i, r) => r.poison.map fun p => (i, p), told := t.told }

/-- The place of an engine state among those that images refer to; a state saved twice has one place. -/
def imageToken (e : EngineState) : List EngineState → Nat
  | [] => 0
  | x :: xs => if x = e then 0 else imageToken e xs + 1

/-- The 5,120 bytes of an engine state in an image (R351, log 16). -/
def engineBytes (tok : Nat) : List Byte := (tabulate id 0 5120).zip (leBytes 5120 tok) |>.map fun (i, b) => b + Config.engineImage i

/-- The engine state that those bytes refer to. -/
def engineToken (bs : List Byte) : Nat := leNat ((tabulate id 0 bs.length).zip bs |>.map fun (i, b) => b - Config.engineImage i)

/-- The 21 special registers of an image, in its order (R351). -/
def imageRegs : List Nat :=
  [0x010, 0x011, 0x012, 0x013, 0x014, 0x015, 0x018, 0x019, 0x01A, 0x01B, 0x020, 0x021, 0x022, 0x023, 0x100, 0x101, 0x102,
   0x103, 0x104, 0x108, 0x109]

/-- A context image (R351). -/
def imageBytes (m : Mach) (tok : Nat) : List Byte :=
  let t := m.t
  let r := t.regs
  let b := t.budget
  let eng := engineBytes tok
  let row (i : Nat) : RowCell := if i < 64 * b.t then r.row i else RowCell.zero
  leBytes 2 1 ++ leBytes 1 b.s ++ leBytes 1 b.h ++ leBytes 1 b.t ++ leBytes 3 0 ++ leBytes 8 t.x.launch.toNat ++
    leBytes 8 t.x.tix.toNat ++ leBytes 8 (Config.checkWord eng).toNat ++ leBytes 32 0 ++
  (tabulate (fun n => if n < b.s then (r.sreg n).toNat else 0) 0 64).flatMap (leBytes 8) ++
  leBytes 8 (bitsOf (fun n => decide (n < b.s) && (r.spoison n).isSome) 64) ++ leBytes 2 (bitsOf r.preg 16) ++
  leBytes 2 (bitsOf r.qtaint 16) ++ leBytes 52 0 ++
  (tabulate (fun n => (r.qreg n).toNat) 0 16).flatMap (leBytes 32) ++
  (tabulate (fun n => if n < b.h then (r.hreg n).toNat else 0) 0 32).flatMap (leBytes 32) ++
  (tabulate (fun n => if n < b.t then (r.shape n).toNat else 0) 0 24).flatMap (leBytes 8) ++
  (tabulate (fun k => bitsOf (fun i => (row (64 * k + i)).taint) 64) 0 24).flatMap (leBytes 8) ++
  (tabulate (fun k => bitsOf (fun i => (row (64 * k + i)).poison.isSome) 64) 0 24).flatMap (leBytes 8) ++
  (imageRegs.map fun n => (if n = 0x022 then t.x.dig else m.xget n).toNat).flatMap (leBytes 8) ++ leBytes 152 0 ++ eng ++
  (tabulate (fun i => (row i).data.toNat) 0 1536).flatMap (leBytes 256)

/-- Whether the core may save or load a context: nothing pending, no M operation, no exposed result in flight (R352). -/
def Mach.still (m : Mach) : Bool := m.t.pend.isEmpty && m.c.tileOps m.t.uid m.s.cyc == 0 && m.t.flight.isEmpty

/-- The pieces of an image checked in order, each as a vector access to it (R147): their physical addresses, or the trap of the
first that fails. -/
def imagePieces (m : Mach) (rd wr : Bool) : List Part → Except OpRes (List (Nat × Nat))
  | [] => .ok []
  | p :: ps =>
    match vecCheck m p.1 1 [p] rd wr with
    | .stop r => .error r
    | .denied va => .error (.trap Cause.prot (natW va))
    | .go qs => (imagePieces m rd wr ps).map fun rest => qs.map (fun q => (q.1, p.2)) ++ rest

/-- The checks of CTXS and CTXL on the image's range: the physical pieces, each with its length (R352). -/
def imageCheck (x : Ctx) (a : Nat) (rd wr : Bool) : Except OpRes (List (Nat × Nat)) :=
  if a % 4096 ≠ 0 then .error (.trap Cause.memAlign (natW a)) else imagePieces x.m rd wr (pagesOf a imageLen)

/-- The bytes of an image written at their physical pieces, whose lines leave the core's caches first (R18, R200); waiting engine
operations of the core keep the old bytes (R209). -/
def writeImage : List (Nat × Nat) → List Byte → Mach → Mach
  | [], _, m => m
  | (pa, n) :: ps, bs, m =>
    let out := (bs.take n).map some
    let m := (m.toHome pa n).onC (Core.shield m.s.mem pa out)
    writeImage ps (bs.drop n) (m.onS fun s => s.write (some m.t.lid) pa out)

/-- The core's lines of an image's pieces written back, so that its home holds what the core has stored there (R18). -/
def imageHome (ps : List (Nat × Nat)) (m : Mach) : Mach := ps.foldl (fun m p => m.toHome p.1 p.2) m.settle

/-- The core's next bundle waits until the image has been moved, a free time (log 10). -/
def Mach.afterImage (m : Mach) : Mach :=
  let (k, m) := m.fresh
  m.onC fun c => { c with ready := m.s.cyc + 1 + Config.holdCycles k }

/-- The engine states with one more, if it is new. -/
def imagesWith (e : EngineState) (es : List EngineState) : List EngineState := if es.contains e then es else es ++ [e]

/-- CTXS (R352). -/
def semCtxs (x : Ctx) (a : SReg) : OpRes :=
  if !x.m.t.x.sv then .trap Cause.priv 0
  else match imageCheck x (x.s a).toNat false true with
    | .error r => r
    | .ok ps =>
      if !x.m.still then stall
      else .ok fun m =>
        let m := m.settle
        let e := engineOf m.c x.m.t
        let bs := imageBytes x.m (imageToken e m.s.images)
        ((writeImage ps bs m).onS fun s => { s with images := imagesWith e s.images }).afterImage

/-- A field of `n` bytes of an image. -/
def imageField (img : List Byte) (off n : Nat) : Nat := leNat ((img.drop off).take n)

/-- The register files of an image (R351), with the addresses of poison from its engine state. Of a shape register the
image's whole word is taken, reserved bits too (DESIGN CHOICE, log 64). -/
def imageFiles (img : List Byte) (b : Budget) (e : EngineState) : Regs :=
  let f (off n : Nat) : Nat := imageField img off n
  let r := (tabulate id 0 b.s).foldl (fun (r : Regs) n => r.setSreg n (natW (f (0x40 + 8 * n) 8))
    (if bitAt (f 0x240 8) n then some (SMap.get 0 e.sp n) else none)) Regs.zero
  let r := (tabulate id 0 16).foldl (fun (r : Regs) n => (r.setPreg n (bitAt (f 0x248 2) n)).setQreg n
    (BitVec.ofNat 256 (f (0x280 + 32 * n) 32)) (bitAt (f 0x24A 2) n)) r
  let r := (tabulate id 0 b.h).foldl (fun (r : Regs) n => r.setHreg n (BitVec.ofNat 256 (f (0x480 + 32 * n) 32))) r
  let r := (tabulate id 0 b.t).foldl (fun (r : Regs) n => r.setShape n (natW (f (0x880 + 8 * n) 8))) r
  (tabulate id 0 (64 * b.t)).foldl (fun (r : Regs) i => r.setRow i
    ⟨BitVec.ofNat 2048 (f (0x2000 + 256 * i) 256), bitAt (f (0x940 + 8 * (i / 64)) 8) (i % 64),
     if bitAt (f (0xA00 + 8 * (i / 64)) 8) (i % 64) then some (SMap.get 0 e.rowp i) else none⟩) r

/-- The task that CTXL leaves: registers and special registers of the image, the saved trap state of its engine state;
X.STATUS.SV and DM, X.TIX and the handler's own sticky, loop state and pc stay (R352). A register takes the bits it has (R344). -/
def loadTask (img : List Byte) (e : EngineState) (t : Task) : Task :=
  let w (i : Nat) : Word := natW (imageField img (0xAC0 + 8 * i) 8)
  let f (i lo n : Nat) : Nat := field (w i).toNat lo n
  let lvl (i : Nat) (a : Bool) : Level := ⟨w i, natW (f (i + 1) 3 15 * 8), natW (f (i + 2) 3 15 * 8), a⟩
  let x := { t.x with wtmo := w 10, qtroub := w 11, dig := w 12, epc := w 14, ecause := w 15, einfo := w 16, erpt := natW (f 17 0 8)
                      tvec := natW (f 18 3 15 * 8), ptb := natW (f 19 0 52), segt := natW (f 20 4 48 * 16) }
  let lp := e.trapped.loops
  let loops : Loops := ⟨lvl 0 lp.l0.active, lvl 3 lp.l1.active, lp.last1⟩
  let trapped := { e.trapped with loops := loops }
  let mat := { e.mat with mlm := f 6 0 16, mln := f 7 0 16, mlk := f 8 0 16, msp := f 9 0 4 }
  { t with
    regs := imageFiles img t.budget e
    x := x.setStatus (w 13).toNat
    mat := mat
    bind := e.bind, aperture := e.aperture, recovery := e.recovery, wins0 := e.wins0, wins1 := e.wins1
    trapped := trapped, shadow := e.shadow, faults := e.faults, told := e.told }

/-- The instruction-memory halves of an image, their segments loaded where the core holds others (R299, R328). -/
def loadHalves (s : State) (e : EngineState) (t : Task) (c : Core) : Core :=
  match SMap.find s.launches t.lid with
  | none => c
  | some x =>
    let im := if e.half0 = c.half0 then c.imem else reloadHalf s t.x.ptb x.desc t.x.segt.toNat 0 e.half0 c.imem
    let im := if e.half1 = c.half1 then im else reloadHalf s t.x.ptb x.desc t.x.segt.toNat 1 e.half1 im
    { c with imem := im, half0 := e.half0, half1 := e.half1 }

/-- CTXL (R352): a core with C, O or L operations outstanding stalls; an image that fails a check changes nothing. -/
def semCtxl (x : Ctx) (a : SReg) : OpRes :=
  let k := x.m.s.cur
  if !x.m.t.x.sv then .trap Cause.priv 0
  else match imageCheck x (x.s a).toNat true false with
    | .error r => r
    | .ok ps =>
      if !x.m.still || !x.m.c.cq0.isEmpty || !x.m.c.cq1.isEmpty || x.m.s.veils.any (fun v => v.2.ops.any fun o => o.core == k) ||
          x.m.s.links.any (fun o => o.core == k) then stall
      else
        let s := (imageHome ps x.m).s
        let img := ps.flatMap fun p => tabulate s.seen p.1 p.2
        let b := x.m.t.budget
        let eng := (img.drop 0xC00).take 5120
        match s.images[engineToken eng]? with
        | none => ill4
        | some e =>
          if imageField img 0 2 ≠ 1 ∨ imageField img 8 8 ≠ x.m.t.x.launch.toNat ∨ imageField img 2 1 ≠ b.s ∨
              imageField img 3 1 ≠ b.h ∨ imageField img 4 1 ≠ b.t ∨ imageField img 24 8 ≠ (Config.checkWord eng).toNat then ill4
          else .ok fun m => (((imageHome ps m).onT (loadTask img e)).onC (loadHalves s e x.m.t)).afterImage

/-! ## TLBI_REMOVAL_COMPLETE (R346) -/

/-- Whether a TLBI removes an entry. -/
def TlbiForm.removes (f : TlbiForm) (v : Word) (asn : Nat) (e : TlbEnt) : Bool :=
  match f with
  | .addr => e.asn == asn && e.vpn == v.toNat / 65536 * 65536 / 2 ^ e.bits
  | .as => e.asn == v.toNat % 4096
  | .all => true

/-- The entries removed from every TLB of a partition; a page that a walk has found absent is walked anew (R346). -/
def removeTlb (s : State) (part : Nat) (out : TlbEnt → Bool) : State :=
  { s with
    cores := s.cores.map fun (k, c) =>
      (k, if s.partOf (clusterOf k) = part then { c with tlb := c.tlb.filter (fun e => !out e), walkBad := none } else c)
    ctlb := s.ctlb.map fun (cl, es) => (cl, if s.partOf cl = part then es.filter fun e => !out e else es) }

/-- TLBI_REMOVAL_COMPLETE on core `k`: the oldest removal is done; with none left the next bundle may issue. -/
def tlbiDone (s : State) (k : Nat) : Option State :=
  let c := s.core k
  match c.fence with
  | .tlbi f v asn due :: rest =>
    if due ≤ s.cyc then
      let s := s.setCore k { c with fence := rest }
      some (removeTlb s (s.partOf (clusterOf k)) (TlbiForm.removes f v asn))
    else none
  | _ => none

end Sys2Proof.Machine
end

