-- ==== Sys2Proof/Machine/Launch.lean ====
section
/-! DEFINITION. Starting launches, overlay segments, watches and relaunches (R82 to R87, R178, R281 to R284, R297 to R299,
R302 to R312, R367, R376). -/

namespace Sys2Proof.Machine

/-! ## LNCH, RLNCH, TRARM and TRSTAT (R281 to R284) -/

/-- A watch at reset: bound to nothing. -/
def Watch.start : Watch := ⟨none, [], [], none, 0, false⟩

/-- Watch `w`. -/
def State.watch (s : State) (w : Nat) : Watch := SMap.get Watch.start s.watches w

/-- Watch `w` replaced. -/
def State.setWatch (s : State) (w : Nat) (x : Watch) : State := { s with watches := SMap.put s.watches w x }

/-- Whether a launch was started by an LNCH of a task and has not completed. -/
def Launch.pendingOf (x : Launch) (uid : Nat) : Bool :=
  match x.origin with
  | .lnch _ u => u == uid && x.only.isNone && x.phase != .complete
  | .packet .. => false

/-- The launches and relaunches of a task outstanding (R266). -/
def outLaunches (s : State) (uid : Nat) : Nat :=
  s.lreqs.countP (fun r => r.uid == uid) + s.launches.countP (fun (_, x) => x.pendingOf uid) +
    s.watches.foldl (fun n (_, w) => n + w.reqs.countP (fun r => r.packet.isNone && r.uid == uid) +
      (match w.run with
       | some r => (r.req.packet.isNone && r.req.uid == uid).toNat
       | none => 0)) 0

/-- The partition of the issuing core. -/
def Mach.part (m : Mach) : Nat := m.s.partOf (clusterOf m.s.cur)

/-- LNCH (R281): the front end takes the request; the launch's record number is taken here. -/
def semLnch (x : Ctx) (d cnt : SReg) : OpRes :=
  let a := (x.s d).toNat
  if a % 64 ≠ 0 then .trap Cause.memAlign (natW a)
  else if 8 ≤ outLaunches x.m.s x.m.t.uid then stall
  else .ok fun m => m.onS fun s =>
    let n := s.fl.lids + 1
    { s with fl := { s.fl with lids := n }
             lreqs := s.lreqs ++ [⟨n, s.cur, m.t.uid, m.t.lid, a, ctrOf cnt (x.s cnt), x.m.t.x.ptb, s.cyc⟩] }

/-- The launch that a watch is bound to, when partition `part` armed it. -/
def armedBy (s : State) (w part : Nat) : Option Nat :=
  match (s.watch w).bound with
  | some l => match SMap.find s.launches l with
    | some x => if x.part = part then some l else none
    | none => none
  | none => none

/-- The queue of a launch (R93). -/
def queueOf (s : State) (lid : Nat) : Nat :=
  match SMap.find s.launches lid with
  | some x => x.queue
  | none => 0

/-- RLNCH (R282). -/
def semRlnch (x : Ctx) (w : BitVec 4) (cnt : SReg) : OpRes :=
  if (armedBy x.m.s w.toNat x.m.part).isNone then ill4
  else if 8 ≤ outLaunches x.m.s x.m.t.uid then stall
  else .ok fun m => m.onS fun s =>
    let r : RelReq := ⟨s.cur, m.t.uid, none, ctrOf cnt (x.s cnt), queueOf s m.t.lid⟩
    s.setWatch w.toNat { s.watch w.toNat with reqs := (s.watch w.toNat).reqs ++ [r] }

/-- Whether a watch of a partition may be bound to a launch: the launch is the partition's, was started with a trace
buffer, and no relaunch of the watch is in progress (R283, R307). -/
def mayArm (s : State) (w lid part : Nat) : Bool :=
  (s.watch w).run.isNone && (match SMap.find s.launches lid with
    | some x => x.part == part && x.desc.trace != 0 && !x.assign.isEmpty
    | none => false)

/-- A watch bound to a launch, its bitmap cleared (R283). -/
def bindWatch (s : State) (w lid : Nat) : State := s.setWatch w { s.watch w with bound := some lid, dirty := [] }

/-- Whether a fence is a TRARM's that has not taken hold. -/
def Fence.isTrarm : Fence → Bool
  | .trarm .. => true
  | .tlbi .. => false
  | .bound .. => false

/-- TRARM (R283): its bundle is held until the watch is bound, a free number of cycles of at most 4,000 (log 10). -/
def semTrarm (x : Ctx) (w : BitVec 4) (l : SReg) : OpRes :=
  let lid := (x.s l).toNat
  if x.m.c.fence.contains (.bound w.toNat lid) then
    .ok fun m => m.onC fun c => { c with fence := c.fence.filter fun f => f != .bound w.toNat lid }
  else if !mayArm x.m.s w.toNat lid x.m.part then ill4
  else if x.m.c.fence.any Fence.isTrarm then stall
  else .hold fun m =>
    let (k, m) := m.fresh
    m.onC fun c => { c with fence := c.fence ++ [.trarm w.toNat lid (m.s.cyc + Config.holdCycles k % 4000)] }

/-- WATCH_BIND_COMPLETE on core `k`: the watch is bound, and the TRARM's bundle may issue. -/
def watchBindComplete (s : State) (k : Nat) : Option State :=
  let c := s.core k
  match c.fence.find? Fence.isTrarm with
  | some (.trarm w lid due) =>
    if due ≤ s.cyc then
      let fence := c.fence.map fun f => if f = .trarm w lid due then .bound w lid else f
      some (bindWatch (s.setCore k { c with fence := fence }) w lid)
    else none
  | _ => none

/-- The word of TRSTAT (R284). -/
def trstatWord (s : State) (w : Nat) : Word :=
  let x := s.watch w
  natW (x.bound.isSome.toNat + x.run.isSome.toNat * 2 + x.ovf.toNat * 4 + x.orphans * 2 ^ 8 + orphanBase w / 65536 * 2 ^ 28)

/-- TRSTAT (R284). -/
def semTrstat (x : Ctx) (d : SReg) (w : BitVec 4) : OpRes :=
  if x.m.loadsFull then stall
  else .ok fun m =>
    let (k, m) := m.fresh
    m.pollS (.trstat w.toNat) k d.toNat

/-! ## Launch descriptors (R297 to R299) -/

/-- The statuses a launch can fail with (R293). -/
def Status.badPacket : Nat := 1
def Status.gangSize : Nat := 5
def Status.access : Nat := 6

/-- Whether a descriptor, held as a number of 1,024 bits, keeps the limits and reserved bits of R297; also the rule of
R376 on DEVS. -/
def descOk (v : Nat) : Bool :=
  let f (o n : Nat) : Nat := field v (8 * o) (8 * n)
  f 0 8 % 64 == 0 && f 8 4 % 8 == 0 && decide (8 ≤ f 8 4) && decide (f 8 4 ≤ 131072) && f 12 4 % 8 == 0 &&
  decide (f 12 4 < 131072) && decide (1 ≤ f 16 4) && decide (f 16 4 ≤ 16777216) && decide (1 ≤ f 20 1) && decide (f 20 1 ≤ 16) &&
  decide (f 21 1 < 16) && f 22 1 != 0 && f 23 1 == 0 && decide (1 ≤ f 24 1) && decide (f 24 1 ≤ 64) && decide (f 25 1 ≤ 32) &&
  decide (f 26 1 ≤ 24) && f 27 1 == 0 && f 40 4 % 8 == 0 && decide (f 40 4 < 0x40000) && f 44 4 == 0 && f 56 8 % 512 == 0 &&
  decide (f 72 2 ≤ 1024) && (f 72 2 != 0 || f 64 8 == 0) && f 77 3 == 0 && decide (f 88 2 ≤ 4096) && f 90 6 == 0 &&
  decide (f 112 2 ≤ 511) && f 114 14 == 0 && (f 104 8 != 0 || f 112 2 == 0)

/-- The fields of a descriptor (R297); the stage table is read when the launch starts. -/
def descFields (v : Nat) : Desc :=
  let f (o n : Nat) : Nat := field v (8 * o) (8 * n)
  { image := f 0 8, ilen := f 8 4, entry := f 12 4, ntask := f 16 4, stages := f 20 1, dmode := bitAt (f 21 1) 0
    gang := bitAt (f 21 1) 1, te := bitAt (f 21 1) 2, super := bitAt (f 21 1) 3, cmask := f 22 1
    budget := ⟨f 24 1, f 25 1, f 26 1⟩, qthr := f 28 4, seed := f 32 8, tvec := f 40 4, arg := f 48 8, trace := f 56 8
    segt := field (f 64 8) 4 48 * 16, nseg := f 72 2, banks := f 74 3, bufl := f 80 8, nbuf := f 88 2, staget := f 96 8, first := []
    dtag := f 104 8, devs := f 112 2 }

/-- A descriptor read and checked. -/
def descOf (v : Nat) : Option Desc := if descOk v then some (descFields v) else none

/-- Whether a list rises strictly. -/
def rises : List Nat → Bool
  | a :: b :: rest => decide (a < b) && rises (b :: rest)
  | _ => true

/-- Values read one after another; `none` where one cannot be read. -/
def readList (rd : Nat → Option Nat) : Nat → Nat → Option (List Nat)
  | _, 0 => some []
  | i, n + 1 => match rd i, readList rd (i + 1) n with
    | some v, some vs => some (v :: vs)
    | _, _ => none

/-- The table of first indices of a descriptor (R83), or the status it fails with. -/
def stageTable (s : State) (ptb : Word) (d : Desc) : Except Nat (List Nat) :=
  let tab :=
    if d.staget = 0 then some (tabulate (fun k => d.ntask + k - d.stages) 1 (d.stages - 1))
    else readList (fun i => fleusRead s ptb (d.staget + 4 * i) 4) 0 (d.stages - 1)
  match tab with
  | none => .error Status.access
  | some t =>
    if !rises t || t.any (fun f => decide (d.ntask ≤ f)) || (d.staget == 0 && decide (d.ntask + 1 < d.stages)) then
      .error Status.badPacket
    else .ok t

/-- Segment table entry `k`: address, length and reserved bytes (R299). -/
def segEntry (s : State) (ptb : Word) (segt k : Nat) : Option (Nat × Nat) :=
  match fleusRead s ptb (segt + 16 * (k - 1)) 8, fleusRead s ptb (segt + 16 * (k - 1) + 8) 8 with
  | some a, some w => some (a, w)
  | _, _ => none

/-- Whether a segment table entry keeps its limits (R299). -/
def segOk (e : Nat × Nat) : Bool :=
  let len := field e.2 0 32
  e.1 % 64 == 0 && len % 8 == 0 && decide (8 ≤ len) && decide (len ≤ 131072) && field e.2 32 32 == 0

/-- The status with which a descriptor's segment table fails, if it does. -/
def segTableBad (s : State) (ptb : Word) (d : Desc) : Option Nat :=
  (tabulate (fun k => segEntry s ptb d.segt k) 1 d.nseg).findSome? fun e => match e with
    | none => some Status.access
    | some e => if segOk e then none else some Status.badPacket

/-- A buffer-list entry (R298): base, length, mode, handle. -/
structure BufEntry where
  base : Nat
  len  : Nat
  rd   : Bool
  wr   : Bool
  h    : Nat
  deriving DecidableEq, Repr

/-- A buffer-list entry from its two 8-byte halves; `none` is BAD_PACKET. -/
def bufEntry (a w : Nat) : Option BufEntry :=
  if field w 42 6 ≠ 0 ∨ 4095 < field w 48 16 then none
  else some ⟨a, field w 0 40, bitAt w 40, bitAt w 41, field w 48 16⟩

/-- The buffer list of a descriptor from entry `i` on, or the status it fails with. -/
def bufList (s : State) (ptb : Word) (d : Desc) (i : Nat) : Nat → Except Nat (List BufEntry)
  | 0 => .ok []
  | n + 1 =>
    match fleusRead s ptb (d.bufl + 16 * i) 8, fleusRead s ptb (d.bufl + 16 * i + 8) 8 with
    | some a, some w => match bufEntry a w with
      | none => .error Status.badPacket
      | some e => match bufList s ptb d (i + 1) n with
        | .ok es => .ok (e :: es)
        | .error c => .error c
    | _, _ => .error Status.access

/-! ## Placement (R85 to R87) -/

/-- The eligible cores of a launch in a partition, in order of chiplet, cluster and core (R85). -/
def partCores (s : State) (part cmask : Nat) : List Nat :=
  eligible ((tabulate id 0 512).filter fun k => s.partOf (clusterOf k) == part) cmask

/-- How many tasks count for a core (R86). -/
def coreLoad (s : State) (k : Nat) : Nat :=
  let c := s.core k
  c.todo.length + c.saved.length + c.task.isSome.toNat

/-- The first core of a list with the least load. -/
def leastLoaded (load : Nat → Nat) : List Nat → Option Nat
  | [] => none
  | k :: ks => match leastLoaded load ks with
    | some j => if load j < load k then some j else some k
    | none => some k

/-- The core of task `i` in D-mode among eligible ones: by formula, a taken one passed over in a gang (R86, R87). -/
def placeD (es : List Nat) (seed : Nat) (gang : Bool) (used : List Nat) (i : Nat) : Nat :=
  let e := (mix64 (natW seed ^^^ natW (i * 0x9E3779B97F4A7C15))).toNat % es.length
  let pick (j : Nat) : Nat := es.getD (j % es.length) 0
  if gang then pick ((firstFrom (fun j => !used.contains (pick j)) e es.length).getD e) else pick e

/-- The core of a task in F-mode: the fewest tasks, those placed before it counted; in a gang a free one (R86, R87). -/
def placeF (s : State) (es : List Nat) (gang : Bool) (used : List Nat) : Nat :=
  let pool := if gang then es.filter fun k => !used.contains k else es
  (leastLoaded (fun k => coreLoad s k + used.count k) pool).getD 0

/-- The cores of tasks in the order given; `used` lists those already taken, the latest first. -/
def place (s : State) (d : Desc) (es used : List Nat) : List Nat → List Nat
  | [] => []
  | i :: is =>
    let k := if d.dmode then placeD es d.seed d.gang used i else placeF s es d.gang used
    k :: place s d es (k :: used) is

/-- Whether a core is free for a gang, its companion letting it begin a task (R85, R87). -/
def coreFree (s : State) (k : Nat) : Bool :=
  let c := s.core k
  c.task.isNone && c.todo.isEmpty && c.saved.isEmpty && !companionBars s k

/-! ## Bank modes at a launch's start (R178) -/

/-- The mode of a BANKS code (R176). -/
def modeOf : Nat → BankMode
  | 0 => .cache
  | 1 => .scratchpad
  | 2 => .fifo
  | _ => .reserve

/-- Whether a running launch other than `lid` claims a bank. -/
def otherClaim (s : State) (b : Bank) (lid : Nat) : Bool :=
  match b.claim with
  | some l => l != lid && (match SMap.find s.launches l with
    | some x => x.live
    | none => false)
  | none => false

/-- Whether a bank may change its mode now: it is not on loan, and a FIFO is empty (R95, R177). -/
def Bank.still (b : Bank) : Bool := b.lent.isNone && b.fifo.isEmpty

/-- Whether bank `no` lets launch `lid`, which asks `code` of it, start (R178). -/
def bankAllows (s : State) (lid no code : Nat) : Bool :=
  let b := s.bank no
  code == 0 || b.mode == modeOf code || (!otherClaim s b lid && b.still)

/-- Bank `no` as a launch that asks `code` of it finds it at its start; one that is to serve as cache and still holds FIFO entries
or is on loan goes back once it does no more (R177, R178). -/
def startBankMode (lid : Nat) (s : State) (no code : Nat) : State :=
  let b := s.bank no
  if otherClaim s b lid then s
  else if code = 0 then (if b.mode = .cache then s else s.toCache no)
  else changeBank s no lid (modeOf code)

/-- The banks of the clusters of the cores given, with the code asked of each. -/
def bankAsks (d : Desc) (ks : List Nat) : List (Nat × Nat) :=
  (clustersOf ks).flatMap fun cl => tabulate (fun b => (16 * cl + b, d.bankCode b)) 0 12

/-- Whether every bank lets a launch start. -/
def banksAllow (s : State) (lid : Nat) (d : Desc) (ks : List Nat) : Bool := (bankAsks d ks).all fun e => bankAllows s lid e.1 e.2

/-- Every bank as the launch finds it. -/
def startBanks (s : State) (lid : Nat) (d : Desc) (ks : List Nat) : State :=
  (bankAsks d ks).foldl (fun s e => startBankMode lid s e.1 e.2) s

/-! ## Buffer handles at a launch's start (R298) -/

/-- The physical pieces of a range under a page-table root. -/
def physPieces (s : State) (ptb : Word) (base len : Nat) : List (Nat × Nat) :=
  if len = 0 then [] else
  (pagesOf base len).filterMap fun p => (walk s ptb p.1).map fun e => (e.phys p.1, p.2)

/-- Whether an L1 line lies in one of the pieces. -/
def lineIn (ps : List (Nat × Nat)) (line : Nat) : Bool :=
  ps.any fun p => decide (p.1 < 64 * line + 64) && decide (64 * line < p.1 + p.2)

/-- The lines of the pieces written back and invalidated in the L1s and the caches of the clusters given (R298). -/
def dropLines (s : State) (cls : List Nat) (ps : List (Nat × Nat)) : State :=
  let s := s.cores.foldl (fun s e => if cls.contains (clusterOf e.1) then s.leaveL1 (lineIn ps) e.1 else s) s
  cls.foldl (fun s cl => s.ccDrop cl fun x => lineIn ps x.line) s

/-- A buffer of the list taken into the table; one that the launch reads leaves the caches of the clusters that have not read
it since its writer changed, or, where the list gives it another range, of all the launch's clusters. -/
def startBuf (ptb : Word) (cls : List Nat) (s : State) (e : BufEntry) : State :=
  let ps := physPieces s ptb e.base e.len
  let b : Buf := match SMap.find s.fl.bufs e.h with
    | some b => if b.ranges = ps then b else { b with ranges := ps, seen := [] }
    | none => ⟨ps, .none, 0, []⟩
  let stale := cls.filter fun cl => SMap.get 0 b.seen cl != b.stamp + 1
  let b := if e.rd then { b with seen := cls.foldl (fun m cl => SMap.put m cl (b.stamp + 1)) b.seen } else b
  let s := { s with fl := { s.fl with bufs := SMap.put s.fl.bufs e.h b } }
  if e.rd then dropLines s stale ps else s

/-- The constant caches of cores invalidated (R185, R298). -/
def dropConst (s : State) (ks : List Nat) : State :=
  { s with cores := s.cores.map fun (k, c) => (k, if ks.contains k then { c with cc := [] } else c) }

/-! ## LAUNCH_START -/

/-- A launch accepted and not started (R281, R292). -/
def Launch.new (lid : Nat) (d : Desc) (o : Origin) (q part : Nat) (ctr : Option Nat) (depth daddr : Nat) : Launch :=
  { lid := lid, desc := d, origin := o, queue := q, part := part, ctr := ctr, phase := .waiting, start := 0, ptb := 0, spill := 0
    assign := [], ended := 0, left := 0, digest := 0, discard := 0, fault := false, marked := false, again := false, next := 0, ranAt := 0
    reex := 0, status := 0, lnfail := 0, lnaddr := 0, exchange := false, ring := [], ltmo := [], depth := depth, writes := [], tbase := []
    only := none, kept := [], daddr := daddr, relix := none }

/-- A task put into a core's queue before the later ones of its launch there (R86). -/
def queueIn (e : Nat × Nat) : List (Nat × Nat) → List (Nat × Nat)
  | [] => [e]
  | x :: xs => if x.1 = e.1 ∧ e.2 < x.2 then e :: x :: xs else x :: queueIn e xs

/-- Tasks queued on their cores. -/
def queueTasks (s : State) (lid : Nat) (ts : List (Nat × Nat)) : State :=
  ts.foldl (fun s e =>
    let c := s.core e.2
    s.setCore e.2 { c with todo := queueIn (lid, e.1) c.todo }) s

/-- Tasks queued on their cores, where those of a gang begin at once (R87). -/
def startTasks (s : State) (x : Launch) (ts : List (Nat × Nat)) : State :=
  let s := queueTasks s x.lid ts
  if x.desc.gang then ts.foldl (fun s e => beginTask s e.2 x.lid e.1) s else s

/-- Whether a running launch of the device carries a domain tag (R376). -/
def tagTaken (s : State) (tag : Nat) : Bool := tag != 0 && s.launches.any fun (_, x) => x.live && x.desc.dtag == tag

/-- What starting a launch answers: started, not yet possible, or a status. -/
inductive StartRes where
  | started (s : State)
  | waits
  | fails (status : Nat)

/-- A launch whose tables are checked, started on its cores (R86, R87, R178, R274, R298, R305). -/
def placeLaunch (s : State) (x : Launch) (bufs : List BufEntry) : StartRes :=
  let d := x.desc
  let es := partCores s x.part d.cmask
  if d.gang ∧ es.length < d.ntask then .fails Status.gangSize
  else match traceBase s x.ptb d with
    | none => .fails Status.access
    | some tb =>
      let ks := place s d es [] (tabulate id 0 d.ntask)
      if es.isEmpty || (d.gang && !ks.all (coreFree s)) || !banksAllow s x.lid d ks then .waits
      else
        let x := { x with phase := .running, start := s.cyc, assign := ks, left := d.ntask, tbase := tb
                          writes := (bufs.filter BufEntry.wr).map BufEntry.h }
        let s := { s with launches := SMap.put s.launches x.lid x }.recount d.dtag
        let s := startBanks s x.lid d ks
        let s := bufs.foldl (startBuf x.ptb (clustersOf ks)) s
        .started (startTasks (dropConst s ks) x ((tabulate id 0 d.ntask).zip ks))

/-- The tables of a descriptor checked, then the launch started. -/
def admitLaunch (s : State) (x : Launch) : StartRes :=
  if tagTaken s x.desc.dtag then .fails Status.badPacket
  else match stageTable s x.ptb x.desc with
    | .error c => .fails c
    | .ok first => match segTableBad s x.ptb x.desc with
      | some c => .fails c
      | none => match bufList s x.ptb x.desc 0 x.desc.nbuf with
        | .error c => .fails c
        | .ok bufs => placeLaunch s { x with desc := { x.desc with first := first } } bufs

/-- The 128 bytes of a descriptor as a number, read through a page-table root. -/
def descRead (s : State) (ptb : Word) (a : Nat) : Option Nat :=
  match fleusRead s ptb a 64, fleusRead s ptb (a + 64) 64 with
  | some lo, some hi => some (lo + hi * 2 ^ 512)
  | _, _ => none

/-- An LNCH that the front end rejects (R281): the status is recorded under its launch number, and an asynchronous fault follows
or, with the task gone, a note in its launch's status and an event. -/
def failLnch (s : State) (r : LnchReq) (status : Nat) (relix : Option Nat := none) : State :=
  let d := descFields ((descRead s r.ptb r.addr).getD 0)
  let x := { Launch.new r.n d (.lnch r.core r.uid) (queueOf s r.lid) (s.partOf (clusterOf r.core)) none 0 r.addr with
    phase := .complete, status := status, relix := relix }
  let s := { s with lreqs := s.lreqs.filter (fun y => y.n != r.n), launches := SMap.put s.launches r.n x }
  if (s.core r.core).hasUid r.uid then s.report r.core r.uid Cause.illOperand (illInfo 4 r.addr)
  else
    let s := s.onLaunch r.lid fun x =>
      { x with lnfail := Nat.min (x.lnfail + 1) (2 ^ 32 - 1), lnaddr := if x.lnfail = 0 then r.addr else x.lnaddr }
    let q := queueOf s r.lid
    s.post (s.queue q).part ⟨8, 0, q, (s.queue q).home, 0, r.addr⟩

/-- Whether what a task issued before an LNCH has performed, at module scope (R281). -/
def lnchReleased (s : State) (r : LnchReq) : Bool :=
  match taskOn s r.core r.uid with
  | some (c, t) => classesDone s r.core c t 31 r.issue true
  | none => !s.ccHolds (clusterOf r.core) r.issue

/-- The launch that an LNCH asks for, or the status that the front end rejects it with (R281). Its partition and depth follow
from the launch that issued it. -/
def lnchLaunch (s : State) (r : LnchReq) : Except Nat Launch :=
  match SMap.find s.launches r.lid, descRead s r.ptb r.addr with
  | some y, some v => match descOf v with
    | some d => if 4 ≤ y.depth then .error Status.badPacket
        else .ok (Launch.new r.n d (.lnch r.core r.uid) y.queue y.part r.ctr (y.depth + 1) r.addr)
    | none => .error Status.badPacket
  | some _, none => .error Status.access
  | none, _ => .error Status.badPacket

/-- The launch of an LNCH started (R281). -/
def startLnch (s : State) (r : LnchReq) (x : Launch) : Option State :=
  match admitLaunch s x with
  | .started s => some { s with lreqs := s.lreqs.filter fun z => z.n != r.n }
  | .waits => none
  | .fails c => some (failLnch s r c)

/-- The launch of a LAUNCH packet ended before it started (R293). -/
def failPacket (s : State) (x : Launch) (q n c : Nat) (info : Option Nat := none) : State :=
  (s.onLaunch x.lid fun y => { y with phase := .complete, status := c, relix := x.relix }).packetDone q n c info

/-- The launch of a LAUNCH packet started: its descriptor is read anew, for a relocation may have filled a field of it (R57, R292,
R293). -/
def startPacket (s : State) (x : Launch) (ptb : Word) (spill : Nat) : Option State :=
  match x.origin with
  | .packet q n =>
    match descOf (s.value x.daddr 128) with
    | none => some (failPacket s x q n Status.badPacket)
    | some d => match admitLaunch s { x with desc := d, ptb := ptb, spill := spill } with
      | .started s => some s
      | .waits => none
      | .fails c => some (failPacket s x q n c)
  | .lnch .. => none

/-- Page tables that Fleus builds for a launch written to memory, 8 bytes each. -/
def writeTables (s : State) (ts : List (Nat × Word)) : State :=
  ts.foldl (fun (s : State) (e : Nat × Word) => s.writeAll none e.1 (leBytes 8 e.2.toNat)) s

/-! ### What the tables map (R174, R183, R255, R311) -/

/-- The non-zero 8-byte entries, by index, of the `n` bytes of memory from `base` on. -/
def tableEntries (m : SMap Byte) (base n : Nat) : List (Nat × Nat) :=
  ((m.dropWhile fun e => decide (e.1 < base)).takeWhile fun e => decide (e.1 < base + n)).foldr
    (fun e es =>
      let i := (e.1 - base) / 8
      let v := e.2.toNat * 256 ^ (e.1 % 8)
      match es with
      | (j, w) :: rest => if j = i then (i, v + w) :: rest else (i, v) :: es
      | [] => [(i, v)]) []

/-- The leaves of the level-`lvl` table at `base`, whose first entry translates `va`, in rising order (R172). -/
def leavesFrom (s : State) (asn : Nat) : Nat → Nat → Nat → Nat → List TlbEnt
  | 0, _, _, _ => []
  | n + 1, lvl, base, va =>
    let bits := if lvl = 4 then 16 else 48 - 9 * lvl
    if regionOf base ≠ .hbm ∧ regionOf base ≠ .lpddr then []
    else (tableEntries s.mem base (if lvl = 4 then 256 else 4096)).flatMap fun (i, e) =>
      let va := va + i * 2 ^ bits
      if !bitAt e 0 || field e 6 6 != 0 || field e 52 12 != 0 then []
      else if bitAt e 1 then (if lvl < 2 then [] else (leafEnt asn s.devnum va e bits).toList)
      else if lvl = 4 then []
      else leavesFrom s asn n (lvl + 1) (field e 12 40 * 4096) va

/-- The leaves of the tables of X.PTB. -/
def leavesOf (s : State) (ptb : Word) : List TlbEnt := leavesFrom s (field ptb.toNat 0 12) 5 0 (field ptb.toNat 12 40 * 4096) 0

/-- The first address of a leaf's page, and the one after its last. -/
def TlbEnt.first (e : TlbEnt) : Nat := e.vpn * 2 ^ e.bits
def TlbEnt.next (e : TlbEnt) : Nat := (e.vpn + 1) * 2 ^ e.bits

/-- Whether the rising leaves map `n` bytes from `a` on at their own addresses, as user pages with RD and WR. -/
def mapsItself (es : List TlbEnt) (a n : Nat) : Bool :=
  decide (a + n ≤ es.foldl (fun upto e =>
    if e.first ≤ upto ∧ upto < e.next ∧ e.pa = e.first ∧ e.rd ∧ e.wr ∧ e.us then e.next else upto) a)

/-- Whether a leaf maps some of `n` bytes of HBM4E from `a` on. -/
def TlbEnt.meets (dev : Nat) (e : TlbEnt) (a n : Nat) : Bool :=
  let pa := localPa dev e.pa
  regionOf pa == .hbm && decide (pa < a + n) && decide (a < pa + 2 ^ e.bits)

/-- Whether a leaf maps what Fleus keeps from launches: the range for rebuilding a stack, the Veil maps, the orphan lists
(R183, R255, R311). -/
def TlbEnt.reserved (dev resets : Nat) (e : TlbEnt) : Bool :=
  let pa := localPa dev e.pa
  (decide (pa ≤ 0x03FFFFFFFFFF) && decide (0x03F400000000 < pa + 2 ^ e.bits)) ||
    (tabulate id 0 8).any (fun i => e.meets dev (mapBase resets i) 0x40000) || (tabulate id 0 16).any fun w => e.meets dev (orphanBase w) 0x10000

/-- Whether page tables are such as Fleus builds for a launch (R174, R183). -/
def tablesOk (s : State) (ptb : Word) : Bool :=
  let es := leavesOf s ptb
  mapsItself es 0x7D0000000000 (8 * 65536) && mapsItself es 0x7E0000000000 (2 ^ 24) && mapsItself es 0x7F0000000000 (2 ^ 30) &&
    !es.any (TlbEnt.reserved s.devnum s.fl.resets)

/-! ### Relocations (R57) -/

/-- Whether a value fits its field. -/
def relocFits (r : Reloc) : Bool :=
  match r.kind with
  | .tensorBase => r.value % 64 == 0
  | .word => decide (r.value < 2 ^ 32)
  | .ldi => decide (-2 ^ 44 ≤ r.value) && decide (r.value < 2 ^ 44)
  | .imm33 => decide (-2 ^ 32 ≤ r.value) && decide (r.value < 2 ^ 32)
  | .dword => true
  | .entry => true
  | .ldih => true

/-- The bytes that a relocation writes. -/
def relocSize : RelocKind → Nat
  | .word => 4
  | .entry => 4
  | .dword | .tensorBase | .ldi | .ldih | .imm33 => 8

/-- The bytes `old` with a value in the field. -/
def relocFill (r : Reloc) (old : Nat) : Nat :=
  let v := (BitVec.ofInt 64 r.value).toNat
  match r.kind with
  | .ldi => old / 2 ^ 45 * 2 ^ 45 + v % 2 ^ 45
  | .ldih => old / 2 ^ 19 * 2 ^ 19 + v / 2 ^ 45
  | .imm33 => old / 2 ^ 33 * 2 ^ 33 + v % 2 ^ 33
  | .dword => v
  | .tensorBase => v
  | .word => v
  | .entry => v

/-- Bytes written at physical pieces in order. -/
def writePieces : List (Nat × Nat) → List Byte → State → State
  | [], _, s => s
  | (pa, n) :: ps, bs, s => writePieces ps (bs.drop n) (s.writeAll none pa (bs.take n))

/-- Relocations that all fit resolved in the image under page tables, each page by its own translation; `none` where one is in no
mapped page. -/
def relocate (ptb : Word) : List Reloc → State → Option State
  | [], s => some s
  | r :: rs, s =>
    let n := relocSize r.kind
    let ps := physPieces s ptb r.va n
    let old := ps.flatMap fun p => s.bytes p.1 p.2
    if old.length = n then relocate ptb rs (writePieces ps (leBytes n (relocFill r (leNat old))) s) else none

/-- The status RELOC_RANGE; its code is none of R293's (log 57). -/
def Status.relocRange : Nat := 10 + Config.relocStatus 0 % 246

/-- The image and tables of a launch ready: the tables written, the relocations resolved; `none` where Fleus would not have built
such tables. -/
def loadTables (s : State) (ptb : Word) (tables : List (Nat × Word)) (relocs : List Reloc) : Option State :=
  let s := writeTables s tables
  if tablesOk s ptb then relocate ptb relocs s else none

/-- LAUNCH_START (R57, R82 to R87, R281, R297): launch `lid` starts under page tables that Fleus has built, its spill area
reserved and its image's relocations resolved, those in its descriptor before it is read; with one that does not fit, the image
is rejected whole. Where more than one status applies, RELOC_RANGE comes before what the tables and the placement fail with, and
for an LNCH after what its descriptor fails with (DESIGN CHOICE, log 35). -/
def launchStart (s : State) (lid ptb spill : Nat) (tables : List (Nat × Word)) (relocs : List Reloc) : Option State :=
  let ptb := natW (ptb % 2 ^ 52)
  let bad := relocs.findIdx? fun r => !relocFits r
  match s.lreqs.find? fun r => r.n == lid with
  | some r =>
    if !lnchReleased s r then none
    else match lnchLaunch s r, bad with
      | .error c, _ => some (failLnch s r c)
      | .ok _, some i => some (failLnch s r Status.relocRange (some i))
      | .ok _, none => (loadTables s ptb tables relocs).bind fun s => match lnchLaunch s r with
        | .error c => some (failLnch s r c)
        | .ok x => startLnch s r { x with ptb := ptb, spill := spill }
  | none => match SMap.find s.launches lid with
    | some x => match x.phase, x.origin, bad with
      | .waiting, .packet q n, some i =>
        some (failPacket s { x with relix := some i } q n Status.relocRange (some i))
      | .waiting, _, none => (loadTables s ptb tables relocs).bind fun s => startPacket s x ptb spill
      | _, _, _ => none
    | none => none

/-! ## Overlay segments (R299) -/

/-- The half of instruction memory that an offset lies in. -/
def Core.half (c : Core) (pc : Nat) : Half := if pc < 131072 then c.half0 else c.half1

/-- A half set. -/
def Core.setHalf (c : Core) (i : Nat) (h : Half) : Core := if i = 0 then { c with half0 := h } else { c with half1 := h }

/-- Segment `k` requested into its half; `none` where its table entry fails its check, which stops the task. -/
def requestSegment (m : Mach) (k : Nat) : Option Mach :=
  match segEntry m.s m.t.x.ptb m.t.x.segt.toNat k with
  | none => none
  | some e =>
    if !segOk e then none
    else
      let (n, m) := m.fresh
      some (m.onC fun c => c.setHalf (k % 2) (.loading k e.1 (field e.2 0 32) (m.s.cyc + 1 + Config.engineExtra n)))

/-- The number of further segments of the running task's launch. -/
def Mach.nseg (m : Mach) : Nat :=
  match SMap.find m.s.launches m.t.lid with
  | some x => x.desc.nseg
  | none => 0

/-- Whether a half neither holds nor is loading segment `k`. -/
def Half.lacks (h : Half) (k : Nat) : Bool :=
  match h with
  | .empty => true
  | .loading j _ _ _ => j != k
  | .holds j => j != k

/-- The effect of B = 1 on a bundle at `pc`: `none` stops the task (R299). -/
def prefetchSegment (m : Mach) (pc : Nat) : Option Mach :=
  match m.c.half pc with
  | .holds k =>
    let other := if pc < 131072 then m.c.half1 else m.c.half0
    if k < m.nseg ∧ other.lacks (k + 1) then requestSegment m (k + 1) else some m
  | _ => some m

/-- A task stopped because a segment table entry fails (R299). -/
def stopSegment (m : Mach) : State := m.stop Cause.illOperand (illInfo 4) m.t.pc m.t.iter

/-- Control that has entered an EMPTY half at the task's pc: SEG_ABSENT, with the target in X.EINFO, which Fleus serves by
loading the segment after the one that was executing; with none to load, it stops the task (R299, R326). -/
def serveAbsent (m : Mach) : State :=
  let m := m.onT fun t => { t with x := { t.x with einfo := natW t.pc } }
  let other := if m.t.pc < 131072 then m.c.half1 else m.c.half0
  match other with
  | .holds k =>
    if k < m.nseg then
      match requestSegment m (k + 1) with
      | some m => m.put
      | none => stopSegment m
    else m.stop Cause.segAbsent (natW m.t.pc) m.t.pc m.t.iter
  | _ => m.stop Cause.segAbsent (natW m.t.pc) m.t.pc m.t.iter

/-- SEG_LOAD_COMPLETE on core `k` (R299). -/
def segLoadComplete (s : State) (k : Nat) : Option State :=
  let c := s.core k
  match c.task with
  | none => none
  | some t =>
    [0, 1].findSome? fun i =>
      match (if i = 0 then c.half0 else c.half1) with
      | .loading j va len due =>
        if due ≤ s.cyc then
          some (s.setCore k { c.setHalf i (.holds j) with
            imem := loadHalf s t.x.ptb va len i c.imem, imemErr := c.imemErr.filter fun a => a / 131072 != i })
        else none
      | _ => none

/-! ## Relaunch (R308 to R312, R367) -/

/-- The tasks of a traced launch as its buffer records them. -/
def readTraces (s : State) (x : Launch) : List TaskRecs := tabulate (readTrace s x) 0 x.desc.ntask

/-- Whether two runs of tiles share one. -/
def TraceRec.meets (a b : TraceRec) : Bool := decide (a.tile < b.tile + b.run) && decide (b.tile < a.tile + a.run)

/-- Whether a write record of `ws` meets a read record of `rs`. -/
def recsMeet (ws rs : List TraceRec) : Bool := ws.any fun w => w.wr && rs.any fun r => !r.wr && w.meets r

/-- Whether a read record meets the dirty tiles. -/
def dirtyMeets (dirty : List Nat) (rs : List TraceRec) : Bool :=
  rs.any fun r => !r.wr && dirty.any fun t => decide (r.tile ≤ t) && decide (t < r.tile + r.run)

/-- One round of the selection: the tasks that read what a selected one writes join; one with ALL writes every tile, and
every task joins (R308). -/
def selectMore (ts : List TaskRecs) (sel : List Nat) : List Nat :=
  let inSel := ts.filter fun t => sel.contains t.tix
  let all := inSel.any TaskRecs.all
  let ws := inSel.flatMap TaskRecs.recs
  (ts.filter fun t => sel.contains t.tix || all || recsMeet ws t.recs).map TaskRecs.tix

/-- The selection closed under `n` rounds. -/
def closeSel (ts : List TaskRecs) : Nat → List Nat → List Nat
  | 0, sel => sel
  | n + 1, sel =>
    let more := selectMore ts sel
    if more = sel then sel else closeSel ts n more

/-- The tasks that a snapshot of dirty tiles selects, in rising order (R308). -/
def selected (ts : List TaskRecs) (dirty : List Nat) : List Nat :=
  closeSel ts ts.length ((ts.filter fun t => t.all || t.status != 2 || dirtyMeets dirty t.recs).map TaskRecs.tix)

/-- The tiles of the write records of a task. -/
def writtenTiles (rs : List TraceRec) : List Nat :=
  (rs.filter TraceRec.wr).flatMap fun r => tabulate id r.tile r.run

/-- The orphans of a relaunch, each tile with the lowest index of a re-run task that no longer writes it (R311). -/
def orphansOf (old now : List TaskRecs) (ran : List Nat) : SMap Nat :=
  let written (t : Nat) : Bool := now.any fun x => x.recs.any fun r => r.wr && decide (r.tile ≤ t) && decide (t < r.tile + r.run)
  (old.filter fun x => ran.contains x.tix).foldl (fun m x =>
    (writtenTiles x.recs).foldl (fun m t => if written t || (SMap.find m t).isSome then m else SMap.put m t x.tix) m) []

/-- An orphan list written (R311). -/
def writeOrphans (s : State) (w : Nat) (os : SMap Nat) : State :=
  s.writeQuiet (orphanBase w) ((os.take 8192).flatMap fun e => leBytes 8 (e.1 % 2 ^ 36 + e.2 * 2 ^ 36))

/-- The counter addition of a completed relaunch, or its packet's completion (R282, R292, R312). -/
def relaunchDone (s : State) (r : RelReq) (status : Nat) : State :=
  match r.packet with
  | none => s.sendAdd r.ctr 1 r.core r.uid 0
  | some p => (s.sendAdd r.ctr 1 0 0 0).packetDone p.q p.n status

/-- A relaunch completed: orphans listed, the launch record closed, its counter raised. -/
def completeRelaunch (s : State) (w lid : Nat) (x : Launch) (r : RelRun) : State :=
  let ran := x.only.getD []
  let os := orphansOf r.old (readTraces s x) ran
  let s := writeOrphans s w os
  let s := s.setWatch w { s.watch w with run := none, orphans := Nat.min os.length 1048575, ovf := decide (8192 < os.length) }
  let s := closeLaunch s lid x x.endStatus x.endReex
  relaunchDone (s.onLaunch lid fun x => { x with only := none }) r.req x.endStatus

/-- RELAUNCH_ACCEPT of watch `w` (R282, R308, R309): the oldest request is accepted once the launch has completed. -/
def relaunchAccept (s : State) (w : Nat) : Option State :=
  let y := s.watch w
  let binding := s.cores.any fun (_, c) => c.fence.any fun f => match f with
    | .trarm v _ _ => v == w
    | _ => false
  match y.reqs, y.bound, y.run with
  | r :: rest, some lid, none =>
    match SMap.find s.launches lid with
    | none => none
    | some x =>
      if x.phase ≠ .complete ∨ binding then none
      else
        let old := readTraces s x
        let sel := selected old y.dirty
        let es := partCores s x.part x.desc.cmask
        let ks := place s x.desc es [] sel
        let x := { x with phase := .rerun, start := s.cyc, queue := r.queue, ended := x.desc.ntask - sel.length, left := sel.length
                          digest := 0, fault := false, marked := false, again := false, next := 0, ranAt := 0, exchange := false, ring := []
                          ltmo := [], only := some sel
                          assign := (sel.zip ks).foldl (fun a e => a.set e.1 e.2) x.assign }
        let run : RelRun := ⟨r, old, sel, []⟩
        let ready := s.setWatch w { y with reqs := rest, dirty := [], run := some run }
        let ready := { ready with launches := SMap.put ready.launches lid x }.recount x.desc.dtag
        if sel.isEmpty then some (completeRelaunch ready w lid x run)
        else if es.isEmpty || !banksAllow s lid x.desc ks || (x.desc.gang && !ks.all (coreFree s)) then none
        else some (startTasks (startBanks ready lid x.desc ks) x (sel.zip ks))
  | _, _, _ => none

/-- The records of a re-run task, its sub-tasks' with them, so far: those of the tasks on cores, or those of its buffer once
it has ended; and whether they overflowed. -/
def newRecs (s : State) (x : Launch) (i : Nat) : List TraceRec × Bool :=
  let mine (t : Task) : Bool := t.lid == x.lid && t.x.tix.toNat == i && t.rerun.isSome
  let ts := s.cores.flatMap fun (_, c) => c.task.toList.filter mine ++ (c.saved.map Saved.task).filter mine
  let todo := s.cores.any fun (_, c) => c.todo.contains (x.lid, i)
  if ts.isEmpty && !todo then
    let b := readTrace s x i
    (b.recs, b.all)
  else (ts.flatMap Task.recs, ts.any Task.recAll)

/-- Whether a task of relaunch `r` that has run or runs makes task `i` join it (R310). -/
def joins (s : State) (x : Launch) (r : RelRun) (i by_ : Nat) : Bool :=
  let ran := x.only.getD []
  !ran.contains i && ran.contains by_ && decide (i < x.desc.ntask) && (x.phase == .rerun || x.phase == .reexec) &&
    (let (ws, all) := newRecs s x by_
     all || (match r.old.find? fun t => t.tix == i with
       | some t => recsMeet ws t.recs
       | none => false))

/-- The tasks of a relaunch with one more: before those of a serial re-execution that have not started and have higher indices
(R310, R337). -/
def Launch.withTask (x : Launch) (i : Nat) : List Nat :=
  let l := x.only.getD []
  if x.phase = .reexec then l.take x.next ++ insertNat i (l.drop x.next) else insertNat i l

/-- Whether the cluster of a core holds no task of the present run of a launch. -/
def Launch.newTo (x : Launch) (k : Nat) : Bool :=
  !((x.only.getD []).map fun j => clusterOf (x.assign.getD j 0)).contains (clusterOf k)

/-- RELAUNCH_TASK_ADD: a task joins a relaunch; in a cluster new to it once the banks there allow (R178, R310). -/
def relaunchTaskAdd (s : State) (w i by_ : Nat) : Option State :=
  let y := s.watch w
  match y.bound, y.run with
  | some lid, some r =>
    match SMap.find s.launches lid with
    | none => none
    | some x =>
      if !joins s x r i by_ then none
      else
        let by' := (x.only.getD []).filter fun b => joins s x r i b
        let ks := place s x.desc (partCores s x.part x.desc.cmask) [] [i]
        let new := ks.filter x.newTo
        if !banksAllow s lid x.desc new then none
        else
          let s := startBanks s lid x.desc new
          let s := s.setWatch w { y with run := some { r with added := r.added ++ [(i, by')] } }
          let s := s.onLaunch lid fun x => { x with only := some (x.withTask i), left := x.left + 1, ended := x.ended - 1
                                                    assign := (([i].zip ks).foldl (fun a e => a.set e.1 e.2) x.assign) }
          some (if x.phase = .reexec then s else queueTasks s lid ([i].zip ks))
  | _, _ => none

/-- The next task that joins the relaunch of watch `w`, with one whose record adds it. -/
def nextJoin (s : State) (w : Nat) : Option (Nat × Nat) :=
  let y := s.watch w
  match y.bound, y.run with
  | some lid, some r =>
    match SMap.find s.launches lid with
    | none => none
    | some x => (tabulate id 0 x.desc.ntask).findSome? fun i =>
        ((x.only.getD []).find? fun b => joins s x r i b).map fun b => (i, b)
  | _, _ => none

/-- The relaunch of watch `w` completed if all its tasks have ended, none joins it, and no re-execution is due. -/
def finishRelaunch (s : State) (w : Nat) : State :=
  let y := s.watch w
  match y.bound, y.run with
  | some lid, some r =>
    match SMap.find s.launches lid with
    | some x => if x.left = 0 ∧ !x.redo ∧ (nextJoin s w).isNone then completeRelaunch s w lid x r else s
    | none => s
  | _, _ => s

/-- Every relaunch that is done completed. -/
def finishRelaunches (s : State) : State :=
  if s.watches.any fun (_, w) => w.run.isSome then (s.watches.map Prod.fst).foldl finishRelaunch s else s

end Sys2Proof.Machine
end

