-- ==== Sys2Proof/Machine/Issue.lean ====
section
/-! DEFINITION. Issuing a bundle: which slots act (R29 to R31), the checks and stalls before issue (R16, R28, R36, R37, R70,
R131, R158, R320), the operations taking effect, and what follows the last iteration (R31, R38, R73 to R76, R93, R158). -/

namespace Sys2Proof.Machine

/-! ## Values read as they land (R34, R36) -/

/-- What a pending result that is read between issue and landing takes; `none` for one whose value is known. -/
def valOf (s : State) (_c : Core) (t : Task) : PendSrc → Option Word
  | .ready => none
  | .calc => none
  | .cread i => some (natW (s.ctr i))
  | .ostat r => some (veilReg s (chipletOf s.cur) r)
  | .lstat p => some (linkStat s t.lid p)
  | .trstat w => some (trstatWord s w)
  | .digest => some (natW (launchDigest s t.lid))
  | .atomic .. => none

/-- The machine as a bundle that issues in this cycle reads it: every result readable by now landed (R33, R36, R37). -/
def Mach.view (m : Mach) : Mach := (m.landMops (m.s.cyc + 1)).landAll valOf (m.s.cyc + 1)

/-! ## Meanings of slot operations -/

/-- The effect of a slot operation when its bundle would issue. Bundles and events are no slot operations. -/
def opSem (x : Ctx) (i : Instr) : OpRes :=
  match i with
  | .add d a b => semAdd x d a b
  | .sub d a b => semSub x d a b
  | .and d a b => semAnd x d a b
  | .or d a b => semOr x d a b
  | .xor d a b => semXor x d a b
  | .shl d a b => semShl x d a b
  | .shr d a b => semShr x d a b
  | .sra d a b => semSra x d a b
  | .mul d a b => semMul x d a b
  | .mulh u d a b => semMulh x u d a b
  | .div u d a b => semDiv x u d a b
  | .rem u d a b => semRem x u d a b
  | .min u d a b => semMin x u d a b
  | .max u d a b => semMax x u d a b
  | .clz d a => semClz x d a
  | .popc d a => semPopc x d a
  | .bext d a b => semBext x d a b
  | .bins d a b => semBins x d a b
  | .ldih d n => semLdih x d n
  | .addi d a n => semAddi x d a n
  | .andi d a n => semAndi x d a n
  | .ori d a n => semOri x d a n
  | .xori d a n => semXori x d a n
  | .shli d a n => semShli x d a n
  | .shri d a n => semShri x d a n
  | .srai d a n => semSrai x d a n
  | .ldi d n => semLdi x d n
  | .cmp c d a b => semCmp x c d a b
  | .cmpi c d a n => semCmpi x c d a n
  | .sel d a b p n => semSel x d a b p n
  | .plog o d a b => semPlog x o d a b
  | .ld z d a r o => semLd x z d a r o
  | .st z d a o => semSt x z d a o
  | .ldp d a r o => semLdp x d a r o
  | .stp d a o => semStp x d a o
  | .ldc z d a o => semLdc x z d a o
  | .br d => semBr x d
  | .bri a => semBri x a
  | .call d => semCall x d
  | .calli a => semCalli x a
  | .ret => semRet x
  | .loop l d c => semLoop x l d c
  | .loopi l d n => semLoopi x l d n
  | .movx d n => semMovx x d n
  | .movxw n a => semMovxw x n a
  | .hmov h g => semHmov x h g
  | .hget d h w => semHget x d h w
  | .hset h w a => semHset x h w a
  | .hadv h d a => semHadv x h d a
  | .tshape t f r c => semTshape x t f r c
  | .tidw h a => semTidw x h a
  | .tidr h a => semTidr x h a
  | .tidi a => semTidi x a
  | .amo o d a b => semAmo x o d a b
  | .cas d a b => semCas x d a b
  | .cas2 d a b => semCas2 x d a b
  | .trap n => semTrap x n
  | .sysc n => semSysc x n
  | .eret => semEret x
  | .tlbi f a => semTlbi x f a
  | .vadd _ c d a b => semVadd x c d a b
  | .vsub _ c d a b => semVsub x c d a b
  | .vmul _ c d a b => semVmul x c d a b
  | .vfma _ c d a b => semVfma x c d a b
  | .vfms _ c d a b => semVfms x c d a b
  | .vmin _ c d a b => semVmin x c d a b
  | .vmax _ c d a b => semVmax x c d a b
  | .vabs _ c d a => semVabs x c d a
  | .vneg _ c d a => semVneg x c d a
  | .vrcp c d a => semVrcp x c d a
  | .vrsq c d a => semVrsq x c d a
  | .vexp2 c d a => semVexp2 x c d a
  | .vlog2 c d a => semVlog2 x c d a
  | .vcmul _ c d a b => semVcmul x c d a b
  | .viadd _ c d a b => semViadd x c d a b
  | .visub _ c d a b => semVisub x c d a b
  | .vimul _ c d a b => semVimul x c d a b
  | .vand _ c d a b => semVand x c d a b
  | .vor _ c d a b => semVor x c d a b
  | .vxor _ c d a b => semVxor x c d a b
  | .vshl _ c d a b => semVshl x c d a b
  | .vshr _ c d a b => semVshr x c d a b
  | .vsra _ c d a b => semVsra x c d a b
  | .vcmp _ c k d a b => semVcmp x c k d a b
  | .vicmp _ c k d a b => semVicmp x c k d a b
  | .vsel _ c d a b => semVsel x c d a b
  | .vplen _ c d _ => semVplen x c d
  | .vplog _ c o d a b => semVplog x c o d a b
  | .vmov _ c d a => semVmov x c d a
  | .vbc _ c d _ => semVbc x c d
  | .vred _ c o d a => semVred x c o d a
  | .vperm _ c d a b => semVperm x c d a b
  | .vrot _ c d a _ => semVrot x c d a
  | .vcvt _ c d a f p => semVcvt x c d a f p
  | .vqnt _ c k d a f => semVqnt x c k d a f
  | .vdq _ c d a f => semVdq x c d a f
  | .vamax _ c d a => semVamax x c d a
  | .vsplit _ c d a b => semVsplit x c d a b
  | .vsnap _ c d a _ => semVsnap x c d a
  | .vld f r => semVld x f r
  | .vst f => semVst x f
  | .vlds f t r => semVlds x f t r
  | .mcfg _ => semMcfg x
  | .mstep v c a b => semMstep x v c a b
  | .mzero c => semMzero x c
  | .mfin f d c => semMfin x f d c
  | .mtrn d a => semMtrn x d a
  | .mdup h => semMdup x h
  | .cpy sl _ _ e _ => semCpy x i sl e
  | .cpyq sl _ _ _ e _ => semCpyq x i sl e
  | .cpyd sl _ _ e _ => semCpyd x i sl e
  | .cpyr sl o _ _ e _ => semCpyr x i sl o e
  | .cfill sl _ e _ _ => semCfill x i sl e
  | .cgat sl _ _ _ e _ => semCgat x i sl e
  | .csct sl _ _ _ e _ => semCsct x i sl e
  | .wopen sl hw _ e => semWopen x i sl hw e
  | .wadv sl hw k e => semWadv x i sl hw k e
  | .wclose sl _ c => semWclose x i sl c
  | .cpref sl _ c _ _ => semCpref x i sl c
  | .cflush sl _ c _ _ => semCflush x i sl c
  | .fpush sl t r n b c => semFpush x i sl t r n b c
  | .fpop sl t r n b c => semFpop x i sl t r n b c
  | .cbank sl b _ => semCbank x i sl b
  | .omode a r => semOmode x a r
  | .omask h e => semOmask x i h e
  | .oft d s e p n => semOft x i d s e p n
  | .oift d s e p n => semOift x i d s e p n
  | .oconv d s e p n => semOconv x i d s e p n
  | .ocal e => semOcal x i e
  | .ostat d r => semOstat x d r
  | .lsend p h e => semLsend x i p h e
  | .lrecv p h e => semLrecv x i p h e
  | .lradd _ p a l e => semLradd x i p a l e
  | .lqadd p a l e => semLqadd x i p a l e
  | .ltmo p t => semLtmo x p t
  | .lring a => semLring x a
  | .lstat d p => semLstat x d p
  | .lcadd d c v => semLcadd x i d c v
  | .spawn o e c => semSpawn x o e c
  | .yield => semYield x
  | .endTask => semEnd x
  | .barg sc => semBarg x sc
  | .sleept t => semSleept x t
  | .waito l s c t => semWaito x l s c t
  | .cadd c v r sc k => semCadd x c v r sc k
  | .cwait c t a sc => semCwait x c t a sc
  | .cread d c => semCread x d c
  | .waita a v sc => semWaita x a v sc
  | .drain sc k => semDrain x sc k
  | .lnch d c => semLnch x d c
  | .rlnch w c => semRlnch x w c
  | .trarm w l => semTrarm x w l
  | .trstat d w => semTrstat x d w
  | .chk f => semChk x f
  | .kalu d a f => semKalu x d a f
  | .digr l d => semDigr x l d
  | .digx l a => semDigx x l a
  | .ctxs a => semCtxs x a
  | .ctxl a => semCtxl x a
  | _ => .ok id

/-! ## Which slots act (R29 to R31, R81) -/

/-- A syllable of a bundle. -/
structure Syl where
  slot : Slot
  g    : Guard
  op   : Instr
  deriving DecidableEq, Repr

/-- An operation that acts in an iteration: `fresh` when its syllable is presented. -/
structure Acting where
  slot  : Slot
  g     : Guard
  op    : Instr
  cap   : Cap
  fresh : Bool
  deriving DecidableEq, Repr

/-- The sticky slots (R29). -/
def Slot.sticky : Slot → Bool
  | .v0 => true
  | .v1 => true
  | .m => true
  | .c0 => true
  | .c1 => true
  | .s => false
  | .o => false
  | .l => false
  | .k => false

/-- A slot's previous operation. -/
def StickySet.get (x : StickySet) : Slot → Option Sticky
  | .v0 => x.v0
  | .v1 => x.v1
  | .m => x.m
  | .c0 => x.c0
  | .c1 => x.c1
  | _ => none

/-- A re-issue: the previous operation with its steps applied (R30). -/
def Sticky.acting (sl : Slot) (p : Sticky) : Acting := ⟨sl, p.g, p.stepped.op, p.stepped.cap, false⟩

/-- Whether an operation is ERET. -/
def isEret : Instr → Bool
  | .eret => true
  | _ => false

/-- What slot `sl` does in the present iteration of a bundle (R29, R31): its syllable in iteration 0, a re-issue where it
is sticky, nothing where it is quiet or X.STATUS.STE is 0. -/
def actOf (h : Header) (ys : List Syl) (t : Task) (sl : Slot) : Option Acting :=
  match ys.find? fun y => y.slot == sl with
  | some y =>
    if t.iter = 0 then some ⟨sl, y.g, y.op, capture0 t.regs y.op, true⟩
    else (t.sticky.get sl).map (Sticky.acting sl)
  | none =>
    if h.quiet.getLsbD sl.ix || !t.x.ste || ys.any fun y => isEret y.op then none
    else (t.sticky.get sl).map (Sticky.acting sl)

/-- The operations that act, in slot order. -/
def acting (h : Header) (ys : List Syl) (t : Task) : List Acting := slots.filterMap (actOf h ys t)

/-- The previous operation of a slot after an iteration. -/
def nextSticky (as : List Acting) (t : Task) (eret : Bool) (sl : Slot) : Option Sticky :=
  match as.find? fun a => a.slot == sl with
  | some a => some ⟨a.g, a.op, a.cap⟩
  | none => if eret then t.sticky.get sl else none

/-- The sticky state after an iteration in which `as` acted: a slot that did not act is quiet (R29), but for those of an
ERET's bundle (R81). So a slot that a bundle omits while X.STATUS.STE is 0 stays quiet once STE is 1 again (DESIGN CHOICE, log 59). -/
def stickyAfter (as : List Acting) (t : Task) (eret : Bool) : StickySet :=
  let f := nextSticky as t eret
  ⟨f .v0, f .v1, f .m, f .c0, f .c1⟩

/-! ## Before issue -/

/-- Whether an operation is a wait of the K slot (R158). -/
def isWait : Instr → Bool
  | .cwait .. => true
  | .waita .. => true
  | .waito .. => true
  | .drain .. => true
  | .sleept .. => true
  | .barg .. => true
  | .digx .. => true
  | _ => false

/-- The scalar, handle and row places an operation reads or writes in this issue: with a true guard all of them, at the
presentation of a sticky syllable also what its operand copy takes (R16, R36). -/
def Acting.places (a : Acting) (on : Bool) : List Dest :=
  let u := uses a.op
  let copy := a.slot == .c0 || a.slot == .c1
  (if on then u.sr.map Dest.s ++ u.im.map Dest.s ++ u.sw.map Dest.s ++ u.hw.map Dest.h ++ u.rr.map Dest.row ++ u.rw.map Dest.row else []) ++
    (if on && !copy then u.hr.map Dest.h else []) ++
    (if a.fresh then u.cap.map Dest.s ++ (if copy then u.hr.map Dest.h else []) else [])

/-- Whether an operation meets a pending register; S0 is never pending (R7, R36). -/
def Acting.pends (a : Acting) (t : Task) : Bool :=
  !t.pend.isEmpty &&
    (a.places (t.regs.guard a.g)).any fun d => d != .s 0 && t.pendDests.contains d

/-- Whether an operation stalls on a busy tile that it names (R37, R79, R150, R347). -/
def Acting.meetsBusy (a : Acting) (c : Core) : Bool := (uses a.op).tl.any c.busy

/-- The scalars that an operation reads. -/
def Acting.scalars (a : Acting) : List Nat :=
  let u := uses a.op
  u.sr ++ u.im ++ if a.fresh then u.cap else []

/-- The address that poisons the first poisoned register an operation reads (R70, R131). -/
def Acting.poison (a : Acting) (r : Regs) : Option Nat :=
  (a.scalars.findSome? r.spoison) <|> (uses a.op).rr.findSome? fun i => (r.row i).poison

/-- A task about to take the trap that delivers the poison, by address `a`, of the scalars that a bundle reads, with the registers
`r` that it reads (R70): scalar loads that land in this cycle have landed. -/
def Mach.tell (as : List Acting) (r : Regs) (a : Nat) (m : Mach) : Mach :=
  let (now, later) := m.t.pend.partition fun p => p.lands (m.s.cyc + 1) && !p.res.any Result.isRow
  (now.foldl (Mach.landPend valOf) (m.onT fun t => { t with pend := later })).onT fun t =>
    { t with told := t.told ++ as.flatMap fun x => if r.guard x.g then x.scalars.filter fun n => r.spoison n == some a else [] }

/-- What an operation does in a bundle of `len` syllables whose header is at `hdr`: the checks on its registers, its stalls,
then, under a true guard, poison and its own meaning. -/
def Acting.result (m : Mach) (hdr len : Nat) (a : Acting) : OpRes :=
  match staticCheck m.t.budget a.op with
  | some w => .trap Cause.illOperand w
  | none =>
    if a.pends m.t then stall
    else if !m.t.regs.guard a.g then .ok id
    else if a.meetsBusy m.c then stall
    else match a.poison m.t.regs with
      | some p => .trap Cause.eccUncorr (natW p)
      | none => opSem ⟨m, hdr, len, a.fresh, a.cap⟩ a.op

/-- The X.EINFO of an ILL_OPERAND trap. -/
def OpRes.illInfo? : OpRes → Option Word
  | .trap c w => if c = Cause.illOperand then some w else none
  | _ => none

/-- A trap. -/
def OpRes.trap? : OpRes → Option (Nat × Word)
  | .trap c w => some (c, w)
  | _ => none

/-- A stall. -/
def OpRes.hold? : OpRes → Option Act
  | .hold f => some f
  | _ => none

/-- A stall that counts once nothing else stalls. -/
def OpRes.last? : OpRes → Option Act
  | .last f => some f
  | _ => none

/-- An effect. -/
def OpRes.act : OpRes → Act
  | .ok f => f
  | _ => id

/-- What becomes of a bundle. -/
inductive Verdict where
  | trap (cause : Nat) (info : Word)
  | hold (act : Act)
  | go

/-- The verdict on a bundle whose operations answer `rs`: a bundle that stalls is held, by an MDUP once nothing else holds it
(R157); else ILL_OPERAND of the lowest slot, else the trap of the earliest (R28, R320). `bad` holds when a register check fails,
which no stall delays. -/
def verdict (bad : Bool) (rs : List OpRes) : Verdict :=
  match (if bad then none else rs.findSome? OpRes.hold? <|> rs.findSome? OpRes.last?) with
  | some f => .hold f
  | none => match rs.findSome? OpRes.illInfo? with
    | some w => .trap Cause.illOperand w
    | none => match rs.findSome? OpRes.trap? with
      | some (c, w) => .trap c w
      | none => .go

/-- The machine as the other operations of a bundle see it: the acquire of its wait, once met, covers them (R158). -/
def acquired (m : Mach) (hdr len : Nat) (as : List Acting) : Mach :=
  match as.find? fun a => isWait a.op with
  | some a => (a.result m hdr len).act m
  | none => m

/-- The answers of the operations of a bundle, a wait's with its acquire already made. -/
def results (m0 m : Mach) (hdr len : Nat) (as : List Acting) : List OpRes :=
  as.map fun a =>
    if isWait a.op then
      match a.result m0 hdr len with
      | .ok _ => .ok id
      | r => r
    else a.result m hdr len

/-! ## After the last iteration -/

/-- A level's back-edge test at its end bundle: the level, and whether it loops (R75). -/
def Level.test (l : Level) : Level × Bool :=
  if l.lc.toNat ≤ 1 then ({ l with lc := 0, active := false }, false) else ({ l with lc := l.lc - 1 }, true)

/-- The back-edge test of one level at the bundle at `pc`. -/
def Loops.testOne (x : Loops) (n : Bool) (pc : Nat) : Loops × Option Nat :=
  let l := x.level n
  if l.active && l.le.toNat == pc then
    (x.setLevel n l.test.1, if l.test.2 then some l.ls.toNat else none)
  else (x, none)

/-- The back-edge tests at the bundle at `pc`: the level armed later first, the other only if that one does not loop
(R75). -/
def Loops.backEdge (x : Loops) (pc : Nat) : Loops × Option Nat :=
  match x.testOne x.last1 pc with
  | (y, some a) => (y, some a)
  | (y, none) => y.testOne (!x.last1) pc

/-- Control after the last iteration of the bundle at the task's pc: a taken branch or a zero-count loop with two idle cycles,
else the back-edge test (R38, R73 to R75). -/
def Mach.transfer (m : Mach) (f : Flow) (len : Nat) : Mach :=
  match f.jump <|> f.skip with
  | some a => (m.onT fun t => { t with pc := a }).onC fun c => { c with ready := Nat.max c.ready (m.s.cyc + 3) }
  | none =>
    let e := m.t.loops.backEdge m.t.pc
    m.onT fun t => { t with pc := e.2.getD (t.pc + 8 * len), loops := e.1 }

/-- A yield bundle's switch point (R93, R160): the task leaves its core, or runs on, one cycle later after a YIELD. A core that ran
a D-mode task is marked, for a throttle to hold its switch (R374). -/
def switchPoint (m : Mach) (yk : Bool) (stated : Nat) : State :=
  let k := m.s.cur
  let y := yieldPoint (m.onC fun c => { c with yielded := m.t.x.dm }).put k yk stated
  if y.2 then leave y.1 k .preempted m.c.ready
  else if yk then y.1.setCore k { y.1.core k with ready := m.c.ready + 1 }
  else y.1

/-- The stated run of a yield bundle (R93, R160). -/
def statedRun (h : Header) : Nat := if h.y then 64 * h.budget.toNat else 16384

/-- What follows an iteration: the next iteration, or after the last one the segment request of B, END, the transfer of
control, and the switch point of a yield bundle. -/
def Mach.after (h : Header) (len : Nat) (m : Mach) : State :=
  let m := m.onC fun c => { c with ready := Nat.max c.ready (m.s.cyc + 1) }
  if m.t.iter < h.rep.toNat then (m.onT fun t => { t with iter := t.iter + 1 }).put
  else
    let f := m.t.flow
    let m := m.onT fun t => { t with flow := Flow.none, iter := 0 }
    match (if h.b then prefetchSegment m m.t.pc else some m) with
    | none => stopSegment m
    | some m =>
      if f.endk then (m.onC fun c => { c with ended := true }).put
      else
        let m := m.transfer f len
        if h.y || f.yk then switchPoint m f.yk (statedRun h) else m.put

/-! ## Issue -/

/-- Whether a fence only lets a bound TRARM's bundle pass. -/
def Fence.isBound : Fence → Bool
  | .bound .. => true
  | .tlbi .. => false
  | .trarm .. => false

/-- A core whose bundle no longer stalls on a FIFO has no cycle in which it first did. -/
def Core.fifoSince (c : Core) : Core := if c.fifoWait.isNone then { c with reach := none } else c

/-- A bundle held before issue: it tries again in the next cycle at the earliest. -/
def Mach.held (f : Act) (m : Mach) : State :=
  ((f (m.onC fun c => { c with fifoWait := none })).onC fun c =>
    { c.fifoSince with ready := Nat.max c.ready (m.s.cyc + 1) }).put

/-- The marks that a bundle leaves behind as it issues. -/
def Core.issued (c : Core) : Core :=
  { c with wait := none, reach := none, mdup := none, fifoWait := none, walkBad := none, yielded := false
           fence := c.fence.filter fun f => !f.isBound }

/-- Whether an operation is MOVXW. -/
def isMovxw : Instr → Bool
  | .movxw _ _ => true
  | _ => false

/-- The effects of a bundle in the order they are made: slot by slot, a MOVXW at the end of the cycle (R77). -/
def effects (as : List Acting) (rs : List OpRes) : List Act :=
  let ps := as.zip rs
  ((ps.filter fun p => !isMovxw p.1.op) ++ ps.filter fun p => isMovxw p.1.op).map fun p => p.2.act

/-- The operations of a bundle taking effect, then their slots' previous operations. -/
def commit (as : List Acting) (rs : List OpRes) (eret : Bool) (m : Mach) : Mach :=
  let sticky := stickyAfter as m.t eret
  (effects as rs).foldl (fun m f => f m) ((m.onC Core.issued).onT fun t => { t with sticky := sticky })

/-- Whether a bundle would bring the loads or the stores of its core beyond their limits (R242). -/
def overLimit (v done : Mach) : Bool :=
  (decide (128 < done.t.loadCount) && decide (v.t.loadCount < done.t.loadCount)) ||
    (decide (128 < done.c.storeCount) && decide (v.c.storeCount < done.c.storeCount))

/-- Whether an ERET of the bundle issues with a true guard. -/
def returns (as : List Acting) (t : Task) : Bool := as.any fun a => isEret a.op && t.regs.guard a.g

/-- An iteration of a bundle at issue: it traps, is held, or takes effect whole (R6, R19, R28). -/
def issueMach (h : Header) (ys : List Syl) (m : Mach) : State :=
  let len := 1 + ys.length
  let hdr := m.t.pc
  let v := m.view
  let as := acting h ys v.t
  let w := acquired v hdr len as
  let rs := results v w hdr len as
  match verdict (as.any fun a => (staticCheck v.t.budget a.op).isSome) rs with
  | .trap c info => takeTrap (if c = Cause.eccUncorr then m.tell as v.t.regs info.toNat else m) c info
      TrapKind.precise hdr m.t.iter
  | .hold f => m.held f
  | .go =>
    let done := commit as rs (ys.any fun y => isEret y.op) w
    if overLimit v done then m.held id
    else if returns as v.t then done.put else done.after h len

/-- What an event or an issue answers. -/
def answer (o : Option State) : Host.Outcome State Fault Refusal :=
  match o with
  | some s => .next (finishRelaunches s)
  | none => .refused .notEnabled

/-- A bundle of the core that moves at issue. -/
def issue (h : Header) (ys : List Syl) (s : State) : Host.Outcome State Fault Refusal :=
  answer ((s.mach s.cur).map (issueMach h ys))

/-- A bundle that presents one operation under the guard P0 and nothing else. -/
def issueOne (sl : Slot) (i : Instr) (s : State) : Host.Outcome State Fault Refusal :=
  issue (oneSlot sl) [⟨sl, ⟨false, 0⟩, i⟩] s

/-- A slot of the V class. -/
def VSlot.slot : VSlot → Slot
  | .v0 => .v0
  | .v1 => .v1

/-- A slot of the C class. -/
def CSlot.slot : CSlot → Slot
  | .c0 => .c0
  | .c1 => .c1

/-- The syllables of a bundle as its slots decode them (R25, R26); a decoded bundle has none that does not decode. -/
def sylsOf : List Slot → List Word → List Syl
  | sl :: sls, w :: ws =>
    match decSyl sl w.toNat with
    | .ok i => ⟨sl, guardOf w.toNat, i⟩ :: sylsOf sls ws
    | .bad _ => sylsOf sls ws
  | _, _ => []

/-- A bundle that does not decode (R28). -/
def illBundle (m : Mach) (syl bit : Nat) : State :=
  takeTrap m Cause.illBundle (natW (syl + bit * 2 ^ 8)) TrapKind.precise m.t.pc m.t.iter

end Sys2Proof.Machine
end

