-- ==== Sys2Proof/Machine/Landing.lean ====
section
/-! DEFINITION. What a core's own hardware does beside issuing: results land, stores and atomics perform, the array steps,
translation walks complete (R33 to R37, R106, R173, R200, R208). -/

namespace Sys2Proof.Machine

/-! ## Exposed results (R33, R35, R154 to R156) -/

/-- The tasks of a core, the one that it runs first. -/
def Core.tasks (c : Core) : List Task := c.task.toList ++ c.saved.map Saved.task

/-- Whether the tasks of a core have exposed results readable before this cycle, or M operations whose rows are, or cleared errors to
log. -/
def landsNow (s : State) (c : Core) : Bool :=
  (c.tasks.any fun t => t.flight.any fun r => decide (r.due < s.cyc)) || (c.mops.any fun o => decide (o.due < s.cyc)) ||
    c.tasks.any fun t => !t.logs.isEmpty

/-- The cleared errors of core `k`'s tasks logged. -/
def State.logCore (s : State) (k : Nat) : State :=
  let c := s.core k
  let clear (t : Task) : Task := { t with logs := [] }
  if c.tasks.all fun t => t.logs.isEmpty then s else
  (c.tasks.foldl State.logCleared s).setCore k
    { c with task := c.task.map clear, saved := c.saved.map fun y => { y with task := clear y.task } }

/-- What the tasks out of core `k` have in flight and lands before this cycle, landed. -/
def State.landOut (s : State) (k : Nat) : State :=
  let c := s.core k
  if c.saved.any fun y => y.task.flight.any fun r => decide (r.due < s.cyc) then
    s.setCore k { c with saved := c.saved.map fun y => { y with task := ((Mach.mk { s with cur := k } c y.task).landAll valOf s.cyc).t } }
  else s

/-- EXPOSED_RESULT_LAND on core `k`: what lands before this cycle, in order (R33, R35); the errors that this or an issue has
cleared are logged (R70, R131). -/
def exposedLand (s : State) (k : Nat) : Option State :=
  let c := s.core k
  if landsNow s c then
    let s := s.setCore k (c.landMops s.cyc)
    let s := match s.mach k with
      | some m => (m.landAll valOf s.cyc).putBack
      | none => s
    some ((s.landOut k).logCore k)
  else none

/-! ## Pending results (R36) -/

/-- The task of core `k` whose pending results the core waits for: the one it runs, or one that has just left it (R327). -/
def pendTask (c : Core) : Option Task :=
  match c.task with
  | some t => some t
  | none => (c.saved.find? fun y => !y.task.pend.isEmpty).map Saved.task

/-- A machine view of that task. -/
def pendMach (s : State) (k : Nat) : Option Mach :=
  (pendTask (s.core k)).map fun t => ⟨{ s with cur := k }, s.core k, t⟩

/-- PENDING_RESULT_LAND: the `i`-th pending result of core `k` lands, once its cycle has come, with all that lands before it
(R35); before that, the word of one that is read between issue and landing is taken in the cycle it is read. -/
def pendingLand (s : State) (k i : Nat) : Option State :=
  match pendMach s k with
  | none => none
  | some m =>
    match m.t.pend[i]? with
    | none => none
    | some p =>
      if p.lands s.cyc then
        some (m.landAll valOf s.cyc).putBack
      else if p.reads s.cyc then some (m.onT fun t => { t with pend := modifyAt (fun p => m.taken valOf p) t.pend i }).putBack
      else none

/-- ATOMIC_PERFORM: the `i`-th pending result of core `k`, an atomic, applies at its home (R208, R231). -/
def atomicApply (s : State) (k i : Nat) : Option State :=
  match pendMach s k with
  | none => none
  | some m =>
    match m.t.pend[i]? with
    | none => none
    | some p =>
      if p.isAtomic && decide (p.issue < s.cyc) then
        let a := m.answer p
        some (a.2.onT fun t => { t with pend := modifyAt (fun _ => a.1) t.pend i }).putBack
      else none

/-! ## Stores (R200) -/

/-- The first dirty line of an L1 that is to be written back by now (R175). -/
def l1Due (s : State) (c : Core) : Option Nat :=
  (c.l1.find? fun e => e.2.dirty && decide (e.2.due ≤ s.cyc)).map fun e => e.2.line

/-- STORE_PERFORM: the oldest store of core `k`'s buffer performs, or a dirty line of its L1 is written back. -/
def storeApply (s : State) (k : Nat) : Option State :=
  match s.mach k with
  | none => none
  | some m =>
    let down := (l1Due s m.c).map fun line => (m.l1Back fun x => x.line == line).put
    match m.c.stores with
    | [] => down
    | st :: rest =>
      if st.issue < s.cyc then some (({ m with c := { m.c with stores := rest } }).perform st).put else down

/-- The first line of a cluster's cache that is to be written back by now (R200). -/
def ccDue (s : State) (cl : Nat) : Option Nat :=
  ((s.cc cl).find? fun x => x.dirty && decide (x.due ≤ s.cyc)).map SLine.line

/-- STORE_PERFORM: the oldest store of core `k` leaves its buffer, or its L1 writes a line back; numbers from 512 on are the
clusters, whose cache writes a dirty line back to its home. -/
def storePerform (s : State) (k : Nat) : Option State :=
  if k < 512 then storeApply s k
  else (ccDue s (k - 512)).map fun line => s.ccClean (k - 512) fun x => x.line == line

/-! ## The array (R106) -/

/-- The task with a unique number on a core, running or out. -/
def Core.findTask (c : Core) (uid : Nat) : Option Task :=
  match c.task with
  | some t => if t.uid = uid then some t else (c.saved.find? fun y => y.task.uid == uid).map Saved.task
  | none => (c.saved.find? fun y => y.task.uid == uid).map Saved.task

/-- ARRAY_STEP_START on core `k`: the next queued step reads A and B and holds the array for 32 cycles. -/
def stepBegin (s : State) (k : Nat) : Option State :=
  let c := s.core k
  match c.steps.find? fun st => st.start.isNone with
  | none => none
  | some st =>
    if s.cyc < stepStart c st then none
    else
      let r := match c.findTask st.uid with
        | some t => (t.landFlight (s.cyc + 1)).regs
        | none => Regs.zero
      some (s.setCore k { c with steps := beginStep s.cyc r c.steps, arrayFree := s.cyc + 32 })

/-- ARRAY_STEP_WRITE on core `k`: C of the oldest step is written 40 cycles after the step's start. -/
def stepFinish (s : State) (k : Nat) : Option State :=
  let c := s.core k
  match c.steps with
  | [] => none
  | st :: rest =>
    match st.start with
    | none => none
    | some b =>
      if s.cyc < b + 40 then none
      else some (s.setCore k ({ c with steps := rest }.onUid st.uid fun t => stepWrite st 0 (st.rowsA + 1) t))

/-! ## Translation walks (R173) -/

/-- PAGE_WALK_COMPLETE on core `k` for address `va`: the entry found fills both TLBs, or the page is marked absent. -/
def walkDone (s : State) (k va : Nat) : Option State :=
  let c := s.core k
  match c.task with
  | none => none
  | some t =>
    if c.walk = some va ∧ c.ready ≤ s.cyc then
      match walk s t.x.ptb va with
      | some e =>
        let cl := clusterOf k
        some ({ s with ctlb := SMap.put s.ctlb cl (tlbFill 4096 e (SMap.get [] s.ctlb cl)) }.setCore k
          { c with walk := none, tlb := tlbFill 64 e c.tlb })
      | none => some (s.setCore k { c with walk := none, walkBad := some (va / 2 ^ 16) })
    else none

end Sys2Proof.Machine
end

