-- ==== Sys2Proof/Machine/ExecCopy.lean ====
section
/-! DEFINITION. The meanings of the C slots and the copy engines: one definition for each row of the opcode table. -/

namespace Sys2Proof.Machine

/-- CPY (R218). -/
def execCpy (sl : CSlot) (hd : HReg) (hs : HReg) (e : PrmCnt) (st : StepF) (s : State) : Host.Outcome State Fault Refusal :=
  issueOne (CSlot.slot sl) (.cpy sl hd hs e st) s
/-- CPYQ (R220). -/
def execCpyq (sl : CSlot) (stat : Bool) (hd : HReg) (hs : HReg) (e : PrmCnt) (st : StepF) (s : State) : Host.Outcome State Fault Refusal :=
  issueOne (CSlot.slot sl) (.cpyq sl stat hd hs e st) s
/-- CPYD (R220). -/
def execCpyd (sl : CSlot) (hd : HReg) (hs : HReg) (e : PrmCnt) (st : StepF) (s : State) : Host.Outcome State Fault Refusal :=
  issueOne (CSlot.slot sl) (.cpyd sl hd hs e st) s
/-- CPYR (R221). -/
def execCpyr (sl : CSlot) (op : CpyrOp) (hd : HReg) (hs : HReg) (e : PrmCnt) (st : StepF) (s : State) : Host.Outcome State Fault Refusal :=
  issueOne (CSlot.slot sl) (.cpyr sl op hd hs e st) s
/-- CFILL (R222). -/
def execCfill (sl : CSlot) (hd : HReg) (e : PrmCnt) (step : BitVec 16) (sdim : BitVec 2) (s : State) : Host.Outcome State Fault Refusal :=
  issueOne (CSlot.slot sl) (.cfill sl hd e step sdim) s
/-- CGAT (R223). -/
def execCgat (sl : CSlot) (hd : HReg) (hs : HReg) (hx : HReg) (e : PrmCnt) (st : StepF) (s : State) : Host.Outcome State Fault Refusal :=
  issueOne (CSlot.slot sl) (.cgat sl hd hs hx e st) s
/-- CSCT (R223). -/
def execCsct (sl : CSlot) (hd : HReg) (hs : HReg) (hx : HReg) (e : PrmCnt) (st : StepF) (s : State) : Host.Outcome State Fault Refusal :=
  issueOne (CSlot.slot sl) (.csct sl hd hs hx e st) s
/-- WOPEN (R197). -/
def execWopen (sl : CSlot) (hw : HReg) (hv : HReg) (e : PrmCnt) (s : State) : Host.Outcome State Fault Refusal :=
  issueOne (CSlot.slot sl) (.wopen sl hw hv e) s
/-- WADV (R198). -/
def execWadv (sl : CSlot) (hw : HReg) (k : BitVec 16) (e : PrmCnt) (s : State) : Host.Outcome State Fault Refusal :=
  issueOne (CSlot.slot sl) (.wadv sl hw k e) s
/-- WCLOSE (R224). -/
def execWclose (sl : CSlot) (hw : HReg) (cnt : SReg) (s : State) : Host.Outcome State Fault Refusal :=
  issueOne (CSlot.slot sl) (.wclose sl hw cnt) s
/-- CPREF (R225). -/
def execCpref (sl : CSlot) (hs : HReg) (cnt : SReg) (step : BitVec 16) (sdim : BitVec 2) (s : State) : Host.Outcome State Fault Refusal :=
  issueOne (CSlot.slot sl) (.cpref sl hs cnt step sdim) s
/-- CFLUSH (R225). -/
def execCflush (sl : CSlot) (hs : HReg) (cnt : SReg) (step : BitVec 16) (sdim : BitVec 2) (s : State) : Host.Outcome State Fault Refusal :=
  issueOne (CSlot.slot sl) (.cflush sl hs cnt step sdim) s
/-- FPUSH (R226). -/
def execFpush (sl : CSlot) (t : Tile) (r : BitVec 6) (n1 : BitVec 6) (bank : BitVec 4) (cnt : SReg) (s : State) : Host.Outcome State Fault Refusal :=
  issueOne (CSlot.slot sl) (.fpush sl t r n1 bank cnt) s
/-- FPOP (R226). -/
def execFpop (sl : CSlot) (t : Tile) (r : BitVec 6) (n1 : BitVec 6) (bank : BitVec 4) (cnt : SReg) (s : State) : Host.Outcome State Fault Refusal :=
  issueOne (CSlot.slot sl) (.fpop sl t r n1 bank cnt) s
/-- CBANK (R227). -/
def execCbank (sl : CSlot) (bank : BitVec 4) (mode : BankMode) (s : State) : Host.Outcome State Fault Refusal :=
  issueOne (CSlot.slot sl) (.cbank sl bank mode) s
/-- COPY_OP_START (R216). -/
def execCopyOpStart (core : Nat) (sl : CSlot) (s : State) : Host.Outcome State Fault Refusal := answer (copyStart s core sl)
/-- NOC_SLOT_SEND (R245). -/
def execNocSlotSend (core : Nat) (sl : CSlot) (s : State) : Host.Outcome State Fault Refusal := answer (slotSend s core sl)
/-- COPY_OP_COMPLETE (R216). -/
def execCopyOpComplete (core : Nat) (sl : CSlot) (s : State) : Host.Outcome State Fault Refusal := answer (copyComplete s core sl)
/-- COPY_PAGE_RESUME (R326). -/
def execCopyPageResume (core : Nat) (sl : CSlot) (s : State) : Host.Outcome State Fault Refusal := answer (copyResume s core sl)

end Sys2Proof.Machine
end

