-- ==== Sys2Proof/Machine/ExecEvents.lean ====
section
/-! DEFINITION. The meanings of the cores and the front end: one definition for each row of the opcode table. -/

namespace Sys2Proof.Machine

/-- EXPOSED_RESULT_LAND (R33). -/
def execExposedResultLand (core : Nat) (s : State) : Host.Outcome State Fault Refusal := answer (exposedLand s core)
/-- PENDING_RESULT_LAND (R36). -/
def execPendingResultLand (core : Nat) (i : Nat) (s : State) : Host.Outcome State Fault Refusal := answer (pendingLand s core i)
/-- ATOMIC_PERFORM (R208). -/
def execAtomicPerform (core : Nat) (i : Nat) (s : State) : Host.Outcome State Fault Refusal := answer (atomicApply s core i)
/-- STORE_PERFORM (R200). -/
def execStorePerform (core : Nat) (s : State) : Host.Outcome State Fault Refusal := answer (Machine.storePerform s core)
/-- PAGE_WALK_COMPLETE (R173). -/
def execPageWalkComplete (core : Nat) (va : Nat) (s : State) : Host.Outcome State Fault Refusal := answer (walkDone s core va)
/-- TLBI_REMOVAL_COMPLETE (R346). -/
def execTlbiRemovalComplete (core : Nat) (s : State) : Host.Outcome State Fault Refusal := answer (tlbiDone s core)
/-- WATCH_BIND_COMPLETE (R283). -/
def execWatchBindComplete (core : Nat) (s : State) : Host.Outcome State Fault Refusal := answer (Machine.watchBindComplete s core)
/-- ASYNC_FAULT_REPORT (R324). -/
def execAsyncFaultReport (core : Nat) (cause : Nat) (info : Word) (s : State) : Host.Outcome State Fault Refusal :=
  answer (Machine.asyncFaultReport s core cause info)
/-- ASYNC_FAULT_DELIVERY (R325). -/
def execAsyncFaultDelivery (core : Nat) (s : State) : Host.Outcome State Fault Refusal := answer (Machine.asyncFaultDelivery s core)
/-- YIELD_OVERRUN (R93). -/
def execYieldOverrun (core : Nat) (s : State) : Host.Outcome State Fault Refusal := answer (Machine.yieldOverrun s core)
/-- FIFO_RELIEF (R95). -/
def execFifoRelief (cluster : Nat) (s : State) : Host.Outcome State Fault Refusal := answer (Machine.fifoRelief s cluster)
/-- LAUNCH_START (R86). -/
def execLaunchStart (lid : Nat) (ptb : Nat) (spill : Nat) (tables : LaunchMap) (s : State) : Host.Outcome State Fault Refusal :=
  answer (Machine.launchStart s lid ptb spill tables.tables tables.relocs)
/-- TASK_START (R15). -/
def execTaskStart (core : Nat) (s : State) : Host.Outcome State Fault Refusal := answer (Machine.taskStart s core)
/-- SEG_LOAD_COMPLETE (R299). -/
def execSegLoadComplete (core : Nat) (s : State) : Host.Outcome State Fault Refusal := answer (Machine.segLoadComplete s core)
/-- RELAUNCH_ACCEPT (R308). -/
def execRelaunchAccept (w : Nat) (s : State) : Host.Outcome State Fault Refusal := answer (Machine.relaunchAccept s w)
/-- RELAUNCH_TASK_ADD (R310). -/
def execRelaunchTaskAdd (w : Nat) (tix : Nat) (by_ : Nat) (s : State) : Host.Outcome State Fault Refusal :=
  answer (Machine.relaunchTaskAdd s w tix by_)
/-- LAUNCH_REEXECUTE (R337). -/
def execLaunchReexecute (lid : Nat) (s : State) : Host.Outcome State Fault Refusal := answer (Machine.launchReexecute s lid)

end Sys2Proof.Machine
end

