-- ==== Sys2Proof/Machine/Fleus.lean ====
section
/-! DEFINITION. The Fleus executive: polling, dispatch, the packets, completion, and faults in the firmware (R287 to R296,
R300, R301). -/

namespace Sys2Proof.Machine

/-! ## Packets in a window (R291, R294) -/

/-- Bytes `i` to `i + n - 1` of a packet. -/
def WinEnt.field (e : WinEnt) (i n : Nat) : Nat := Machine.field e.bytes (8 * i) (8 * n)
/-- The tokens a packet waits for. -/
def WinEnt.wait (e : WinEnt) : BitVec 64 := BitVec.ofNat 64 (e.field 4 8)
/-- The tokens a packet sets. -/
def WinEnt.set (e : WinEnt) : BitVec 64 := BitVec.ofNat 64 (e.field 12 8)
/-- The tokens a packet clears. -/
def WinEnt.clr (e : WinEnt) : BitVec 64 := BitVec.ofNat 64 (e.field 20 8)
/-- The barrier flag. -/
def WinEnt.barrier (e : WinEnt) : Bool := bitAt e.bytes 8
/-- The consume-waits flag. -/
def WinEnt.consume (e : WinEnt) : Bool := bitAt e.bytes 9
/-- The event flag. -/
def WinEnt.event (e : WinEnt) : Bool := bitAt e.bytes 10

/-- The packet at a place, if it is in its window. -/
def State.packet (s : State) (p : PktRef) : Option WinEnt := (s.queue p.q).window.find? fun e => e.n == p.n

/-- A packet of a window changed. -/
def State.onPacket (s : State) (p : PktRef) (f : WinEnt → WinEnt) : State :=
  let x := s.queue p.q
  s.setQueue p.q { x with window := x.window.map fun e => if e.n = p.n then f e else e }

/-- Whether queue `q` is in the ENABLED state. -/
def Queue.on (x : Queue) : Bool := x.state == .enabled

/-! ## Completion (R293, R295) -/

/-- The status of a packet that is done: recorded, or, of a COUNTER_WAIT and a VEIL_CAL, once what it waits for is so. -/
def packetStatus (s : State) (p : PktRef) (e : WinEnt) : Option Nat :=
  match e.done with
  | some c => some c
  | none =>
    if !e.ran then none
    else match decodePacket p e.bytes with
      | some (.counterWait _ ctr thr) => if thr ≤ s.ctr ctr then some 0 else none
      | some (.veilCal r mask) =>
        if s.veils.any fun (_, v) => v.ops.any fun o => o.op == .veilCal r mask then none else some 0
      | _ => none

/-- A packet's completion processed: it leaves the window, its tokens apply, the CEN addition and the event follow. Those of
a FAULTED queue are discarded (R300). -/
def finishPacket (s : State) (p : PktRef) (e : WinEnt) (status : Nat) : State :=
  let x := s.queue p.q
  let x := { x with window := x.window.filter fun y => y.n != e.n }
  if x.state = .faulted then s.setQueue p.q x
  else
    let bad := status != 0
    let x := { x with tokens := (x.tokens &&& ~~~e.clr) ||| e.set
                      poison := if bad then x.poison ||| e.set else x.poison &&& ~~~e.set
                      fail := if bad then status else x.fail }
    let s := s.setQueue p.q x
    let s := if bitAt x.cfg 18 then s.sendAdd (some (field x.cfg 32 16)) 1 0 0 0 else s
    if bad || e.event then s.post x.part ⟨1, status, p.q, x.home, e.field 2 2, e.info⟩ else s

/-- PACKET_COMPLETION (R295): in admission order among the done packets of a queue; those of a HELD queue await their Cuff
(R300). -/
def packetCompletion (s : State) (p : PktRef) : Option State :=
  match s.packet p, (s.queue p.q).state with
  | none, _ => none
  | _, .held => none
  | some e, _ =>
    match packetStatus s p e with
    | none => none
    | some c =>
      if (s.queue p.q).window.any fun y => decide (y.n < e.n) && (packetStatus s ⟨p.q, y.n⟩ y).isSome then none
      else some (finishPacket s p e c)

/-! ## Polling (R290, R296) -/

/-- Whether some WAIT token of an entry is neither set nor in the SET mask of a packet of the window (R296). -/
def deadToken (x : Queue) (e : WinEnt) : Bool :=
  let held := x.window.foldl (fun m y => m ||| y.set) x.tokens
  e.wait &&& ~~~held != 0

/-- A ring entry admitted. -/
def admitEntry (s : State) (q bytes : Nat) : State :=
  let x := s.queue q
  let e : WinEnt := ⟨s.uids, bytes, false, false, none, 0⟩
  let dead := deadToken x e
  let x := { x with window := x.window ++ [e], head := x.head + 1, seq := (x.seq + 1) % 65536 }
  let s := { s with uids := s.uids + 1 }.setQueue q x
  if dead then finishPacket s ⟨q, e.n⟩ e 2 else s

/-- The pending flag cleared when every posted entry has been admitted. -/
def clearPending (s : State) (q : Nat) : State :=
  let x := s.queue q
  if x.head % 65536 = x.tail then s.setQueue q { x with pending := false } else s

/-- Entries read from slot QHEAD on, `n` at most; answers whether one differed. -/
def pollEntries (s : State) (q : Nat) : Nat → State × Bool
  | 0 => (s, false)
  | n + 1 =>
    let s := clearPending s q
    let x := s.queue q
    if !x.pending || decide (32 ≤ x.window.length) then (s, false)
    else
      let bytes := s.value (x.base + 64 * (x.head % x.entries)) 64
      if field bytes 16 16 ≠ x.seq then (s, true) else pollEntries (admitEntry s q bytes) q n

/-- A poll that found a difference is counted; the 65,536th in a row makes the queue FAULTED (R290). -/
def countMiss (s : State) (q : Nat) (differs : Bool) : State :=
  let x := s.queue q
  if !differs then s.setQueue q { x with misses := 0 }
  else if x.misses + 1 < 65536 then s.setQueue q { x with misses := x.misses + 1 }
  else (s.setQueue q { x with misses := 0, state := .faulted }).post x.part ⟨2, 0, q, x.home, 0, 0⟩

/-- CUFF_POLL of queue `q`. -/
def cuffPoll (s : State) (q : Nat) : Option State :=
  let x := s.queue q
  if !s.up || decide (64 ≤ q) || s.fl.cuffs.contains x.home then none
  else if !x.on || !x.pending then some s
  else
    let (s, differs) := pollEntries s q 4
    some (clearPending (countMiss s q differs) q)

/-! ## Dispatch (R294) -/

/-- Whether a packet of a window may start. -/
def startable (s : State) (x : Queue) (e : WinEnt) : Bool :=
  let before := x.window.filter fun y => decide (y.n < e.n)
  !e.started && !before.any WinEnt.barrier && (!e.barrier || before.isEmpty) && e.wait &&& ~~~x.tokens == 0 &&
    (e.field 30 6 == 0 || decide (e.field 30 6 ≤ s.ctr (e.field 28 2)))

/-- The better of two startable packets: the higher rank, then the earlier admission. -/
def betterStart (s : State) (a b : PktRef × WinEnt) : PktRef × WinEnt :=
  let ra := (s.queue a.1.q).setRank
  let rb := (s.queue b.1.q).setRank
  if ra = rb then (if a.2.n ≤ b.2.n then a else b) else if rb < ra then a else b

/-- The packet that a dispatch slot of a Cuff starts next. -/
def nextStart (s : State) (cuff : Nat) : Option (PktRef × WinEnt) :=
  let ps := s.fl.queues.flatMap fun (q, x) =>
    if x.on && x.home == cuff then (x.window.filter (startable s x)).map fun e => ((⟨q, e.n⟩ : PktRef), e) else []
  ps.foldl (fun (a : Option (PktRef × WinEnt)) p => match a with
    | some b => some (betterStart s b p)
    | none => some p) none

/-- A packet started: it consumes its tokens; one that waited on a poisoned token fails without running, and so does one
that breaks the packet format (R291, R294, R295). -/
def startEntry (s : State) (p : PktRef) (e : WinEnt) : State :=
  let x := s.queue p.q
  let poisoned := e.wait &&& x.poison != 0
  let s := s.setQueue p.q { x with tokens := if e.consume then x.tokens &&& ~~~e.wait else x.tokens }
  if poisoned then s.onPacket p fun e => { e with started := true, ran := true, done := some 3 }
  else match decodePacket p e.bytes with
    | none => s.onPacket p fun e => { e with started := true, ran := true, done := some 1 }
    | some i => { s.onPacket p fun e => { e with started := true } with agenda := i :: s.agenda }

/-- PACKET_DISPATCH of a Cuff: the startable packets start one by one, each acting before the next is chosen. -/
def packetDispatch (s : State) (cuff : Nat) : Option State :=
  if !s.up || decide (4 ≤ cuff) || s.fl.cuffs.contains cuff then none
  else match nextStart s cuff with
    | none => some s
    | some (p, e) =>
      some (startEntry { s with agenda := .packetDispatch cuff :: s.agenda } p e)

/-! ## The packets (R292) -/

/-- A started packet acts: `f` is its action on the machine in which it is marked so. -/
def runPacket (s : State) (p : PktRef) (i : Instr) (f : State → State) : Option State :=
  match s.packet p with
  | some e =>
    if e.started && !e.ran && e.done.isNone && decodePacket p e.bytes == some i then
      some (f (s.onPacket p fun e => { e with ran := true }))
    else none
  | none => none

/-- The partition of a packet's queue. -/
def State.pktPart (s : State) (p : PktRef) : Nat := (s.queue p.q).part

/-- A packet done with a status. -/
def State.done (s : State) (p : PktRef) (c : Nat) : State := s.packetDone p.q p.n c

/-- A packet failed with a status, INFO its failing address (R301). -/
def State.failAt (s : State) (p : PktRef) (c a : Nat) : State := s.packetDone p.q p.n c (some a)

/-- Whether a packet of a partition may address a physical address: memory, the host, a peer in reach, or a bank of the
partition through the global view (R292); never a page outside the mappings of the partition (log 33). -/
def fleusAt (s : State) (part pa : Nat) : Bool :=
  !Config.outside part (pa / 65536) && match regionOf pa with
  | .hbm => true
  | .lpddr => true
  | .host => true
  | .peer => (peerPort s pa).isSome
  | .scratch => !isOwnView pa && (s.bank (bankOf pa)).mode == .scratchpad && s.partOf (bankOf pa / 16) == part
  | _ => false

/-- The first of `n` bytes that a packet of a partition may not address. -/
def fleusFail (s : State) (part pa n : Nat) : Option Nat :=
  ((pagesOf pa n).map Prod.fst).find? fun a => !fleusAt s part a

/-- Whether it may address them all. -/
def fleusOk (s : State) (part pa n : Nat) : Bool := (fleusFail s part pa n).isNone

/-- A buffer of the handle table that a packet or the host writes (R298). -/
def bumpBuf (by_ : Writer) (pa n : Nat) (b : Buf) : Buf :=
  if b.ranges.any fun r => decide (r.1 < pa + n) && decide (pa < r.1 + r.2) then { b with writer := by_, stamp := b.stamp + 1 } else b

/-- The buffers that `n` bytes from `pa` on touch take another writer. -/
def bumpBufs (s : State) (by_ : Writer) (pa n : Nat) : State :=
  if n = 0 then s else { s with fl := { s.fl with bufs := s.fl.bufs.map fun (h, b) => (h, bumpBuf by_ pa n b) } }

/-- How a COPY or FILL ends: with status 0, or with the status, the failing address, and how many bytes were not written. -/
abbrev MoveEnd := Nat × Nat × Nat

/-- A piece of a COPY, within one page at either end: the status it fails with and where, if it does. -/
def copyPiece (s : State) (part src dst n : Nat) : Except (Nat × Nat) State :=
  match fleusFail s part src n <|> fleusFail s part dst n with
  | some a => .error (Status.access, a)
  | none =>
    let s := s.heal src n
    match s.badSpots src n with
    | [] => .ok (s.writeTaint none dst ((tabulate s.seen src n).map some) (regionOf src == .scratch && s.taintRange src n))
    | a :: as => .error (9, as.foldl Nat.min a)

/-- A COPY from piece to piece, `k` pieces at most; what was written stays written. -/
def copyRange (s : State) (part src dst n : Nat) : Nat → State × MoveEnd
  | 0 => (s, 0, 0, 0)
  | k + 1 =>
    if n = 0 then (s, 0, 0, 0) else
    let m := Nat.min n (Nat.min (65536 - src % 65536) (65536 - dst % 65536))
    match copyPiece s part src dst m with
    | .error (c, a) => (s, c, a, n)
    | .ok s => copyRange s part (src + m) (dst + m) (n - m) k

/-- A FILL from piece to piece; `i` counts the bytes already written. -/
def fillRange (s : State) (part dst i n : Nat) (pat : Word) : Nat → State × MoveEnd
  | 0 => (s, 0, 0, 0)
  | k + 1 =>
    if n ≤ i then (s, 0, 0, 0) else
    let m := Nat.min (n - i) (65536 - (dst + i) % 65536)
    match fleusFail s part (dst + i) m with
    | some a => (s, Status.access, a, n - i)
    | none =>
      let bs := tabulate (fun j => BitVec.ofNat 8 (field pat.toNat (8 * (j % 8)) 8)) i m
      fillRange (s.writeTaint none (dst + i) (bs.map some) false) part dst (i + m) n pat k

/-- A COPY or FILL of `len` bytes to `dst` ended (R298, R301). -/
def moveDone (p : PktRef) (dst len : Nat) (r : State × MoveEnd) : State :=
  let s := bumpBufs r.1 .packet dst (len - r.2.2.2)
  if r.2.1 = 0 then s.done p 0 else s.failAt p r.2.1 r.2.2.1

/-- LAUNCH (R292, R297): the descriptor is read at its physical address, and the launch waits for LAUNCH_START. -/
def packetLaunch (s : State) (p : PktRef) (desc : Nat) (ctr : Option Nat) : State :=
  if !fleusOk s (s.pktPart p) desc 128 then s.failAt p Status.access desc
  else if desc % 64 ≠ 0 then s.done p Status.badPacket
  else match descOf (s.value desc 128) with
    | none => s.done p Status.badPacket
    | some d =>
      if tagTaken s d.dtag then s.done p Status.badPacket
      else
        let lid := s.fl.lids + 1
        let x := Launch.new lid d (.packet p.q p.n) p.q (s.pktPart p) ctr 0 desc
        let s := { s with fl := { s.fl with lids := lid }, launches := SMap.put s.launches lid x }
        s.onPacket p fun e => { e with info := lid }

/-- RELAUNCH (R282, R292). -/
def packetRelaunch (s : State) (p : PktRef) (w : Nat) (ctr : Option Nat) : State :=
  match (if w < 16 then armedBy s w (s.pktPart p) else none) with
  | none => s.done p Status.badPacket
  | some lid =>
    let r : RelReq := ⟨0, 0, some p, ctr, p.q⟩
    (s.setWatch w { s.watch w with reqs := (s.watch w).reqs ++ [r] }).onPacket p fun e => { e with info := lid }

/-- COPY (R292, R293). -/
def packetCopy (s : State) (p : PktRef) (src dst len : Nat) : State :=
  moveDone p dst len (copyRange s (s.pktPart p) src dst len (2 * (len / 65536) + 4))

/-- FILL (R292). -/
def packetFill (s : State) (p : PktRef) (dst len : Nat) (pat : Word) : State :=
  moveDone p dst len (fillRange s (s.pktPart p) dst 0 len pat (len / 65536 + 3))

/-- COUNTER_ADD (R204, R292). -/
def packetCounterAdd (s : State) (p : PktRef) (ctr val : Nat) : State :=
  { s with ctrs := SMap.set 0 s.ctrs ctr (Nat.min (s.ctr ctr + val) (2 ^ 64 - 1)) }.done p 0

/-- TRACE_ARM (R283, R292, R307). -/
def packetTraceArm (s : State) (p : PktRef) (w lid : Nat) : State :=
  if w < 16 ∧ mayArm s w lid (s.pktPart p) then (bindWatch s w lid).done p 0 else s.done p Status.badPacket

/-- An OCAL of Fleus's own, which belongs to no core and no task: numbered `id`, its work begun in cycle `start`, or later
where that is 0. -/
def VeilOp.fleus (op : Instr) (id cyc start : Nat) : VeilOp :=
  { id := id, op := op, core := 512, root := 512, uid := 0, lid := 0, hd := 0, hs := 0, rd := 0, rs := 0, ctr := none, promise := none
    ptb := 0, te := false, dm := false, ex := 0, logn := 0, ap := .a256, recovery := .quad2, desc := none, shots := 0, time := 1
    issue := cyc, begin := cyc + 1, start := start, fired := 0, flying := [], bad := none }

/-- VEIL_CAL (R292): an OCAL joins each named engine. -/
def packetVeilCal (s : State) (p : PktRef) (mask : BitVec 4) : State :=
  ((tabulate id 0 4).filter fun h => mask.getLsbD h).foldl (fun (s : State) (h : Nat) =>
    let v := s.veil h
    let o := VeilOp.fleus (.veilCal p mask) s.uids s.cyc (if v.ops.any fun y => !y.dm then 0 else s.cyc + 1)
    { s with uids := s.uids + 1 }.setVeil h { v with ops := v.ops ++ [o] }) s

/-- The record of queue `q` in the answer to a QUERY with item 0. -/
def queryQueue (s : State) (part q : Nat) : List Byte :=
  let x := s.queue q
  if x.part = part then leBytes 8 x.qstat ++ leBytes 8 x.head ++ leBytes 8 x.seq ++ leBytes 40 1 else leBytes 64 0

/-- The answer to a QUERY with item 1: the calibration registers of an engine (R255). -/
def queryVeil (s : State) (h : Nat) : List Byte :=
  ([OReg.calSerial, .calAge, .calLimit, .temp, .gainmapBase, .phasemapBase, .refpower].flatMap fun r =>
    leBytes 8 (veilReg s h r).toNat) ++ leBytes 8 0

/-- The status of a launch (R335). -/
def queryLaunch (x : Launch) : List Byte :=
  leBytes 8 (if x.phase = .complete then x.status else 0xFF) ++ leBytes 8 x.ended ++ leBytes 8 x.discard ++
    leBytes 8 (if x.desc.dmode then x.digest else 0) ++ leBytes 4 x.reex ++ leBytes 4 x.lnfail ++ leBytes 8 x.lnaddr ++ leBytes 16 0

/-- The answer to a QUERY; `none` is BAD_PACKET (R292). -/
def queryAnswer (s : State) (part item chiplet lid : Nat) : Option (List Byte) :=
  match item with
  | 0 => some ((tabulate id 0 64).flatMap (queryQueue s part))
  | 1 => if chiplet < 4 then some (queryVeil s chiplet) else none
  | 2 => match SMap.find s.launches lid with
    | some x => if x.part = part then some (queryLaunch x) else none
    | none => none
  | _ => none

/-- QUERY (R292). -/
def packetQuery (s : State) (p : PktRef) (item chiplet ans lid : Nat) : State :=
  match queryAnswer s (s.pktPart p) item chiplet lid with
  | none => s.done p Status.badPacket
  | some bs =>
    match fleusFail s (s.pktPart p) ans bs.length with
    | some a => s.failAt p Status.access a
    | none => (s.writeTaint none ans (bs.map some) false).done p 0

/-- TID_WRITE (R191, R292). -/
def packetTidWrite (s : State) (p : PktRef) (adr chiplet cluster id : Nat) : State :=
  if 3 < chiplet ∨ 15 < cluster then s.done p Status.badPacket
  else if !fleusOk s (s.pktPart p) adr 96 then s.failAt p Status.access adr
  else
    let r : Record := BitVec.ofNat 768 (s.value adr 96)
    match recordBad r with
    | some _ => s.done p 4
    | none => (s.setTid (chiplet * 16 + cluster) id r).done p 0

/-- QUEUE_CTL (R292). -/
def packetQueueCtl (s : State) (p : PktRef) (target action home : Nat) : State :=
  if 64 ≤ target ∨ (s.queue target).part ≠ s.pktPart p then s.done p Status.badPacket
  else match queueCtl s target action home with
    | none => s.done p Status.badPacket
    | some s => s.done p 0

/-! ## The host's registers and the Cuffs' faults (R289, R300) -/

/-- A posted write of the host, its `n`-th, performed as `f` says: after every earlier one, or, with the relaxed-ordering
attribute, perhaps before some (R212). Writes of CXL.mem whose completion the host had received have performed before it is
sent. -/
def State.posted (s : State) (n : Nat) (relaxed : Bool) (f : State → State) : Option State :=
  if n < s.ioNext ∨ s.ioEarly.contains n ∨ (relaxed = false ∧ n ≠ s.ioNext) then none
  else
    let early := insertNat n s.ioEarly
    let next := early.foldl (fun m e => if e = m then m + 1 else m) s.ioNext
    some (f { s with ioNext := next, ioEarly := early.filter fun e => decide (next ≤ e) })

/-- QTAIL: the host rings a queue's doorbell. -/
def hostTail (s : State) (n q : Nat) (v : Word) (relaxed : Bool) : Option State :=
  if q < 64 then s.posted n relaxed fun s => queueWrite s q 0x10 v.toNat else none

/-- REGISTER_WRITE: the host writes a register of the first BAR, which shows MMIO space (R289). -/
def hostRegister (s : State) (n off : Nat) (v : Word) (relaxed : Bool) : Option State :=
  if off % 8 = 0 ∧ off < 2 ^ 32 then s.posted n relaxed fun s => mmioWrite s (0x7C0000000000 + off) 8 v.toNat else none

/-- Every queue that a test picks put in a state. -/
def setQueues (s : State) (f : Nat → Queue → Bool) (st : QState) : State :=
  (tabulate id 0 64).foldl (fun s q => if f q (s.queue q) then s.setQueue q { s.queue q with state := st } else s) s

/-- A Cuff held in reset with its queues (R300). -/
def holdCuff (s : State) (cuff : Nat) : State :=
  let s := { s with fl := { s.fl with cuffs := s.fl.cuffs ++ [cuff] } }
  (setQueues s (fun _ x => x.home == cuff) .held).postAll ⟨3, 0, 0xFF, cuff, 0, 0⟩

/-- CUFF_ROM_PARITY (R300). -/
def cuffParity (s : State) (cuff : Nat) : Option State :=
  if 4 ≤ cuff ∨ s.fl.cuffs.contains cuff then none else some (holdCuff s cuff)

/-- CUFF_TABLE_ECC (R300): the queues given are those whose state the bad table holds. -/
def cuffEcc (s : State) (cuff : Nat) (qs : List Nat) : Option State :=
  if 4 ≤ cuff ∨ !(qs.all fun q => decide (q < 64) && (s.queue q).home == cuff) then none
  else some (qs.foldl (fun s q => s.post (s.queue q).part ⟨2, 0, q, cuff, 0, 0⟩) (setQueues s (fun q _ => qs.contains q) .faulted))

end Sys2Proof.Machine
end

