-- ==== Sys2Proof/Machine/ExecFleus.lean ====
section
/-! DEFINITION. The meanings of the Fleus executive: one definition for each row of the opcode table. -/

namespace Sys2Proof.Machine

/-- CUFF_POLL (R290). -/
def execCuffPoll (q : Nat) (s : State) : Host.Outcome State Fault Refusal := answer (Machine.cuffPoll s q)
/-- PACKET_DISPATCH (R294). -/
def execPacketDispatch (cuff : Nat) (s : State) : Host.Outcome State Fault Refusal := answer (Machine.packetDispatch s cuff)
/-- PACKET_COMPLETION (R295). -/
def execPacketCompletion (p : PktRef) (s : State) : Host.Outcome State Fault Refusal := answer (Machine.packetCompletion s p)
/-- LAUNCH (R292). -/
def execLaunch (p : PktRef) (desc : Nat) (ctr : Option Nat) (s : State) : Host.Outcome State Fault Refusal :=
  answer (runPacket s p (.launch p desc ctr) fun s => packetLaunch s p desc ctr)
/-- RELAUNCH (R292). -/
def execRelaunch (p : PktRef) (w : Nat) (ctr : Option Nat) (s : State) : Host.Outcome State Fault Refusal :=
  answer (runPacket s p (.relaunch p w ctr) fun s => packetRelaunch s p w ctr)
/-- COPY (R292). -/
def execCopy (p : PktRef) (src : Nat) (dst : Nat) (len : Nat) (s : State) : Host.Outcome State Fault Refusal :=
  answer (runPacket s p (.copy p src dst len) fun s => packetCopy s p src dst len)
/-- FILL (R292). -/
def execFill (p : PktRef) (dst : Nat) (len : Nat) (pat : Word) (s : State) : Host.Outcome State Fault Refusal :=
  answer (runPacket s p (.fill p dst len pat) fun s => packetFill s p dst len pat)
/-- COUNTER_ADD (R292). -/
def execCounterAdd (p : PktRef) (ctr : Nat) (val : Nat) (s : State) : Host.Outcome State Fault Refusal :=
  answer (runPacket s p (.counterAdd p ctr val) fun s => packetCounterAdd s p ctr val)
/-- COUNTER_WAIT (R292). -/
def execCounterWait (p : PktRef) (ctr : Nat) (thr : Nat) (s : State) : Host.Outcome State Fault Refusal :=
  answer (runPacket s p (.counterWait p ctr thr) id)
/-- TRACE_ARM (R292). -/
def execTraceArm (p : PktRef) (w : Nat) (lid : Nat) (s : State) : Host.Outcome State Fault Refusal :=
  answer (runPacket s p (.traceArm p w lid) fun s => packetTraceArm s p w lid)
/-- VEIL_CAL (R292). -/
def execVeilCal (p : PktRef) (mask : BitVec 4) (s : State) : Host.Outcome State Fault Refusal :=
  answer (runPacket s p (.veilCal p mask) fun s => packetVeilCal s p mask)
/-- QUERY (R292). -/
def execQuery (p : PktRef) (item : Nat) (chiplet : Nat) (ans : Nat) (lid : Nat) (s : State) : Host.Outcome State Fault Refusal :=
  answer (runPacket s p (.query p item chiplet ans lid) fun s => packetQuery s p item chiplet ans lid)
/-- TID_WRITE (R292). -/
def execTidWrite (p : PktRef) (rec : Nat) (chiplet : Nat) (cluster : Nat) (id : Nat) (s : State) : Host.Outcome State Fault Refusal :=
  answer (runPacket s p (.tidWrite p rec chiplet cluster id) fun s => packetTidWrite s p rec chiplet cluster id)
/-- QUEUE_CTL_ENABLE (R289). -/
def execQueueCtlEnable (p : PktRef) (target : Nat) (s : State) : Host.Outcome State Fault Refusal :=
  answer (runPacket s p (.queueCtlEnable p target) fun s => packetQueueCtl s p target 0 0)
/-- QUEUE_CTL_DISABLE (R292). -/
def execQueueCtlDisable (p : PktRef) (target : Nat) (s : State) : Host.Outcome State Fault Refusal :=
  answer (runPacket s p (.queueCtlDisable p target) fun s => packetQueueCtl s p target 1 0)
/-- QUEUE_CTL_REHOME (R300). -/
def execQueueCtlRehome (p : PktRef) (target : Nat) (home : Nat) (s : State) : Host.Outcome State Fault Refusal :=
  answer (runPacket s p (.queueCtlRehome p target home) fun s => packetQueueCtl s p target 2 home)
/-- QUEUE_CTL_CLEAR (R292). -/
def execQueueCtlClear (p : PktRef) (target : Nat) (s : State) : Host.Outcome State Fault Refusal :=
  answer (runPacket s p (.queueCtlClear p target) fun s => packetQueueCtl s p target 3 0)
/-- NOP_PACKET (R292). -/
def execNopPacket (p : PktRef) (s : State) : Host.Outcome State Fault Refusal :=
  answer (runPacket s p (.nopPacket p) fun s => s.done p 0)
/-- QTAIL (R289). -/
def execQtail (q : Nat) (v : PostedWord) (s : State) : Host.Outcome State Fault Refusal :=
  answer (hostTail s v.order.n q v.word v.order.relaxed)
/-- REGISTER_WRITE (R289). -/
def execRegisterWrite (off : Nat) (v : PostedWord) (s : State) : Host.Outcome State Fault Refusal :=
  answer (hostRegister s v.order.n off v.word v.order.relaxed)
/-- CUFF_ROM_PARITY (R300). -/
def execCuffRomParity (cuff : Nat) (s : State) : Host.Outcome State Fault Refusal := answer (cuffParity s cuff)
/-- CUFF_TABLE_ECC (R300). -/
def execCuffTableEcc (cuff : Nat) (queues : List Nat) (s : State) : Host.Outcome State Fault Refusal :=
  answer (cuffEcc s cuff queues)

end Sys2Proof.Machine
end

