-- ==== Sys2Proof/Machine/ExecLink.lean ====
section
/-! DEFINITION. The meanings of the L slot, links and ports: one definition for each row of the opcode table. -/

namespace Sys2Proof.Machine

/-- LSEND (R275). -/
def execLsend (port : BitVec 5) (h : HReg) (e : PrmCnt) (s : State) : Host.Outcome State Fault Refusal :=
  issueOne .l (.lsend port h e) s
/-- LRECV (R275). -/
def execLrecv (port : BitVec 5) (h : HReg) (e : PrmCnt) (s : State) : Host.Outcome State Fault Refusal :=
  issueOne .l (.lrecv port h e) s
/-- LRADD (R276). -/
def execLradd (i32 : Bool) (port : BitVec 5) (a : SReg) (l : SReg) (e : PrmCnt) (s : State) : Host.Outcome State Fault Refusal :=
  issueOne .l (.lradd i32 port a l e) s
/-- LQADD (R276). -/
def execLqadd (port : BitVec 5) (a : SReg) (l : SReg) (e : PrmCnt) (s : State) : Host.Outcome State Fault Refusal :=
  issueOne .l (.lqadd port a l e) s
/-- LTMO (R277). -/
def execLtmo (port : BitVec 5) (t : SReg) (s : State) : Host.Outcome State Fault Refusal := issueOne .l (.ltmo port t) s
/-- LRING (R273). -/
def execLring (a : SReg) (s : State) : Host.Outcome State Fault Refusal := issueOne .l (.lring a) s
/-- LSTAT (R278). -/
def execLstat (d : SReg) (port : BitVec 5) (s : State) : Host.Outcome State Fault Refusal := issueOne .l (.lstat d port) s
/-- LCADD (R279). -/
def execLcadd (dev : SReg) (c : SReg) (v : SReg) (s : State) : Host.Outcome State Fault Refusal := issueOne .l (.lcadd dev c v) s
/-- LINK_MATCH (R274). -/
def execLinkMatch (recv : Nat) (s : State) : Host.Outcome State Fault Refusal := answer (Machine.linkMatch s recv)
/-- LINK_MESSAGE_ARRIVAL (R274). -/
def execLinkMessageArrival (port : Nat) (src : Nat) (dtag : MsgTag) (data : List Byte) (s : State) : Host.Outcome State Fault Refusal :=
  answer (linkArrival s port src dtag.dtag dtag.k data)
/-- LINK_OP_COMPLETE (R275). -/
def execLinkOpComplete (op : LinkEnd) (s : State) : Host.Outcome State Fault Refusal :=
  answer (linkComplete s op.op op.reply)
/-- REMOTE_COUNTER_ADD (R279). -/
def execRemoteCounterAdd (ctr : Nat) (val : Nat) (s : State) : Host.Outcome State Fault Refusal := answer (remoteAdd s ctr val)
/-- LINK_TIMEOUT (R277). -/
def execLinkTimeout (op : Nat) (s : State) : Host.Outcome State Fault Refusal := answer (Machine.linkTimeout s op)
/-- PORT_DOWN (R277). -/
def execPortDown (port : Nat) (s : State) : Host.Outcome State Fault Refusal :=
  answer (if port < 32 then some (Machine.portDown s port) else none)
/-- PORT_LANES_LOST (R359). -/
def execPortLanesLost (port : Nat) (s : State) : Host.Outcome State Fault Refusal := answer (Machine.portLanesLost s port)
/-- FLIT_RETRY (R359). -/
def execFlitRetry (port : Nat) (s : State) : Host.Outcome State Fault Refusal := answer (Machine.flitRetry s port)

end Sys2Proof.Machine
end

