-- ==== Sys2Proof/Machine/MemSys.lean ====
section
/-! DEFINITION. The memory system below the caches: write-backs with parity, reconstruction, the loss and rebuilding of a
stack, refresh, scrubbing, soft errors, wear; and how launches are ended from outside (R180 to R187, R340 to R343, R353 to
R358, R373). -/

namespace Sys2Proof.Machine

/-! ## Stripes (R182, R355) -/

/-- Whether a write-back of a stripe is in flight (R355). -/
def stripeBusy (s : State) (st : Nat) : Bool := s.hbm.flight.any fun w => stripeOf w.chunk == st

/-! ## Write-backs (R182, R354) -/

/-- Whether a stripe can give the stored value of a chunk in a lost stack: no write-back of it is half done, and none of its other
chunks is lost or bad (R354, R355). -/
def canRebuild (s : State) (c : Nat) : Bool :=
  let st := stripeOf c
  !stripeBusy s st && decide ((s.gone st).length ≤ 1) && !s.hbm.parErr.contains st &&
    !s.err.any fun w => regionOf w == .hbm && stripeOf (chunkOf w) == st

/-- HEM_WRITEBACK of a dirty chunk: data and parity delta go out; of a lost stack's chunk only the delta, to a stripe whose parity
is lost only the data. Its tile was marked when its writes performed at the slice, and is not marked again (R307, R354, R369,
DEDUCED, log 69). A chunk that holds an error stays in its slice (R340). -/
def hemWriteback (s : State) (c : Nat) : Option State :=
  let st := stripeOf c
  let noData := s.hbm.isLost (stackOf c) && !s.hbm.copied st
  let noPar := s.hbm.isLost (parityStack st) && !s.hbm.copied st
  if !s.hbm.dirty.contains c || s.hbm.flight.any (fun w => w.chunk == c) || s.hbm.errs.any (fun w => chunkOf w == c) ||
      (noData && !canRebuild s c) then none
  else
    let data := chunkBytes s c
    let old := if noData then rebuiltChunk s c else storedChunk s c
    let w : WbFlight := ⟨c, data, xorBytes old data, noData, noPar⟩
    let s := s.onHbm fun h => { h with dirty := h.dirty.filter fun d => d != c, flight := h.flight ++ [w] }
    some s

/-- The parity chunk of a stripe rebuilt from its data chunks, as a reading of it that meets an error does (R341). -/
def healParity (s : State) (st : Nat) : State :=
  if s.hbm.parErr.contains st && (s.gone st).isEmpty && !s.err.any fun w => regionOf w == .hbm && stripeOf (chunkOf w) == st then
    s.onHbm fun h => { h with parErr := h.parErr.filter fun p => p != st }
  else s

/-- WRITEBACK_ACK: one part of a write-back is acknowledged; with both the write-back is complete. -/
def writebackAck (s : State) (c : Nat) (parity : Bool) : Option State :=
  match s.hbm.flight.find? fun w => w.chunk == c with
  | none => none
  | some w =>
    if (if parity then w.parAck else w.dataAck) then none
    else
      let s := if parity then addParity (healParity s (stripeOf c)) (stripeOf c) w.delta else putChunk s c w.data
      let w' := if parity then { w with parAck := true } else { w with dataAck := true }
      let fl := s.hbm.flight.map fun y => if y.chunk = c then w' else y
      some (s.onHbm fun h => { h with flight := fl.filter fun y => !(y.dataAck && y.parAck) })

/-- RECONSTRUCT_READ (R341, R354, R355): a clean chunk of a lost stack, or one that its stack reports uncorrectable, is
rebuilt from its stripe. -/
def reconstructRead (s : State) (c : Nat) : Option State :=
  let st := stripeOf c
  let bad := s.err.filter fun w => regionOf w == .hbm && chunkOf w == c
  let lost := s.hbm.isLost (stackOf c) && !s.hbm.copied st
  if s.hbm.dirty.contains c || stripeBusy s st || decide (0x00B400000000 ≤ 512 * c) then none
  else if lost && bad.isEmpty && !s.unreadable c then
    some { s with mem := storeAt s.mem c (rebuiltChunk s c) }
  else if !bad.isEmpty && bad.all s.rebuildable then
    some { s with mem := storeAt s.mem c (rebuiltChunk s c), err := s.err.filter fun w => !bad.contains w }
  else none

/-! ## Launches ended from outside (R353, R357, R373) -/

/-- A core's work for the launches given dropped. -/
def Core.dropLaunches (ls : List Nat) (c : Core) : Core :=
  let mine (o : CopyOp) : Bool := !ls.contains o.lid
  let c := { c with todo := c.todo.filter fun e => !ls.contains e.1, saved := c.saved.filter fun y => !ls.contains y.task.lid
                    cq0 := c.cq0.filter mine, cq1 := c.cq1.filter mine }
  match c.task with
  | some t =>
    if ls.contains t.lid then
      { c with task := none, reach := none, mdup := none, fifoWait := none, wait := none, walk := none, walkBad := none, ended := false
               fence := c.fence.filter Fence.isTlbi, stores := [], forks := []
               steps := c.steps.filter fun y => y.uid != t.uid, mops := c.mops.filter fun y => y.uid != t.uid }
    else c
  | none => c

/-- A watch's relaunch of launch `l` ended. -/
def Watch.endRun (l : Nat) (e : Nat × Watch) : Nat × Watch :=
  (e.1, if e.2.bound = some l then { e.2 with run := none } else e.2)

/-- A launch ended with TASK_FAULT: a relaunch in progress ends with it. -/
def abortLaunch (s : State) (l : Nat) : State :=
  match SMap.find s.launches l with
  | none => s
  | some x =>
    let s := { s with watches := s.watches.map (Watch.endRun l) }
    let s := s.onLaunch l fun x => { x with phase := .complete, status := 7, only := none }
    let s := endClaims s l
    match x.origin with
    | .packet q n => s.packetDone q n 7
    | .lnch .. => s

/-- The packets of relaunches that the launches given can no longer have. -/
def dropRelaunches (s : State) (ls : List Nat) : State :=
  let gone (w : Watch) : Bool := match w.bound with
    | some l => ls.contains l
    | none => false
  let reqs := s.watches.flatMap fun (_, w) => if gone w then w.reqs ++ (w.run.map RelRun.req).toList else []
  let s := { s with watches := s.watches.map fun (i, w) => (i, if gone w then { w with reqs := [] } else w) }
  reqs.foldl (fun s r => match r.packet with
    | some p => s.packetDone p.q p.n 7
    | none => s) s

/-- Launches stopped: their tasks leave every core, their engine operations end, and each ends with TASK_FAULT. -/
def abortLaunches (s : State) (ls : List Nat) : State :=
  let s := { s with
    cores := s.cores.map fun (k, c) => (k, c.dropLaunches ls)
    veils := s.veils.map fun (h, v) => (h, { v with ops := v.ops.filter fun o => !ls.contains o.lid })
    links := s.links.filter fun o => !ls.contains o.lid
    lreqs := s.lreqs.filter fun r => !ls.contains r.lid }
  let s := dropRelaunches s ls
  (ls.filter fun l => match SMap.find s.launches l with
    | some x => x.phase != .complete
    | none => false).foldl abortLaunch s

/-- The launches that have not completed. -/
def openLaunches (s : State) : List Nat := (s.launches.filter fun (_, x) => x.phase != .complete).map Prod.fst

/-! ## Losing a stack (R354 to R357) -/

/-- A write-back in flight as the loss of stack `k` leaves it: its part for the lost stack is no longer awaited. -/
def WbFlight.lose (k : Nat) (w : WbFlight) : WbFlight :=
  { w with dataAck := w.dataAck || stackOf w.chunk == k, parAck := w.parAck || parityStack (stripeOf w.chunk) == k }

/-- Every copy-queue operation changed. -/
def State.mapCopies (s : State) (f : CopyOp → CopyOp) : State :=
  { s with cores := s.cores.map fun (k, c) => (k, { c with cq0 := c.cq0.map f, cq1 := c.cq1.map f }) }

/-- A running D-mode copy that touches a chunk of the lost stack `k` ends a free time later than promised (R358). -/
def CopyOp.suffer (k n : Nat) (o : CopyOp) : CopyOp :=
  if o.dm && o.stage == .running && o.chunks.any fun c => stackOf c == k then { o with due := o.due + Config.engineExtra (n + o.id) } else o

/-- STACK_LOST: the first loss is survived; a second is fatal. A write-back to the lost stack is re-sent parity-only, and the
errors of what the stack stored go with it: its chunks are reconstructed from now on (R354, R355). -/
def stackLost (s : State) (k : Nat) : Option State :=
  if 16 ≤ k ∨ s.hbm.isLost k then none
  else
    let first := s.hbm.lost.isEmpty
    let fl := (s.hbm.flight.map (WbFlight.lose k)).filter fun w => !(w.dataAck && w.parAck)
    let s := s.onHbm fun h => { h with lost := h.lost ++ [k], flight := fl, lostAt := h.lostAt <|> some s.cyc }
    let s := { s with err := s.err.filter fun w => !(regionOf w == Region.hbm && stackOf (chunkOf w) == k)
                      hbm := { s.hbm with parErr := s.hbm.parErr.filter fun st => parityStack st != k } }
    let n := s.fresh
    let s := { s with fresh := n + s.uids }.mapCopies (CopyOp.suffer k n)
    let s := s.postAll ⟨5, 0, 0xFF, k % 4, 0, k⟩
    some (if first then s else setQueues (abortLaunches s (openLaunches s)) (fun _ _ => true) .faulted)

/-- The copy of a stripe's lost chunk that was made from a chunk with an uncorrectable error: reads of it poison (R341). -/
def spoilCopy (s : State) (st k : Nat) : State :=
  if parityStack st = k then s.onHbm fun h => { h with parErr := insertNat st h.parErr } else
  match (chunksOf st).find? fun c => stackOf c == k && !s.inSlice c with
  | some c => { s with err := (tabulate (fun i => 512 * c + 64 * i) 0 8).foldl (fun es w => insertNat w es) s.err }
  | none => s

/-- STACK_REBUILD_STRIPE: the lost chunk of the next stripe is written to its copy. -/
def stackRebuildStripe (s : State) (st : Nat) : Option State :=
  match s.hbm.lost with
  | [k] =>
    if !s.fl.rebuild || st != s.hbm.rebuilt || decide (stripeCount ≤ st) || stripeBusy s st then none
    else
      let bs := if parityStack st = k then rebuiltParity s st else
        match (chunksOf st).find? fun c => stackOf c == k with
        | some c => rebuiltChunk s c
        | none => List.replicate 512 0
      let bad := s.err.any (fun w => regionOf w == .hbm && stripeOf (chunkOf w) == st) || s.hbm.parErr.contains st
      let s := (putCopy s st bs).onHbm fun h => { h with rebuilt := st + 1 }
      let s := if bad then spoilCopy s st k else s
      some (if st + 1 = stripeCount then s.postAll ⟨6, 0, 0xFF, k % 4, 0, k⟩ else s)
  | _ => none

/-! ## Refresh, scrubbing, wear (R186, R187, R342, R343) -/

/-- The number of a row of a bank. -/
def rowKey (bank row : Nat) : Nat := bank * 2 ^ 32 + row

/-- The row an HBM4E address lies in; the manual does not give it (log 19). -/
def rowOf (a : Nat) : Nat := Config.unstated 186 (a / 64)

/-- The refresh class of a row, 0 for 128 ms, 1 for 64 ms, 2 for 32 ms: the one it was moved to, or else the one that the
tests at the last reset gave it (R186); the manual does not say which, so that is a free value (log 19). -/
def State.rowClass (s : State) (r : Nat) : Nat := (SMap.find s.hbm.classes r).getD (Config.rowClass s.fl.resets r % 3)

/-- The cycles between two refreshes of a row of a class (R186): 128, 64 or 32 ms. -/
def classPeriod (c : Nat) : Nat := 57600000 * 2 ^ (2 - c)

/-- Whether the interval of a row's class has passed since it was last refreshed (R186). -/
def State.rowDue (s : State) (r : Nat) : Bool := decide (SMap.get 0 s.hbm.refreshed r + classPeriod (s.rowClass r) ≤ s.cyc)

/-- Rows refreshed in this cycle. -/
def State.refreshRows (s : State) (rs : List Nat) : State :=
  s.onHbm fun h => { h with refreshed := rs.foldl (fun m r => SMap.put m r s.cyc) h.refreshed }

/-- REFRESH of a row, whose interval has passed. -/
def refreshRow (s : State) (bank row : Nat) : Option State :=
  if row < 2 ^ 32 ∧ s.rowDue (rowKey bank row) then some (s.refreshRows [rowKey bank row]) else none

/-- Whether a running copy moves bytes of a bank of HBM4E, so that its bursts may hold a row of it open (R187). -/
def CopyOp.bursts (bank : Nat) (o : CopyOp) : Bool :=
  o.stage == .running && o.chunks.any fun c => (List.range 8).any fun i => rowOf (512 * c + 64 * i) / 2 ^ 32 == bank

/-- A running copy whose bursts reach a bank delayed; a promise made in D-mode stands. -/
def CopyOp.delay (bank n : Nat) (o : CopyOp) : CopyOp := if o.bursts bank && !o.dm then { o with due := o.due + n } else o

/-- REFRESH_INTERRUPT: a bank that has postponed the refreshes of 8 rows refreshes them, and the copies whose bursts held a row of
it open take a free time more, at most 720 cycles (R187, log 10). Which rows a bank has the manual does not give, so nothing
tells how many refreshes a bank has postponed until the bank refreshes (log 19). -/
def refreshInterrupt (s : State) (bank : Nat) (rows : List Nat) : Option State :=
  let rs := rows.map (rowKey bank)
  let held := s.cores.any fun e => (e.2.cq0 ++ e.2.cq1).any (CopyOp.bursts bank)
  if rows.length = 8 ∧ rises rows ∧ rows.all (fun r => decide (r < 2 ^ 32)) ∧ rs.all s.rowDue ∧ held then
    let n := Config.engineExtra s.fresh % 721
    some ({ s with fresh := s.fresh + 1 }.refreshRows rs |>.mapCopies (CopyOp.delay bank n))
  else none

/-- PATROL_SCRUB: a word with a correctable error is written back as it reads, unless a write has come between; either way
no value changes. The row of an HBM4E word moves to a stricter class, and the correction is logged. -/
def patrolScrub (s : State) (a : Nat) (_written : Bool) : Option State :=
  match regionOf a with
  | .hbm =>
    let r := rowOf a
    let c := Nat.min (s.rowClass r + 1) 2
    some ((s.onHbm fun h => { h with classes := SMap.put h.classes r c }).postAll ⟨7, 0, 0xFF, 0, 0, a⟩)
  | .scratch => some (s.post (s.partOf ((a - 0x7F0000000000) / 2 ^ 24)) ⟨7, 0, 0xFF, 0, 0, a⟩)
  | _ => none

/-- Whether a wear word keeps the layout of R343. -/
def wearOk (w : Word) : Bool :=
  let n := w.toNat
  bitAt n 63 && field n 48 15 == 0 && decide (field n 40 8 ≤ 100) && decide (field n 32 8 ≤ 2)

/-- WEAR_REFRESH. -/
def wearRefresh (s : State) (ws : List Word) : Option State :=
  if ws.length = 21 ∧ ws.all wearOk then some { s with fl := { s.fl with wear := ws } } else none

/-! ## Soft errors (R340) -/

/-- The task of a core changed. -/
def State.onCoreTask (s : State) (k : Nat) (f : Task → Task) : Option State :=
  match s.mach k with
  | some m => some (s.setCore k { m.c with task := some (f m.t) })
  | none => none

/-- SOFT_ERROR. -/
def softError (s : State) : ErrorSite → Option State
  | .scalar k r b =>
    if 64 ≤ r ∨ 64 ≤ b then none
    else s.onCoreTask k fun t => { t with regs := t.regs.setSreg r (t.regs.sreg r ^^^ natW (2 ^ b)) (t.regs.spoison r) }
  | .tileRow k i b =>
    if 1536 ≤ i ∨ 2048 ≤ b then none
    else s.onCoreTask k fun t =>
      { t with regs := t.regs.setRow i { t.regs.row i with data := (t.regs.row i).data ^^^ BitVec.ofNat 2048 (2 ^ b) } }
  | .correctable a => some (s.postAll ⟨7, 0, 0xFF, 0, 0, a⟩)
  | .uncorrectable a =>
    match regionOf a with
    | .hbm => some (s.spoil a)
    | .lpddr => some (s.spoil a)
    | .rebuild => some (s.spoil a)
    | .scratch => if isOwnView a then none else some (s.spoil a)
    | _ => none
  | .instrMem k off =>
    if off < 0x40000 then some (s.setCore k { s.core k with imemErr := insertNat (off / 8 * 8) (s.core k).imemErr }) else none
  | .fifoEntry b i =>
    let x := s.bank b
    if i < x.fifo.length then
      some (s.setBank b { x with fifo := modifyAt (fun r => { r with poison := some (0x7F0000000000 + b / 256 * 2 ^ 28 + b % 256 * 2 ^ 20) }) x.fifo i })
    else none
  | .parity st => if st < stripeCount then some (s.onHbm fun h => { h with parErr := insertNat st h.parErr }) else none
  | .l1Line k w i =>
    let c := s.core k
    match SMap.find c.l1 w with
    | some x =>
      if 8 ≤ i then none
      else if x.dirty then some (s.setCore k { c with l1 := SMap.put c.l1 w { x with err := insertNat (64 * x.line + 8 * i) x.err } })
      else some (s.setCore k { c with l1 := SMap.del c.l1 w })
    | none => none
  | .clusterLine cl j i =>
    match (s.cc cl)[j]? with
    | some x =>
      if 8 ≤ i then none
      else if x.dirty then some (s.ccSpoil cl (64 * x.line + 8 * i))
      else some (s.setCc cl (dropAt (s.cc cl) j))
    | none => none
  | .constLine k i =>
    if i < (s.core k).cc.length then some (s.setCore k { s.core k with cc := dropAt (s.core k).cc i }) else none

end Sys2Proof.Machine
end

