-- ==== Sys2Proof/Machine/Manage.lean ====
section
/-! DEFINITION. Bring-up, power and management, the host's and peers' accesses to device memory (R171, R205, R212, R353, R363,
R364, R370 to R375). -/

namespace Sys2Proof.Machine

/-! ## The host and peers (R171, R212, R213, R364) -/

/-- A write that no launch of this device makes: watches take note of it, and of the host's the buffers (R298, R307). -/
def outsideWrite (s : State) (pa : Nat) (bs : List Byte) : State := s.writeAll none pa bs

/-- A write of the host. -/
def hostWrite (s : State) (pa : Nat) (bs : List Byte) : State := bumpBufs (outsideWrite s pa bs) .host pa bs.length

/-- The answer to a host's access of the window: an error, or the bytes read, none for a write. -/
def State.respond (s : State) (ok : Bool) (bs : List Byte) : State :=
  { s with fl := { s.fl with responses := s.fl.responses ++ [(ok, bs)] } }

/-- HOST_CXL_MEM_ACCESS at an offset of the window; an access beyond the window is answered with an error and touches nothing, as is
any in 68-byte flit mode, which has no window (R363, R364). -/
def hostMemAccess (s : State) (off n : Nat) (write : Option (List Byte)) : Option State :=
  if !s.up || n == 0 || (match write with
    | some bs => bs.length != n
    | none => false) then none
  else if s.fl.flit68 || decide (s.fl.window.2 < off + n) then some (s.respond false [])
  else match write with
    | some bs => some ((hostWrite s (s.fl.window.1 + off) bs).respond true [])
    | none => some ((s.heal (s.fl.window.1 + off) n).respond true (s.bytes (s.fl.window.1 + off) n))

/-- What a posted write of the host reaches: device memory inside the window, which 68-byte flit mode has not, a register of the
BAR, or the host's own memory; one that misses the window touches nothing (R212, R289, R316, R363, R364). -/
def ioWrite (s : State) (a : Nat) (bs : List Byte) : State :=
  match regionOf a with
  | .mmio => if (bs.length = 4 ∨ bs.length = 8) ∧ a % bs.length = 0 then mmioWrite s a bs.length (leNat bs) else s
  | .hbm => if s.fl.flit68 = false ∧ s.fl.window.1 ≤ a ∧ a + bs.length ≤ s.fl.window.1 + s.fl.window.2 then hostWrite s a bs else s
  | .host => if a + bs.length ≤ 0x500000000000 then hostWrite s a bs else s
  | _ => s

/-- HOST_CXL_IO_WRITE: the host's `n`-th posted write performs in device memory or a register of the BAR. -/
def hostIoWrite (s : State) (n a : Nat) (bs : List Byte) (relaxed : Bool) : Option State :=
  if !s.up || bs.isEmpty then none else s.posted n relaxed fun s => ioWrite s a bs

/-- PEER_MEMORY_ACCESS at an offset of this device's HBM4E (R168, R171). -/
def peerAccess (s : State) (dev off n : Nat) (write : Option (List Byte)) : Option State :=
  if !s.up || decide (512 ≤ dev) || dev == s.devnum || n == 0 || decide (0x00B400000000 < off + n) then none
  else match write with
    | some bs => if bs.length = n then some (outsideWrite s off bs) else none
    | none => some (s.heal off n)

/-! ## Bring-up (R370, R371) -/

/-- The engine of a chiplet calibrated at bring-up, its limit that of the boot configuration. -/
def bringVeil (s : State) (h : Nat) : State :=
  calibrate (s.setVeil h { s.veil h with limit := s.fl.calLimit }) h (VeilOp.fleus (.veilCal ⟨64, 0⟩ 0) 0 s.cyc s.cyc)

/-- The configured queues enabled, but those of a Cuff that is held. -/
def enableQueues (s : State) : State :=
  (s.fl.queueSet.filter fun q => !s.fl.cuffs.contains (s.queue q).home).foldl (fun s q => match queueCtl s q 0 0 with
    | some s => s
    | none => s) s

/-- A reply or report to management: whether a command was carried out, and its bytes. -/
def State.reply (s : State) (ok : Bool) (bs : List Byte) : State := { s with fl := { s.fl with replies := s.fl.replies ++ [(ok, bs)] } }

/-- The step that a bring-up fails at, with its cause: step 2 fails where a signature does not verify (R370, R371). -/
def bringUpFault (b : BringUp) : Option (Fin 6 × Nat) :=
  if b.rsa && b.slh then b.fails
  else match b.fails with
    | some (0, c) => some (0, c)
    | _ => some (1, Config.bootSig 0)

/-- The unsupported features of a host link. -/
def linkFeatures : List LinkFeature := [.hdmH, .hdmD, .pooling, .fabric]

/-- The members of a list that a number's bits pick. -/
def pickBits {α : Type} (n : Nat) (xs : List α) : List α :=
  ((tabulate id 0 xs.length).zip xs).filterMap fun e => if bitAt n e.1 then some e.2 else none

/-- What the bring-up after this one meets is drawn (log 58). -/
def State.nextBoot (s : State) : State :=
  let (rsa, slh, fails, flit68) := Config.bringUp s.fresh
  let (roms, asks) := Config.bringUpBits s.fresh
  { s with fresh := s.fresh + 1, fl := { s.fl with boot := ⟨rsa, slh, fails, flit68, pickBits roms [0, 1, 2, 3], pickBits asks linkFeatures⟩ } }

/-- A bring-up begun: what the next one meets is drawn, and of the Cuffs, which have all left reset, those whose ROM parity fails
are held (R300, R370 step 1). -/
def State.bootCuffs (s : State) : State :=
  let b := s.fl.boot
  let s := s.nextBoot
  b.roms.foldl holdCuff { s with fl := { s.fl with booting := false, cuffs := [] } }

/-- POWER_ON: the steps of R370, as the bring-up that `Fleus.boot` holds meets them. A step that fails holds the module in reset, and
its number and cause are reported. Step 2 reads the power cap of the boot configuration (R371); in step 5 the host link trains
without the features that it does not support (R363). -/
def powerOn (s : State) : Option State :=
  if s.up || s.lost then none
  else
    let b := s.fl.boot
    let s := s.bootCuffs
    match bringUpFault b with
    | some (k, c) => some (s.reply false (leBytes 1 (k.val + 1) ++ leBytes 1 c))
    | none =>
      let s := (tabulate id 0 4).foldl bringVeil s
      let s := (tabulate id 0 32).foldl (fun (s : State) p => s.setPort p { s.port p with state := 2, err := 0 }) s
      let s := enableQueues s
      some { s with up := true, fl := { s.fl with flit68 := b.flit68, refused := b.asks, cap := s.fl.bootCap } }

/-! ## Management commands (R372, R373) -/

/-- A command carried out. -/
def accept (s : State) : Option State := some (s.reply true [])
/-- A command refused: nothing else changes. -/
def refuse (s : State) : Option State := some (s.reply false [])

/-- Whether a launch runs. -/
def anyRuns (s : State) : Bool := s.launches.any fun (_, x) => x.live

/-- Whether a launch of a partition runs. -/
def partRuns (s : State) (part : Nat) : Bool := s.launches.any fun (_, x) => x.part == part && x.live

/-- The device identity, which the manual does not give: 32 bytes (log 18). -/
def identity : List Byte := tabulate Config.identityByte 0 32

/-- IDENTIFY. -/
def identify (s : State) : Option State := some (s.reply true identity)

/-- What the boot configuration of R371 holds, as numbers. -/
def Fleus.bootConfig (f : Fleus) : List Nat :=
  [f.calLimit, f.rebuild.toNat, f.bootCap, f.parts.length] ++ f.parts.flatMap (fun e => [e.1, e.2]) ++ f.queueSet

/-- An attestation report: 512 bytes that hold the device identity, the ROM hash, the boot-configuration hash, the reset count and
the nonce (R372; their places and lengths are DESIGN CHOICE, log 18). -/
def attestReport (s : State) (nonce : List Byte) : List Byte :=
  identity ++ tabulate Config.romHashByte 0 48 ++ tabulate (Config.bootHashByte s.fl.bootConfig) 0 48 ++ leBytes 8 s.fl.resets ++
    nonce ++ tabulate Config.reportByte 0 344

/-- ATTEST: the report, with its two signatures behind it. -/
def attest (s : State) (nonce : List Byte) : Option State :=
  if nonce.length = 32 then some (s.reply true (attestReport s nonce ++ Config.attestBytes (attestReport s nonce))) else refuse s

/-- SET_DEVNUM. -/
def setDevnum (s : State) (n : Nat) : Option State :=
  if 511 < n ∨ anyRuns s then refuse s else accept { s with devnum := n }

/-- SET_WINDOW given for a partition (R363, R364): a base and a size in steps of 1 GiB, at most 64 GiB of HBM4E. -/
def setWindow (s : State) (part base size : Nat) : Option State :=
  if base % 2 ^ 30 ≠ 0 ∨ size % 2 ^ 30 ≠ 0 ∨ 64 * 2 ^ 30 < size ∨ 0x00B400000000 < base + size ∨ partRuns s part then refuse s
  else accept { s with fl := { s.fl with window := (base, size) } }

/-- SET_EVENT_RING of a partition (R301, R373): the new ring starts at record 0. -/
def setEventRing (s : State) (part addr size : Nat) : Option State :=
  accept (flushEvents part (s.setRing part { s.ring part with addr := addr, size := size, eseq := 0 }) 257)

/-- SET_IDE_KEYS. -/
def setIdeKeys (s : State) (keys : List Byte) : Option State := accept { s with fl := { s.fl with keys := keys } }

/-- SET_CAP, in watts. -/
def setCap (s : State) (watts : Nat) : Option State :=
  if watts < 1500 ∨ 4400 < watts then refuse s else accept { s with fl := { s.fl with cap := watts } }

/-- TELEMETRY: the record, and behind it the wear words (R343, R375; that one command returns both is DESIGN CHOICE, log 46). -/
def telemetryCmd (s : State) : Option State :=
  some (s.reply true (s.fl.telemetry ++ s.fl.wear.flatMap fun w => leBytes 8 w.toNat))

/-- The counters from `lo` to `hi` set to 0 (R205). -/
def clearCounters (s : State) (lo hi : Nat) : State :=
  { s with ctrs := s.ctrs.filter fun e => !(decide (lo ≤ e.1) && decide (e.1 ≤ hi)) }

/-- RESET_PARTITION (R205, R330). -/
def resetPartition (s : State) (part lo hi : Nat) : Option State :=
  if hi < lo ∨ 65535 < hi then refuse s
  else
    let ls := (s.launches.filter fun (_, x) => x.part == part && x.phase != .complete).map Prod.fst
    accept (clearCounters (abortLaunches s ls) lo hi)

/-- The Fleus state that a module reset leaves: the boot configuration, its power cap in force again (R371), one more reset
counted. -/
def Fleus.afterReset (f : Fleus) : Fleus :=
  { Fleus.start with parts := f.parts, cap := f.bootCap, bootCap := f.bootCap, calLimit := f.calLimit, rebuild := f.rebuild
                     queueSet := f.queueSet, boot := f.boot, resets := f.resets + 1 }

/-- RESET_MODULE (R370): the machine is as after reset, and POWER_ON follows by itself. -/
def resetModule (s : State) : Option State :=
  some { State.reset with fl := s.fl.afterReset, fresh := s.fresh, uids := s.uids, lost := s.lost, agenda := s.agenda
                          ioNext := s.ioNext, ioEarly := s.ioEarly }

/-! ## Power (R374, R375) -/

/-- What the controller does when demand is above or below the cap: one action more, in the order of R374, or one less. The last
holds D-mode cores at their yield points. What spacing bursts costs is not stated: it is part of the free times (log 10). -/
def Fleus.throttle (f : Fleus) (above : Bool) : Fleus :=
  if above then
    if 4 < f.duty then { f with duty := f.duty - 1 }
    else if !f.spaced then { f with spaced := true }
    else if !f.halved then { f with halved := true }
    else { f with holdD := true }
  else
    if f.holdD then { f with holdD := false }
    else if f.halved then { f with halved := false }
    else if f.spaced then { f with spaced := false }
    else { f with duty := Nat.min 16 (f.duty + 1) }

/-- The powers of blocks under what is left of the cap: none above its demand, their sum not above the cap (R374, log 46). -/
def blockPowers (k left : Nat) : List Nat → List Nat
  | [] => []
  | d :: ds =>
    let p := Config.blockPower k % (Nat.min d left + 1)
    p :: blockPowers (k + 1) (left - p) ds

/-- POWER_SAMPLE, every 180,000 cycles (R374): the demands of the five blocks in watts and the four temperatures. The record is
refreshed (R375): a demand within the cap is met, and one above it is held at or below the cap. -/
def powerSample (s : State) (blocks temps : List (BitVec 16)) : Option State :=
  if !s.up || blocks.length != 5 || temps.length != 4 || decide (s.cyc < s.fl.sampleAt) then none
  else
    let ds := blocks.map BitVec.toNat
    let above := decide (s.fl.cap < ds.foldl Nat.add 0)
    let f := s.fl.throttle above
    let ps := if above then blockPowers s.fresh s.fl.cap ds else ds
    let row := leBytes 2 (ps.foldl Nat.add 0) ++ ps.flatMap (leBytes 2) ++ temps.flatMap (fun w => leBytes 2 w.toNat) ++ leBytes 1 f.duty ++
      leBytes 43 0
    some { s with fresh := s.fresh + 9, fl := { f with telemetry := row, sampleAt := s.cyc + 180000 } }

/-- The sample that comes due, where the environment says nothing of its demands: free values (log 46). -/
def dueSample (s : State) : Instr :=
  .powerSample (tabulate Config.powerDraw s.fresh 5) (tabulate Config.powerDraw (s.fresh + 5) 4)

/-- The reply that reports a loss. -/
def lossBytes : ModuleLoss → List Byte
  | .chiplet c => leBytes 1 0 ++ leBytes 1 c
  | .interposer => leBytes 1 1 ++ leBytes 1 0
  | .baseDie k => leBytes 1 2 ++ leBytes 1 k

/-- Whether the module has such a part. -/
def lossReal : ModuleLoss → Bool
  | .chiplet c => decide (c < 4)
  | .interposer => true
  | .baseDie k => decide (k < 16)

/-- CHIPLET_LOST: a chiplet, the interposer or a base die is gone (R353): every launch ends with TASK_FAULT, the loss is reported,
and the module with it. -/
def moduleLost (s : State) (what : ModuleLoss) : Option State :=
  if lossReal what then some { (abortLaunches s (openLaunches s)).reply false (lossBytes what) with lost := true } else none

end Sys2Proof.Machine
end

