-- ==== Sys2Proof/Machine/ExecManage.lean ====
section
/-! DEFINITION. The meanings of the host, the memory system and management: one definition for each row of the opcode table. -/

namespace Sys2Proof.Machine

/-- HOST_CXL_MEM_ACCESS (R212). -/
def execHostCxlMemAccess (off : Nat) (n : Nat) (write : Option (List Byte)) (s : State) : Host.Outcome State Fault Refusal :=
  answer (hostMemAccess s off n write)
/-- HOST_CXL_IO_WRITE (R212). -/
def execHostCxlIoWrite (addr : Nat) (data : List Byte) (order : PostOrder) (s : State) : Host.Outcome State Fault Refusal :=
  answer (hostIoWrite s order.n addr data order.relaxed)
/-- HEM_WRITEBACK (R182). -/
def execHemWriteback (chunk : Nat) (s : State) : Host.Outcome State Fault Refusal := answer (Machine.hemWriteback s chunk)
/-- WRITEBACK_ACK (R182). -/
def execWritebackAck (chunk : Nat) (parity : Bool) (s : State) : Host.Outcome State Fault Refusal :=
  answer (Machine.writebackAck s chunk parity)
/-- RECONSTRUCT_READ (R354). -/
def execReconstructRead (chunk : Nat) (s : State) : Host.Outcome State Fault Refusal := answer (Machine.reconstructRead s chunk)
/-- STACK_LOST (R354). -/
def execStackLost (stack : Nat) (s : State) : Host.Outcome State Fault Refusal := answer (Machine.stackLost s stack)
/-- STACK_REBUILD_STRIPE (R356). -/
def execStackRebuildStripe (stripe : Nat) (s : State) : Host.Outcome State Fault Refusal :=
  answer (Machine.stackRebuildStripe s stripe)
/-- REFRESH (R186). -/
def execRefresh (bank : Nat) (row : Nat) (s : State) : Host.Outcome State Fault Refusal := answer (refreshRow s bank row)
/-- REFRESH_INTERRUPT (R187). -/
def execRefreshInterrupt (bank : BankRows) (s : State) : Host.Outcome State Fault Refusal :=
  answer (Machine.refreshInterrupt s bank.bank bank.rows)
/-- PATROL_SCRUB (R342). -/
def execPatrolScrub (addr : Nat) (written : Bool) (s : State) : Host.Outcome State Fault Refusal :=
  answer (Machine.patrolScrub s addr written)
/-- WEAR_REFRESH (R343). -/
def execWearRefresh (words : List Word) (s : State) : Host.Outcome State Fault Refusal := answer (Machine.wearRefresh s words)
/-- POWER_SAMPLE (R374). -/
def execPowerSample (blocks : List (BitVec 16)) (temps : List (BitVec 16)) (s : State) : Host.Outcome State Fault Refusal :=
  answer (Machine.powerSample s blocks temps)
/-- POWER_ON (R370). -/
def execPowerOn (s : State) : Host.Outcome State Fault Refusal := answer (Machine.powerOn s)
/-- IDENTIFY (R373). -/
def execIdentify (s : State) : Host.Outcome State Fault Refusal := answer (Machine.identify s)
/-- ATTEST (R372). -/
def execAttest (nonce : List Byte) (s : State) : Host.Outcome State Fault Refusal := answer (Machine.attest s nonce)
/-- SET_DEVNUM (R373). -/
def execSetDevnum (n : Nat) (s : State) : Host.Outcome State Fault Refusal := answer (Machine.setDevnum s n)
/-- SET_WINDOW (R364). -/
def execSetWindow (base : RingPlace) (size : Nat) (s : State) : Host.Outcome State Fault Refusal :=
  answer (Machine.setWindow s base.part base.addr size)
/-- SET_EVENT_RING (R373). -/
def execSetEventRing (addr : RingPlace) (size : Nat) (s : State) : Host.Outcome State Fault Refusal :=
  answer (Machine.setEventRing s addr.part addr.addr size)
/-- SET_IDE_KEYS (R373). -/
def execSetIdeKeys (keys : List Byte) (s : State) : Host.Outcome State Fault Refusal := answer (Machine.setIdeKeys s keys)
/-- SET_CAP (R373). -/
def execSetCap (watts : Nat) (s : State) : Host.Outcome State Fault Refusal := answer (Machine.setCap s watts)
/-- TELEMETRY (R375). -/
def execTelemetry (s : State) : Host.Outcome State Fault Refusal := answer (telemetryCmd s)
/-- RESET_PARTITION (R373). -/
def execResetPartition (part : Nat) (lo : Nat) (hi : Nat) (s : State) : Host.Outcome State Fault Refusal :=
  answer (Machine.resetPartition s part lo hi)
/-- RESET_MODULE (R370). -/
def execResetModule (s : State) : Host.Outcome State Fault Refusal := answer (Machine.resetModule s)
/-- PORT_UP (R278). -/
def execPortUp (port : Nat) (s : State) : Host.Outcome State Fault Refusal := answer (Machine.portUp s port)
/-- CHIPLET_LOST (R353). -/
def execChipletLost (what : ModuleLoss) (s : State) : Host.Outcome State Fault Refusal := answer (Machine.moduleLost s what)
/-- SOFT_ERROR (R340). -/
def execSoftError (site : ErrorSite) (s : State) : Host.Outcome State Fault Refusal := answer (Machine.softError s site)
/-- DIE_TEMPERATURE_CHANGE (R256). -/
def execDieTemperatureChange (chiplet : Nat) (temp : Nat) (s : State) : Host.Outcome State Fault Refusal :=
  answer (if chiplet < 4 then some (temperature s chiplet temp) else none)
/-- PEER_MEMORY_ACCESS (R171). -/
def execPeerMemoryAccess (dev : Nat) (off : Nat) (n : Nat) (write : Option (List Byte)) (s : State) : Host.Outcome State Fault Refusal :=
  answer (peerAccess s dev off n write)

end Sys2Proof.Machine
end

