-- ==== Sys2Proof/Machine/ExecMatrix.lean ====
section
/-! DEFINITION. The meanings of the M slot and the array: one definition for each row of the opcode table. -/

namespace Sys2Proof.Machine

/-- MCFG (R103). -/
def execMcfg (a : SReg) (s : State) : Host.Outcome State Fault Refusal := issueOne .m (.mcfg a) s
/-- MSTEP (R152). -/
def execMstep (v : MVar) (tc : Tile) (ta : Tile) (tb : Tile) (s : State) : Host.Outcome State Fault Refusal :=
  issueOne .m (.mstep v tc ta tb) s
/-- MZERO (R154). -/
def execMzero (tc : Tile) (s : State) : Host.Outcome State Fault Refusal := issueOne .m (.mzero tc) s
/-- MFIN (R155). -/
def execMfin (f : Fmt) (td : Tile) (tc : Tile) (s : State) : Host.Outcome State Fault Refusal := issueOne .m (.mfin f td tc) s
/-- MTRN (R156). -/
def execMtrn (td : Tile) (ta : Tile) (s : State) : Host.Outcome State Fault Refusal := issueOne .m (.mtrn td ta) s
/-- MDUP (R157). -/
def execMdup (h : HReg) (s : State) : Host.Outcome State Fault Refusal := issueOne .m (.mdup h) s
/-- ARRAY_STEP_START (R106). -/
def execArrayStepStart (core : Nat) (s : State) : Host.Outcome State Fault Refusal := answer (stepBegin s core)
/-- ARRAY_STEP_WRITE (R124). -/
def execArrayStepWrite (core : Nat) (s : State) : Host.Outcome State Fault Refusal := answer (stepFinish s core)

end Sys2Proof.Machine
end

