-- ==== Sys2Proof/Machine/ExecScalar.lean ====
section
/-! DEFINITION. The meanings of bundles and the S slot: one definition for each row of the opcode table. -/

namespace Sys2Proof.Machine

/-- BUNDLE_ISSUE (R29). -/
def execBundleIssue (h : Header) (syls : List Word) (s : State) : Host.Outcome State Fault Refusal :=
  issue h (sylsOf (presentSlots h.present) syls) s
/-- NOP (R26). -/
def execNop (sl : Slot) (s : State) : Host.Outcome State Fault Refusal := issue (oneSlot sl) [⟨sl, ⟨true, 0⟩, .nop sl⟩] s
/-- ADD (R59). -/
def execAdd (d : SReg) (a : SReg) (b : SReg) (s : State) : Host.Outcome State Fault Refusal := issueOne .s (.add d a b) s
/-- SUB (R59). -/
def execSub (d : SReg) (a : SReg) (b : SReg) (s : State) : Host.Outcome State Fault Refusal := issueOne .s (.sub d a b) s
/-- AND (R59). -/
def execAnd (d : SReg) (a : SReg) (b : SReg) (s : State) : Host.Outcome State Fault Refusal := issueOne .s (.and d a b) s
/-- OR (R59). -/
def execOr (d : SReg) (a : SReg) (b : SReg) (s : State) : Host.Outcome State Fault Refusal := issueOne .s (.or d a b) s
/-- XOR (R59). -/
def execXor (d : SReg) (a : SReg) (b : SReg) (s : State) : Host.Outcome State Fault Refusal := issueOne .s (.xor d a b) s
/-- SHL (R59). -/
def execShl (d : SReg) (a : SReg) (b : SReg) (s : State) : Host.Outcome State Fault Refusal := issueOne .s (.shl d a b) s
/-- SHR (R59). -/
def execShr (d : SReg) (a : SReg) (b : SReg) (s : State) : Host.Outcome State Fault Refusal := issueOne .s (.shr d a b) s
/-- SRA (R59). -/
def execSra (d : SReg) (a : SReg) (b : SReg) (s : State) : Host.Outcome State Fault Refusal := issueOne .s (.sra d a b) s
/-- MUL (R59). -/
def execMul (d : SReg) (a : SReg) (b : SReg) (s : State) : Host.Outcome State Fault Refusal := issueOne .s (.mul d a b) s
/-- MULH (R59). -/
def execMulh (u : Bool) (d : SReg) (a : SReg) (b : SReg) (s : State) : Host.Outcome State Fault Refusal :=
  issueOne .s (.mulh u d a b) s
/-- DIV (R60). -/
def execDiv (u : Bool) (d : SReg) (a : SReg) (b : SReg) (s : State) : Host.Outcome State Fault Refusal :=
  issueOne .s (.div u d a b) s
/-- REM (R60). -/
def execRem (u : Bool) (d : SReg) (a : SReg) (b : SReg) (s : State) : Host.Outcome State Fault Refusal :=
  issueOne .s (.rem u d a b) s
/-- MIN (R59). -/
def execMin (u : Bool) (d : SReg) (a : SReg) (b : SReg) (s : State) : Host.Outcome State Fault Refusal :=
  issueOne .s (.min u d a b) s
/-- MAX (R59). -/
def execMax (u : Bool) (d : SReg) (a : SReg) (b : SReg) (s : State) : Host.Outcome State Fault Refusal :=
  issueOne .s (.max u d a b) s
/-- CLZ (R59). -/
def execClz (d : SReg) (a : SReg) (s : State) : Host.Outcome State Fault Refusal := issueOne .s (.clz d a) s
/-- POPC (R59). -/
def execPopc (d : SReg) (a : SReg) (s : State) : Host.Outcome State Fault Refusal := issueOne .s (.popc d a) s
/-- BEXT (R61). -/
def execBext (d : SReg) (a : SReg) (b : SReg) (s : State) : Host.Outcome State Fault Refusal := issueOne .s (.bext d a b) s
/-- BINS (R61). -/
def execBins (d : SReg) (a : SReg) (b : SReg) (s : State) : Host.Outcome State Fault Refusal := issueOne .s (.bins d a b) s
/-- LDIH (R63). -/
def execLdih (d : SReg) (imm : BitVec 19) (s : State) : Host.Outcome State Fault Refusal := issueOne .s (.ldih d imm) s
/-- ADDI (R62). -/
def execAddi (d : SReg) (a : SReg) (imm : BitVec 33) (s : State) : Host.Outcome State Fault Refusal := issueOne .s (.addi d a imm) s
/-- ANDI (R62). -/
def execAndi (d : SReg) (a : SReg) (imm : BitVec 33) (s : State) : Host.Outcome State Fault Refusal := issueOne .s (.andi d a imm) s
/-- ORI (R62). -/
def execOri (d : SReg) (a : SReg) (imm : BitVec 33) (s : State) : Host.Outcome State Fault Refusal := issueOne .s (.ori d a imm) s
/-- XORI (R62). -/
def execXori (d : SReg) (a : SReg) (imm : BitVec 33) (s : State) : Host.Outcome State Fault Refusal := issueOne .s (.xori d a imm) s
/-- SHLI (R62). -/
def execShli (d : SReg) (a : SReg) (n : BitVec 6) (s : State) : Host.Outcome State Fault Refusal := issueOne .s (.shli d a n) s
/-- SHRI (R62). -/
def execShri (d : SReg) (a : SReg) (n : BitVec 6) (s : State) : Host.Outcome State Fault Refusal := issueOne .s (.shri d a n) s
/-- SRAI (R62). -/
def execSrai (d : SReg) (a : SReg) (n : BitVec 6) (s : State) : Host.Outcome State Fault Refusal := issueOne .s (.srai d a n) s
/-- LDI (R63). -/
def execLdi (d : SReg) (imm : BitVec 45) (s : State) : Host.Outcome State Fault Refusal := issueOne .s (.ldi d imm) s
/-- CMP (R64). -/
def execCmp (cc : Cond) (d : PReg) (a : SReg) (b : SReg) (s : State) : Host.Outcome State Fault Refusal :=
  issueOne .s (.cmp cc d a b) s
/-- CMPI (R64). -/
def execCmpi (cc : Cond) (d : PReg) (a : SReg) (imm : BitVec 33) (s : State) : Host.Outcome State Fault Refusal :=
  issueOne .s (.cmpi cc d a imm) s
/-- SEL (R65). -/
def execSel (d : SReg) (a : SReg) (b : SReg) (p : PReg) (neg : Bool) (s : State) : Host.Outcome State Fault Refusal :=
  issueOne .s (.sel d a b p neg) s
/-- PLOG (R66). -/
def execPlog (op : LogOp) (d : PReg) (a : PReg) (b : PReg) (s : State) : Host.Outcome State Fault Refusal :=
  issueOne .s (.plog op d a b) s
/-- LD (R68). -/
def execLd (sz : MSize) (d : SReg) (a : SReg) (reuse : BitVec 3) (off : BitVec 33) (s : State) : Host.Outcome State Fault Refusal :=
  issueOne .s (.ld sz d a reuse off) s
/-- ST (R68). -/
def execSt (sz : MSize) (d : SReg) (a : SReg) (off : BitVec 33) (s : State) : Host.Outcome State Fault Refusal :=
  issueOne .s (.st sz d a off) s
/-- LDP (R68). -/
def execLdp (d : SReg) (a : SReg) (reuse : BitVec 3) (off : BitVec 33) (s : State) : Host.Outcome State Fault Refusal :=
  issueOne .s (.ldp d a reuse off) s
/-- STP (R68). -/
def execStp (d : SReg) (a : SReg) (off : BitVec 33) (s : State) : Host.Outcome State Fault Refusal := issueOne .s (.stp d a off) s
/-- LDC (R71). -/
def execLdc (sz : MSize) (d : SReg) (a : SReg) (off : BitVec 33) (s : State) : Host.Outcome State Fault Refusal :=
  issueOne .s (.ldc sz d a off) s
/-- BR (R73). -/
def execBr (disp : BitVec 32) (s : State) : Host.Outcome State Fault Refusal := issueOne .s (.br disp) s
/-- BRI (R73). -/
def execBri (a : SReg) (s : State) : Host.Outcome State Fault Refusal := issueOne .s (.bri a) s
/-- CALL (R73). -/
def execCall (disp : BitVec 32) (s : State) : Host.Outcome State Fault Refusal := issueOne .s (.call disp) s
/-- CALLI (R73). -/
def execCalli (a : SReg) (s : State) : Host.Outcome State Fault Refusal := issueOne .s (.calli a) s
/-- RET (R73). -/
def execRet (s : State) : Host.Outcome State Fault Refusal := issueOne .s .ret s
/-- LOOP (R74). -/
def execLoop (lvl : Bool) (disp : BitVec 20) (c : SReg) (s : State) : Host.Outcome State Fault Refusal :=
  issueOne .s (.loop lvl disp c) s
/-- LOOPI (R74). -/
def execLoopi (lvl : Bool) (disp : BitVec 20) (count : BitVec 30) (s : State) : Host.Outcome State Fault Refusal :=
  issueOne .s (.loopi lvl disp count) s
/-- MOVX (R77). -/
def execMovx (d : SReg) (x : BitVec 12) (s : State) : Host.Outcome State Fault Refusal := issueOne .s (.movx d x) s
/-- MOVXW (R77). -/
def execMovxw (x : BitVec 12) (a : SReg) (s : State) : Host.Outcome State Fault Refusal := issueOne .s (.movxw x a) s
/-- HMOV (R78). -/
def execHmov (h : HReg) (h2 : HReg) (s : State) : Host.Outcome State Fault Refusal := issueOne .s (.hmov h h2) s
/-- HGET (R78). -/
def execHget (d : SReg) (h : HReg) (w : BitVec 2) (s : State) : Host.Outcome State Fault Refusal := issueOne .s (.hget d h w) s
/-- HSET (R78). -/
def execHset (h : HReg) (w : BitVec 2) (a : SReg) (s : State) : Host.Outcome State Fault Refusal := issueOne .s (.hset h w a) s
/-- HADV (R78). -/
def execHadv (h : HReg) (dim : BitVec 2) (a : SReg) (s : State) : Host.Outcome State Fault Refusal := issueOne .s (.hadv h dim a) s
/-- TSHAPE (R79). -/
def execTshape (t : Tile) (fmt : Fmt) (rows : BitVec 6) (cols : BitVec 10) (s : State) : Host.Outcome State Fault Refusal :=
  issueOne .s (.tshape t fmt rows cols) s
/-- TIDW (R228). -/
def execTidw (h : HReg) (a : SReg) (s : State) : Host.Outcome State Fault Refusal := issueOne .s (.tidw h a) s
/-- TIDR (R229). -/
def execTidr (h : HReg) (a : SReg) (s : State) : Host.Outcome State Fault Refusal := issueOne .s (.tidr h a) s
/-- TIDI (R230). -/
def execTidi (a : SReg) (s : State) : Host.Outcome State Fault Refusal := issueOne .s (.tidi a) s
/-- AMO (R232). -/
def execAmo (op : AmoOp) (d : SReg) (a : SReg) (b : SReg) (s : State) : Host.Outcome State Fault Refusal :=
  issueOne .s (.amo op d a b) s
/-- CAS (R233). -/
def execCas (d : SReg) (a : SReg) (b : SReg) (s : State) : Host.Outcome State Fault Refusal := issueOne .s (.cas d a b) s
/-- CAS2 (R233). -/
def execCas2 (d : SReg) (a : SReg) (b : SReg) (s : State) : Host.Outcome State Fault Refusal := issueOne .s (.cas2 d a b) s
/-- TRAP (R80). -/
def execTrap (imm : BitVec 16) (s : State) : Host.Outcome State Fault Refusal := issueOne .s (.trap imm) s
/-- SYSC (R80). -/
def execSysc (imm : BitVec 16) (s : State) : Host.Outcome State Fault Refusal := issueOne .s (.sysc imm) s
/-- ERET (R321). -/
def execEret (s : State) : Host.Outcome State Fault Refusal := issueOne .s .eret s
/-- TLBI (R346). -/
def execTlbi (f : TlbiForm) (a : SReg) (s : State) : Host.Outcome State Fault Refusal := issueOne .s (.tlbi f a) s

end Sys2Proof.Machine
end

