-- ==== Sys2Proof/Machine/ExecTask.lean ====
section
/-! DEFINITION. The meanings of the K slot, waits and counters: one definition for each row of the opcode table. -/

namespace Sys2Proof.Machine

/-- SPAWN (R88). -/
def execSpawn (off : BitVec 3) (e : SReg) (c : SReg) (s : State) : Host.Outcome State Fault Refusal :=
  issueOne .k (.spawn off e c) s
/-- YIELD (R160). -/
def execYield (s : State) : Host.Outcome State Fault Refusal := issueOne .k .yield s
/-- END (R89). -/
def execEndTask (s : State) : Host.Outcome State Fault Refusal := issueOne .k .endTask s
/-- END_COMPLETE (R89). -/
def execEndComplete (core : Nat) (s : State) : Host.Outcome State Fault Refusal := answer (Machine.endComplete s core)
/-- BARG (R162). -/
def execBarg (sc : BScope) (s : State) : Host.Outcome State Fault Refusal := issueOne .k (.barg sc) s
/-- BARRIER_COMPLETE (R90). -/
def execBarrierComplete (lid : Nat) (sc : BScope) (group : Nat) (s : State) : Host.Outcome State Fault Refusal :=
  answer (Machine.barrierComplete s lid sc group)
/-- BARRIER_WAITER_RESUME (R91). -/
def execBarrierWaiterResume (core : Nat) (s : State) : Host.Outcome State Fault Refusal := answer (waiterResume s core)
/-- SLEEPT (R163). -/
def execSleept (t : SReg) (s : State) : Host.Outcome State Fault Refusal := issueOne .k (.sleept t) s
/-- SLEEPT_WAKE (R246). -/
def execSleeptWake (core : Nat) (s : State) : Host.Outcome State Fault Refusal := answer (waitMet s core WaitKind.isSleept)
/-- WAITO (R164). -/
def execWaito (l : BitVec 8) (n : BitVec 8) (c : BitVec 10) (t : BitVec 6) (s : State) : Host.Outcome State Fault Refusal :=
  issueOne .k (.waito l n c t) s
/-- WAITO_MET (R164). -/
def execWaitoMet (core : Nat) (s : State) : Host.Outcome State Fault Refusal := answer (waitMet s core WaitKind.isWaito)
/-- CADD (R234). -/
def execCadd (c : SReg) (v : SReg) (rel : Bool) (sc : Scope) (cls : BitVec 5) (s : State) : Host.Outcome State Fault Refusal :=
  issueOne .k (.cadd c v rel sc cls) s
/-- COUNTER_ADD_APPLY (R204). -/
def execCounterAddApply (i : Nat) (s : State) : Host.Outcome State Fault Refusal := answer (Machine.counterAddApply s i)
/-- CWAIT (R235). -/
def execCwait (c : SReg) (t : SReg) (acq : Bool) (sc : Scope) (s : State) : Host.Outcome State Fault Refusal :=
  issueOne .k (.cwait c t acq sc) s
/-- CWAIT_MET (R235). -/
def execCwaitMet (core : Nat) (s : State) : Host.Outcome State Fault Refusal := answer (waitMet s core WaitKind.isCwait)
/-- CREAD (R236). -/
def execCread (d : SReg) (c : SReg) (s : State) : Host.Outcome State Fault Refusal := issueOne .k (.cread d c) s
/-- WAITA (R237). -/
def execWaita (a : SReg) (v : SReg) (sc : Scope) (s : State) : Host.Outcome State Fault Refusal := issueOne .k (.waita a v sc) s
/-- WAITA_MET (R237). -/
def execWaitaMet (core : Nat) (s : State) : Host.Outcome State Fault Refusal := answer (waitMet s core WaitKind.isWaita)
/-- DRAIN (R238). -/
def execDrain (sc : Scope) (cls : BitVec 5) (s : State) : Host.Outcome State Fault Refusal := issueOne .k (.drain sc cls) s
/-- DRAIN_DONE (R207). -/
def execDrainDone (core : Nat) (s : State) : Host.Outcome State Fault Refusal := answer (waitMet s core WaitKind.isDrain)
/-- WAIT_TIMEOUT (R158). -/
def execWaitTimeout (core : Nat) (s : State) : Host.Outcome State Fault Refusal := answer (Machine.waitTimeout s core)
/-- LNCH (R281). -/
def execLnch (d : SReg) (cnt : SReg) (s : State) : Host.Outcome State Fault Refusal := issueOne .k (.lnch d cnt) s
/-- RLNCH (R282). -/
def execRlnch (w : BitVec 4) (cnt : SReg) (s : State) : Host.Outcome State Fault Refusal := issueOne .k (.rlnch w cnt) s
/-- TRARM (R283). -/
def execTrarm (w : BitVec 4) (l : SReg) (s : State) : Host.Outcome State Fault Refusal := issueOne .k (.trarm w l) s
/-- TRSTAT (R284). -/
def execTrstat (d : SReg) (w : BitVec 4) (s : State) : Host.Outcome State Fault Refusal := issueOne .k (.trstat d w) s
/-- CHK (R347). -/
def execChk (f : ChkForm) (s : State) : Host.Outcome State Fault Refusal := issueOne .k (.chk f) s
/-- KALU (R348). -/
def execKalu (d : SReg) (a : SReg) (src : KaluSrc) (s : State) : Host.Outcome State Fault Refusal := issueOne .k (.kalu d a src) s
/-- DIGR (R349). -/
def execDigr (launch : Bool) (d : SReg) (s : State) : Host.Outcome State Fault Refusal := issueOne .k (.digr launch d) s
/-- DIGX (R350). -/
def execDigx (launch : Bool) (a : SReg) (s : State) : Host.Outcome State Fault Refusal := issueOne .k (.digx launch a) s
/-- CTXS (R352). -/
def execCtxs (a : SReg) (s : State) : Host.Outcome State Fault Refusal := issueOne .k (.ctxs a) s
/-- CTXL (R352). -/
def execCtxl (a : SReg) (s : State) : Host.Outcome State Fault Refusal := issueOne .k (.ctxl a) s

end Sys2Proof.Machine
end

