-- ==== Sys2Proof/Machine/ExecVector.lean ====
section
/-! DEFINITION. The meanings of the V slots: one definition for each row of the opcode table. -/

namespace Sys2Proof.Machine

/-- VADD (R130). -/
def execVadd (sl : VSlot) (c : VCom) (d : RowRef) (a : RowRef) (b : RowRef) (s : State) : Host.Outcome State Fault Refusal :=
  issueOne (VSlot.slot sl) (.vadd sl c d a b) s
/-- VSUB (R130). -/
def execVsub (sl : VSlot) (c : VCom) (d : RowRef) (a : RowRef) (b : RowRef) (s : State) : Host.Outcome State Fault Refusal :=
  issueOne (VSlot.slot sl) (.vsub sl c d a b) s
/-- VMUL (R130). -/
def execVmul (sl : VSlot) (c : VCom) (d : RowRef) (a : RowRef) (b : RowRef) (s : State) : Host.Outcome State Fault Refusal :=
  issueOne (VSlot.slot sl) (.vmul sl c d a b) s
/-- VFMA (R130). -/
def execVfma (sl : VSlot) (c : VCom) (d : RowRef) (a : RowRef) (b : RowRef) (s : State) : Host.Outcome State Fault Refusal :=
  issueOne (VSlot.slot sl) (.vfma sl c d a b) s
/-- VFMS (R130). -/
def execVfms (sl : VSlot) (c : VCom) (d : RowRef) (a : RowRef) (b : RowRef) (s : State) : Host.Outcome State Fault Refusal :=
  issueOne (VSlot.slot sl) (.vfms sl c d a b) s
/-- VMIN (R130). -/
def execVmin (sl : VSlot) (c : VCom) (d : RowRef) (a : RowRef) (b : RowRef) (s : State) : Host.Outcome State Fault Refusal :=
  issueOne (VSlot.slot sl) (.vmin sl c d a b) s
/-- VMAX (R130). -/
def execVmax (sl : VSlot) (c : VCom) (d : RowRef) (a : RowRef) (b : RowRef) (s : State) : Host.Outcome State Fault Refusal :=
  issueOne (VSlot.slot sl) (.vmax sl c d a b) s
/-- VABS (R130). -/
def execVabs (sl : VSlot) (c : VCom) (d : RowRef) (a : RowRef) (s : State) : Host.Outcome State Fault Refusal :=
  issueOne (VSlot.slot sl) (.vabs sl c d a) s
/-- VNEG (R130). -/
def execVneg (sl : VSlot) (c : VCom) (d : RowRef) (a : RowRef) (s : State) : Host.Outcome State Fault Refusal :=
  issueOne (VSlot.slot sl) (.vneg sl c d a) s
/-- VRCP (R130). -/
def execVrcp (c : VCom) (d : RowRef) (a : RowRef) (s : State) : Host.Outcome State Fault Refusal := issueOne .v1 (.vrcp c d a) s
/-- VRSQ (R130). -/
def execVrsq (c : VCom) (d : RowRef) (a : RowRef) (s : State) : Host.Outcome State Fault Refusal := issueOne .v1 (.vrsq c d a) s
/-- VEXP2 (R130). -/
def execVexp2 (c : VCom) (d : RowRef) (a : RowRef) (s : State) : Host.Outcome State Fault Refusal := issueOne .v1 (.vexp2 c d a) s
/-- VLOG2 (R130). -/
def execVlog2 (c : VCom) (d : RowRef) (a : RowRef) (s : State) : Host.Outcome State Fault Refusal := issueOne .v1 (.vlog2 c d a) s
/-- VCMUL (R130). -/
def execVcmul (sl : VSlot) (c : VCom) (d : RowRef) (a : RowRef) (b : RowRef) (s : State) : Host.Outcome State Fault Refusal :=
  issueOne (VSlot.slot sl) (.vcmul sl c d a b) s
/-- VIADD (R132). -/
def execViadd (sl : VSlot) (c : VCom) (d : RowRef) (a : RowRef) (b : RowRef) (s : State) : Host.Outcome State Fault Refusal :=
  issueOne (VSlot.slot sl) (.viadd sl c d a b) s
/-- VISUB (R132). -/
def execVisub (sl : VSlot) (c : VCom) (d : RowRef) (a : RowRef) (b : RowRef) (s : State) : Host.Outcome State Fault Refusal :=
  issueOne (VSlot.slot sl) (.visub sl c d a b) s
/-- VIMUL (R132). -/
def execVimul (sl : VSlot) (c : VCom) (d : RowRef) (a : RowRef) (b : RowRef) (s : State) : Host.Outcome State Fault Refusal :=
  issueOne (VSlot.slot sl) (.vimul sl c d a b) s
/-- VAND (R132). -/
def execVand (sl : VSlot) (c : VCom) (d : RowRef) (a : RowRef) (b : RowRef) (s : State) : Host.Outcome State Fault Refusal :=
  issueOne (VSlot.slot sl) (.vand sl c d a b) s
/-- VOR (R132). -/
def execVor (sl : VSlot) (c : VCom) (d : RowRef) (a : RowRef) (b : RowRef) (s : State) : Host.Outcome State Fault Refusal :=
  issueOne (VSlot.slot sl) (.vor sl c d a b) s
/-- VXOR (R132). -/
def execVxor (sl : VSlot) (c : VCom) (d : RowRef) (a : RowRef) (b : RowRef) (s : State) : Host.Outcome State Fault Refusal :=
  issueOne (VSlot.slot sl) (.vxor sl c d a b) s
/-- VSHL (R132). -/
def execVshl (sl : VSlot) (c : VCom) (d : RowRef) (a : RowRef) (b : RowRef) (s : State) : Host.Outcome State Fault Refusal :=
  issueOne (VSlot.slot sl) (.vshl sl c d a b) s
/-- VSHR (R132). -/
def execVshr (sl : VSlot) (c : VCom) (d : RowRef) (a : RowRef) (b : RowRef) (s : State) : Host.Outcome State Fault Refusal :=
  issueOne (VSlot.slot sl) (.vshr sl c d a b) s
/-- VSRA (R132). -/
def execVsra (sl : VSlot) (c : VCom) (d : RowRef) (a : RowRef) (b : RowRef) (s : State) : Host.Outcome State Fault Refusal :=
  issueOne (VSlot.slot sl) (.vsra sl c d a b) s
/-- VCMP (R133). -/
def execVcmp (sl : VSlot) (c : VCom) (cc : FCond) (d : PReg) (a : RowRef) (b : RowRef) (s : State) : Host.Outcome State Fault Refusal :=
  issueOne (VSlot.slot sl) (.vcmp sl c cc d a b) s
/-- VICMP (R133). -/
def execVicmp (sl : VSlot) (c : VCom) (cc : Cond) (d : PReg) (a : RowRef) (b : RowRef) (s : State) : Host.Outcome State Fault Refusal :=
  issueOne (VSlot.slot sl) (.vicmp sl c cc d a b) s
/-- VSEL (R134). -/
def execVsel (sl : VSlot) (c : VCom) (d : RowRef) (a : RowRef) (b : RowRef) (s : State) : Host.Outcome State Fault Refusal :=
  issueOne (VSlot.slot sl) (.vsel sl c d a b) s
/-- VPLEN (R135). -/
def execVplen (sl : VSlot) (c : VCom) (d : PReg) (n : SReg) (s : State) : Host.Outcome State Fault Refusal :=
  issueOne (VSlot.slot sl) (.vplen sl c d n) s
/-- VPLOG (R136). -/
def execVplog (sl : VSlot) (c : VCom) (op : LogOp) (d : PReg) (a : PReg) (b : PReg) (s : State) : Host.Outcome State Fault Refusal :=
  issueOne (VSlot.slot sl) (.vplog sl c op d a b) s
/-- VMOV (R137). -/
def execVmov (sl : VSlot) (c : VCom) (d : RowRef) (a : RowRef) (s : State) : Host.Outcome State Fault Refusal :=
  issueOne (VSlot.slot sl) (.vmov sl c d a) s
/-- VBC (R137). -/
def execVbc (sl : VSlot) (c : VCom) (d : RowRef) (n : SReg) (s : State) : Host.Outcome State Fault Refusal :=
  issueOne (VSlot.slot sl) (.vbc sl c d n) s
/-- VRED (R138). -/
def execVred (sl : VSlot) (c : VCom) (op : RedOp) (d : RowRef) (a : RowRef) (s : State) : Host.Outcome State Fault Refusal :=
  issueOne (VSlot.slot sl) (.vred sl c op d a) s
/-- VPERM (R139). -/
def execVperm (sl : VSlot) (c : VCom) (d : RowRef) (a : RowRef) (b : RowRef) (s : State) : Host.Outcome State Fault Refusal :=
  issueOne (VSlot.slot sl) (.vperm sl c d a b) s
/-- VROT (R139). -/
def execVrot (sl : VSlot) (c : VCom) (d : RowRef) (a : RowRef) (n : SReg) (s : State) : Host.Outcome State Fault Refusal :=
  issueOne (VSlot.slot sl) (.vrot sl c d a n) s
/-- VCVT (R140). -/
def execVcvt (sl : VSlot) (c : VCom) (d : RowRef) (a : RowRef) (src : Fmt) (part : BitVec 3) (s : State) : Host.Outcome State Fault Refusal :=
  issueOne (VSlot.slot sl) (.vcvt sl c d a src part) s
/-- VQNT (R141). -/
def execVqnt (sl : VSlot) (c : VCom) (stat : Bool) (d : RowRef) (a : RowRef) (src : Fmt) (s : State) : Host.Outcome State Fault Refusal :=
  issueOne (VSlot.slot sl) (.vqnt sl c stat d a src) s
/-- VDQ (R142). -/
def execVdq (sl : VSlot) (c : VCom) (d : RowRef) (a : RowRef) (src : Fmt) (s : State) : Host.Outcome State Fault Refusal :=
  issueOne (VSlot.slot sl) (.vdq sl c d a src) s
/-- VAMAX (R143). -/
def execVamax (sl : VSlot) (c : VCom) (d : RowRef) (a : RowRef) (s : State) : Host.Outcome State Fault Refusal :=
  issueOne (VSlot.slot sl) (.vamax sl c d a) s
/-- VSPLIT (R144). -/
def execVsplit (sl : VSlot) (c : VCom) (d : RowRef) (a : RowRef) (b : RowRef) (s : State) : Host.Outcome State Fault Refusal :=
  issueOne (VSlot.slot sl) (.vsplit sl c d a b) s
/-- VSNAP (R145). -/
def execVsnap (sl : VSlot) (c : VCom) (d : RowRef) (a : RowRef) (n : SReg) (s : State) : Host.Outcome State Fault Refusal :=
  issueOne (VSlot.slot sl) (.vsnap sl c d a n) s
/-- VLD (R148). -/
def execVld (f : VMemF) (reuse : BitVec 3) (s : State) : Host.Outcome State Fault Refusal := issueOne .v0 (.vld f reuse) s
/-- VST (R148). -/
def execVst (f : VMemF) (s : State) : Host.Outcome State Fault Refusal := issueOne .v0 (.vst f) s
/-- VLDS (R148). -/
def execVlds (f : VMemF) (ty : Fmt) (reuse : BitVec 3) (s : State) : Host.Outcome State Fault Refusal :=
  issueOne .v0 (.vlds f ty reuse) s

end Sys2Proof.Machine
end

