-- ==== Sys2Proof/Machine/ExecVeil.lean ====
section
/-! DEFINITION. The meanings of the O slot and the Veil engines: one definition for each row of the opcode table. -/

namespace Sys2Proof.Machine

/-- OMODE (R267). -/
def execOmode (ap : Aperture) (rec : Recovery) (s : State) : Host.Outcome State Fault Refusal := issueOne .o (.omode ap rec) s
/-- OMASK (R268). -/
def execOmask (h : HReg) (e : PrmCnt) (s : State) : Host.Outcome State Fault Refusal := issueOne .o (.omask h e) s
/-- OFT (R269). -/
def execOft (hd : HReg) (hs : HReg) (x : SReg) (e : PrmCnt) (logn : BitVec 4) (s : State) : Host.Outcome State Fault Refusal :=
  issueOne .o (.oft hd hs x e logn) s
/-- OIFT (R269). -/
def execOift (hd : HReg) (hs : HReg) (x : SReg) (e : PrmCnt) (logn : BitVec 4) (s : State) : Host.Outcome State Fault Refusal :=
  issueOne .o (.oift hd hs x e logn) s
/-- OCONV (R269). -/
def execOconv (hd : HReg) (hs : HReg) (x : SReg) (e : PrmCnt) (logn : BitVec 4) (s : State) : Host.Outcome State Fault Refusal :=
  issueOne .o (.oconv hd hs x e logn) s
/-- OCAL (R270). -/
def execOcal (e : PrmCnt) (s : State) : Host.Outcome State Fault Refusal := issueOne .o (.ocal e) s
/-- OSTAT (R271). -/
def execOstat (d : SReg) (r : OReg) (s : State) : Host.Outcome State Fault Refusal := issueOne .o (.ostat d r) s
/-- VEIL_SHOT (R258). -/
def execVeilShot (chiplet : Nat) (s : State) : Host.Outcome State Fault Refusal := answer (Machine.veilShot s chiplet)
/-- VEIL_FRAMES_WRITTEN (R258). -/
def execVeilFramesWritten (chiplet : Nat) (s : State) : Host.Outcome State Fault Refusal :=
  answer (Machine.veilFramesWritten s chiplet)
/-- VEIL_MASK_LOADED (R258). -/
def execVeilMaskLoaded (chiplet : Nat) (s : State) : Host.Outcome State Fault Refusal := answer (Machine.veilMaskLoaded s chiplet)
/-- VEIL_CAL_COMPLETE (R257). -/
def execVeilCalComplete (chiplet : Nat) (s : State) : Host.Outcome State Fault Refusal := answer (Machine.veilCalComplete s chiplet)
/-- VEIL_WINDOW_START (R260). -/
def execVeilWindowStart (chiplet : Nat) (s : State) : Host.Outcome State Fault Refusal := answer (Machine.veilWindowStart s chiplet)
/-- VEIL_CAL_SLOT_START (R260). -/
def execVeilCalSlotStart (chiplet : Nat) (s : State) : Host.Outcome State Fault Refusal :=
  answer (Machine.veilCalSlotStart s chiplet)
/-- CALIBRATION_STALE (R256). -/
def execCalibrationStale (chiplet : Nat) (s : State) : Host.Outcome State Fault Refusal :=
  answer (Machine.calibrationStale s chiplet)

end Sys2Proof.Machine
end

