-- ==== Sys2Proof/Machine/Dispatch.lean ====
section
/-! DEFINITION. The dispatch of every operation and event to its meaning. -/

namespace Sys2Proof.Machine

def exec (i : Instr) (s : State) : Host.Outcome State Fault Refusal :=
  match i with
  | .bundleIssue h syls => Sys2Proof.Machine.execBundleIssue h syls s
  | .nop sl => Sys2Proof.Machine.execNop sl s
  | .add d a b => Sys2Proof.Machine.execAdd d a b s
  | .sub d a b => Sys2Proof.Machine.execSub d a b s
  | .and d a b => Sys2Proof.Machine.execAnd d a b s
  | .or d a b => Sys2Proof.Machine.execOr d a b s
  | .xor d a b => Sys2Proof.Machine.execXor d a b s
  | .shl d a b => Sys2Proof.Machine.execShl d a b s
  | .shr d a b => Sys2Proof.Machine.execShr d a b s
  | .sra d a b => Sys2Proof.Machine.execSra d a b s
  | .mul d a b => Sys2Proof.Machine.execMul d a b s
  | .mulh u d a b => Sys2Proof.Machine.execMulh u d a b s
  | .div u d a b => Sys2Proof.Machine.execDiv u d a b s
  | .rem u d a b => Sys2Proof.Machine.execRem u d a b s
  | .min u d a b => Sys2Proof.Machine.execMin u d a b s
  | .max u d a b => Sys2Proof.Machine.execMax u d a b s
  | .clz d a => Sys2Proof.Machine.execClz d a s
  | .popc d a => Sys2Proof.Machine.execPopc d a s
  | .bext d a b => Sys2Proof.Machine.execBext d a b s
  | .bins d a b => Sys2Proof.Machine.execBins d a b s
  | .ldih d imm => Sys2Proof.Machine.execLdih d imm s
  | .addi d a imm => Sys2Proof.Machine.execAddi d a imm s
  | .andi d a imm => Sys2Proof.Machine.execAndi d a imm s
  | .ori d a imm => Sys2Proof.Machine.execOri d a imm s
  | .xori d a imm => Sys2Proof.Machine.execXori d a imm s
  | .shli d a n => Sys2Proof.Machine.execShli d a n s
  | .shri d a n => Sys2Proof.Machine.execShri d a n s
  | .srai d a n => Sys2Proof.Machine.execSrai d a n s
  | .ldi d imm => Sys2Proof.Machine.execLdi d imm s
  | .cmp cc d a b => Sys2Proof.Machine.execCmp cc d a b s
  | .cmpi cc d a imm => Sys2Proof.Machine.execCmpi cc d a imm s
  | .sel d a b p neg => Sys2Proof.Machine.execSel d a b p neg s
  | .plog op d a b => Sys2Proof.Machine.execPlog op d a b s
  | .ld sz d a reuse off => Sys2Proof.Machine.execLd sz d a reuse off s
  | .st sz d a off => Sys2Proof.Machine.execSt sz d a off s
  | .ldp d a reuse off => Sys2Proof.Machine.execLdp d a reuse off s
  | .stp d a off => Sys2Proof.Machine.execStp d a off s
  | .ldc sz d a off => Sys2Proof.Machine.execLdc sz d a off s
  | .br disp => Sys2Proof.Machine.execBr disp s
  | .bri a => Sys2Proof.Machine.execBri a s
  | .call disp => Sys2Proof.Machine.execCall disp s
  | .calli a => Sys2Proof.Machine.execCalli a s
  | .ret => Sys2Proof.Machine.execRet s
  | .loop lvl disp c => Sys2Proof.Machine.execLoop lvl disp c s
  | .loopi lvl disp count => Sys2Proof.Machine.execLoopi lvl disp count s
  | .movx d x => Sys2Proof.Machine.execMovx d x s
  | .movxw x a => Sys2Proof.Machine.execMovxw x a s
  | .hmov h h2 => Sys2Proof.Machine.execHmov h h2 s
  | .hget d h w => Sys2Proof.Machine.execHget d h w s
  | .hset h w a => Sys2Proof.Machine.execHset h w a s
  | .hadv h dim a => Sys2Proof.Machine.execHadv h dim a s
  | .tshape t fmt rows cols => Sys2Proof.Machine.execTshape t fmt rows cols s
  | .tidw h a => Sys2Proof.Machine.execTidw h a s
  | .tidr h a => Sys2Proof.Machine.execTidr h a s
  | .tidi a => Sys2Proof.Machine.execTidi a s
  | .amo op d a b => Sys2Proof.Machine.execAmo op d a b s
  | .cas d a b => Sys2Proof.Machine.execCas d a b s
  | .cas2 d a b => Sys2Proof.Machine.execCas2 d a b s
  | .trap imm => Sys2Proof.Machine.execTrap imm s
  | .sysc imm => Sys2Proof.Machine.execSysc imm s
  | .eret => Sys2Proof.Machine.execEret s
  | .tlbi f a => Sys2Proof.Machine.execTlbi f a s
  | .vadd sl c d a b => Sys2Proof.Machine.execVadd sl c d a b s
  | .vsub sl c d a b => Sys2Proof.Machine.execVsub sl c d a b s
  | .vmul sl c d a b => Sys2Proof.Machine.execVmul sl c d a b s
  | .vfma sl c d a b => Sys2Proof.Machine.execVfma sl c d a b s
  | .vfms sl c d a b => Sys2Proof.Machine.execVfms sl c d a b s
  | .vmin sl c d a b => Sys2Proof.Machine.execVmin sl c d a b s
  | .vmax sl c d a b => Sys2Proof.Machine.execVmax sl c d a b s
  | .vabs sl c d a => Sys2Proof.Machine.execVabs sl c d a s
  | .vneg sl c d a => Sys2Proof.Machine.execVneg sl c d a s
  | .vrcp c d a => Sys2Proof.Machine.execVrcp c d a s
  | .vrsq c d a => Sys2Proof.Machine.execVrsq c d a s
  | .vexp2 c d a => Sys2Proof.Machine.execVexp2 c d a s
  | .vlog2 c d a => Sys2Proof.Machine.execVlog2 c d a s
  | .vcmul sl c d a b => Sys2Proof.Machine.execVcmul sl c d a b s
  | .viadd sl c d a b => Sys2Proof.Machine.execViadd sl c d a b s
  | .visub sl c d a b => Sys2Proof.Machine.execVisub sl c d a b s
  | .vimul sl c d a b => Sys2Proof.Machine.execVimul sl c d a b s
  | .vand sl c d a b => Sys2Proof.Machine.execVand sl c d a b s
  | .vor sl c d a b => Sys2Proof.Machine.execVor sl c d a b s
  | .vxor sl c d a b => Sys2Proof.Machine.execVxor sl c d a b s
  | .vshl sl c d a b => Sys2Proof.Machine.execVshl sl c d a b s
  | .vshr sl c d a b => Sys2Proof.Machine.execVshr sl c d a b s
  | .vsra sl c d a b => Sys2Proof.Machine.execVsra sl c d a b s
  | .vcmp sl c cc d a b => Sys2Proof.Machine.execVcmp sl c cc d a b s
  | .vicmp sl c cc d a b => Sys2Proof.Machine.execVicmp sl c cc d a b s
  | .vsel sl c d a b => Sys2Proof.Machine.execVsel sl c d a b s
  | .vplen sl c d n => Sys2Proof.Machine.execVplen sl c d n s
  | .vplog sl c op d a b => Sys2Proof.Machine.execVplog sl c op d a b s
  | .vmov sl c d a => Sys2Proof.Machine.execVmov sl c d a s
  | .vbc sl c d n => Sys2Proof.Machine.execVbc sl c d n s
  | .vred sl c op d a => Sys2Proof.Machine.execVred sl c op d a s
  | .vperm sl c d a b => Sys2Proof.Machine.execVperm sl c d a b s
  | .vrot sl c d a n => Sys2Proof.Machine.execVrot sl c d a n s
  | .vcvt sl c d a src part => Sys2Proof.Machine.execVcvt sl c d a src part s
  | .vqnt sl c stat d a src => Sys2Proof.Machine.execVqnt sl c stat d a src s
  | .vdq sl c d a src => Sys2Proof.Machine.execVdq sl c d a src s
  | .vamax sl c d a => Sys2Proof.Machine.execVamax sl c d a s
  | .vsplit sl c d a b => Sys2Proof.Machine.execVsplit sl c d a b s
  | .vsnap sl c d a n => Sys2Proof.Machine.execVsnap sl c d a n s
  | .vld f reuse => Sys2Proof.Machine.execVld f reuse s
  | .vst f => Sys2Proof.Machine.execVst f s
  | .vlds f ty reuse => Sys2Proof.Machine.execVlds f ty reuse s
  | .mcfg a => Sys2Proof.Machine.execMcfg a s
  | .mstep v tc ta tb => Sys2Proof.Machine.execMstep v tc ta tb s
  | .mzero tc => Sys2Proof.Machine.execMzero tc s
  | .mfin f td tc => Sys2Proof.Machine.execMfin f td tc s
  | .mtrn td ta => Sys2Proof.Machine.execMtrn td ta s
  | .mdup h => Sys2Proof.Machine.execMdup h s
  | .arrayStepStart core => Sys2Proof.Machine.execArrayStepStart core s
  | .arrayStepWrite core => Sys2Proof.Machine.execArrayStepWrite core s
  | .cpy sl hd hs e st => Sys2Proof.Machine.execCpy sl hd hs e st s
  | .cpyq sl stat hd hs e st => Sys2Proof.Machine.execCpyq sl stat hd hs e st s
  | .cpyd sl hd hs e st => Sys2Proof.Machine.execCpyd sl hd hs e st s
  | .cpyr sl op hd hs e st => Sys2Proof.Machine.execCpyr sl op hd hs e st s
  | .cfill sl hd e step sdim => Sys2Proof.Machine.execCfill sl hd e step sdim s
  | .cgat sl hd hs hx e st => Sys2Proof.Machine.execCgat sl hd hs hx e st s
  | .csct sl hd hs hx e st => Sys2Proof.Machine.execCsct sl hd hs hx e st s
  | .wopen sl hw hv e => Sys2Proof.Machine.execWopen sl hw hv e s
  | .wadv sl hw k e => Sys2Proof.Machine.execWadv sl hw k e s
  | .wclose sl hw cnt => Sys2Proof.Machine.execWclose sl hw cnt s
  | .cpref sl hs cnt step sdim => Sys2Proof.Machine.execCpref sl hs cnt step sdim s
  | .cflush sl hs cnt step sdim => Sys2Proof.Machine.execCflush sl hs cnt step sdim s
  | .fpush sl t r n1 bank cnt => Sys2Proof.Machine.execFpush sl t r n1 bank cnt s
  | .fpop sl t r n1 bank cnt => Sys2Proof.Machine.execFpop sl t r n1 bank cnt s
  | .cbank sl bank mode => Sys2Proof.Machine.execCbank sl bank mode s
  | .copyOpStart core sl => Sys2Proof.Machine.execCopyOpStart core sl s
  | .nocSlotSend core sl => Sys2Proof.Machine.execNocSlotSend core sl s
  | .copyOpComplete core sl => Sys2Proof.Machine.execCopyOpComplete core sl s
  | .copyPageResume core sl => Sys2Proof.Machine.execCopyPageResume core sl s
  | .omode ap rec => Sys2Proof.Machine.execOmode ap rec s
  | .omask h e => Sys2Proof.Machine.execOmask h e s
  | .oft hd hs x e logn => Sys2Proof.Machine.execOft hd hs x e logn s
  | .oift hd hs x e logn => Sys2Proof.Machine.execOift hd hs x e logn s
  | .oconv hd hs x e logn => Sys2Proof.Machine.execOconv hd hs x e logn s
  | .ocal e => Sys2Proof.Machine.execOcal e s
  | .ostat d r => Sys2Proof.Machine.execOstat d r s
  | .veilShot chiplet => Sys2Proof.Machine.execVeilShot chiplet s
  | .veilFramesWritten chiplet => Sys2Proof.Machine.execVeilFramesWritten chiplet s
  | .veilMaskLoaded chiplet => Sys2Proof.Machine.execVeilMaskLoaded chiplet s
  | .veilCalComplete chiplet => Sys2Proof.Machine.execVeilCalComplete chiplet s
  | .veilWindowStart chiplet => Sys2Proof.Machine.execVeilWindowStart chiplet s
  | .veilCalSlotStart chiplet => Sys2Proof.Machine.execVeilCalSlotStart chiplet s
  | .calibrationStale chiplet => Sys2Proof.Machine.execCalibrationStale chiplet s
  | .lsend port h e => Sys2Proof.Machine.execLsend port h e s
  | .lrecv port h e => Sys2Proof.Machine.execLrecv port h e s
  | .lradd i32 port a l e => Sys2Proof.Machine.execLradd i32 port a l e s
  | .lqadd port a l e => Sys2Proof.Machine.execLqadd port a l e s
  | .ltmo port t => Sys2Proof.Machine.execLtmo port t s
  | .lring a => Sys2Proof.Machine.execLring a s
  | .lstat d port => Sys2Proof.Machine.execLstat d port s
  | .lcadd dev c v => Sys2Proof.Machine.execLcadd dev c v s
  | .linkMatch recv => Sys2Proof.Machine.execLinkMatch recv s
  | .linkMessageArrival port src dtag data => Sys2Proof.Machine.execLinkMessageArrival port src dtag data s
  | .linkOpComplete op => Sys2Proof.Machine.execLinkOpComplete op s
  | .remoteCounterAdd ctr val => Sys2Proof.Machine.execRemoteCounterAdd ctr val s
  | .linkTimeout op => Sys2Proof.Machine.execLinkTimeout op s
  | .portDown port => Sys2Proof.Machine.execPortDown port s
  | .portLanesLost port => Sys2Proof.Machine.execPortLanesLost port s
  | .flitRetry port => Sys2Proof.Machine.execFlitRetry port s
  | .spawn off e c => Sys2Proof.Machine.execSpawn off e c s
  | .yield => Sys2Proof.Machine.execYield s
  | .endTask => Sys2Proof.Machine.execEndTask s
  | .endComplete core => Sys2Proof.Machine.execEndComplete core s
  | .barg sc => Sys2Proof.Machine.execBarg sc s
  | .barrierComplete lid sc group => Sys2Proof.Machine.execBarrierComplete lid sc group s
  | .barrierWaiterResume core => Sys2Proof.Machine.execBarrierWaiterResume core s
  | .sleept t => Sys2Proof.Machine.execSleept t s
  | .sleeptWake core => Sys2Proof.Machine.execSleeptWake core s
  | .waito l n c t => Sys2Proof.Machine.execWaito l n c t s
  | .waitoMet core => Sys2Proof.Machine.execWaitoMet core s
  | .cadd c v rel sc cls => Sys2Proof.Machine.execCadd c v rel sc cls s
  | .counterAddApply j => Sys2Proof.Machine.execCounterAddApply j s
  | .cwait c t acq sc => Sys2Proof.Machine.execCwait c t acq sc s
  | .cwaitMet core => Sys2Proof.Machine.execCwaitMet core s
  | .cread d c => Sys2Proof.Machine.execCread d c s
  | .waita a v sc => Sys2Proof.Machine.execWaita a v sc s
  | .waitaMet core => Sys2Proof.Machine.execWaitaMet core s
  | .drain sc cls => Sys2Proof.Machine.execDrain sc cls s
  | .drainDone core => Sys2Proof.Machine.execDrainDone core s
  | .waitTimeout core => Sys2Proof.Machine.execWaitTimeout core s
  | .lnch d cnt => Sys2Proof.Machine.execLnch d cnt s
  | .rlnch w cnt => Sys2Proof.Machine.execRlnch w cnt s
  | .trarm w l => Sys2Proof.Machine.execTrarm w l s
  | .trstat d w => Sys2Proof.Machine.execTrstat d w s
  | .chk f => Sys2Proof.Machine.execChk f s
  | .kalu d a src => Sys2Proof.Machine.execKalu d a src s
  | .digr launch d => Sys2Proof.Machine.execDigr launch d s
  | .digx launch a => Sys2Proof.Machine.execDigx launch a s
  | .ctxs a => Sys2Proof.Machine.execCtxs a s
  | .ctxl a => Sys2Proof.Machine.execCtxl a s
  | .exposedResultLand core => Sys2Proof.Machine.execExposedResultLand core s
  | .pendingResultLand core j => Sys2Proof.Machine.execPendingResultLand core j s
  | .atomicPerform core j => Sys2Proof.Machine.execAtomicPerform core j s
  | .storePerform core => Sys2Proof.Machine.execStorePerform core s
  | .pageWalkComplete core va => Sys2Proof.Machine.execPageWalkComplete core va s
  | .tlbiRemovalComplete core => Sys2Proof.Machine.execTlbiRemovalComplete core s
  | .watchBindComplete core => Sys2Proof.Machine.execWatchBindComplete core s
  | .asyncFaultReport core cause info => Sys2Proof.Machine.execAsyncFaultReport core cause info s
  | .asyncFaultDelivery core => Sys2Proof.Machine.execAsyncFaultDelivery core s
  | .yieldOverrun core => Sys2Proof.Machine.execYieldOverrun core s
  | .fifoRelief cluster => Sys2Proof.Machine.execFifoRelief cluster s
  | .launchStart lid ptb spill tables => Sys2Proof.Machine.execLaunchStart lid ptb spill tables s
  | .taskStart core => Sys2Proof.Machine.execTaskStart core s
  | .segLoadComplete core => Sys2Proof.Machine.execSegLoadComplete core s
  | .relaunchAccept w => Sys2Proof.Machine.execRelaunchAccept w s
  | .relaunchTaskAdd w tix by_ => Sys2Proof.Machine.execRelaunchTaskAdd w tix by_ s
  | .launchReexecute lid => Sys2Proof.Machine.execLaunchReexecute lid s
  | .cuffPoll q => Sys2Proof.Machine.execCuffPoll q s
  | .packetDispatch cuff => Sys2Proof.Machine.execPacketDispatch cuff s
  | .packetCompletion p => Sys2Proof.Machine.execPacketCompletion p s
  | .launch p desc ctr => Sys2Proof.Machine.execLaunch p desc ctr s
  | .relaunch p w ctr => Sys2Proof.Machine.execRelaunch p w ctr s
  | .copy p src dst len => Sys2Proof.Machine.execCopy p src dst len s
  | .fill p dst len pat => Sys2Proof.Machine.execFill p dst len pat s
  | .counterAdd p ctr val => Sys2Proof.Machine.execCounterAdd p ctr val s
  | .counterWait p ctr thr => Sys2Proof.Machine.execCounterWait p ctr thr s
  | .traceArm p w lid => Sys2Proof.Machine.execTraceArm p w lid s
  | .veilCal p mask => Sys2Proof.Machine.execVeilCal p mask s
  | .query p item chiplet ans lid => Sys2Proof.Machine.execQuery p item chiplet ans lid s
  | .tidWrite p rec chiplet cluster id => Sys2Proof.Machine.execTidWrite p rec chiplet cluster id s
  | .queueCtlEnable p target => Sys2Proof.Machine.execQueueCtlEnable p target s
  | .queueCtlDisable p target => Sys2Proof.Machine.execQueueCtlDisable p target s
  | .queueCtlRehome p target home => Sys2Proof.Machine.execQueueCtlRehome p target home s
  | .queueCtlClear p target => Sys2Proof.Machine.execQueueCtlClear p target s
  | .nopPacket p => Sys2Proof.Machine.execNopPacket p s
  | .qtail q v => Sys2Proof.Machine.execQtail q v s
  | .registerWrite off v => Sys2Proof.Machine.execRegisterWrite off v s
  | .cuffRomParity cuff => Sys2Proof.Machine.execCuffRomParity cuff s
  | .cuffTableEcc cuff queues => Sys2Proof.Machine.execCuffTableEcc cuff queues s
  | .hostCxlMemAccess off n write => Sys2Proof.Machine.execHostCxlMemAccess off n write s
  | .hostCxlIoWrite addr data order => Sys2Proof.Machine.execHostCxlIoWrite addr data order s
  | .hemWriteback chunk => Sys2Proof.Machine.execHemWriteback chunk s
  | .writebackAck chunk parity => Sys2Proof.Machine.execWritebackAck chunk parity s
  | .reconstructRead chunk => Sys2Proof.Machine.execReconstructRead chunk s
  | .stackLost stack => Sys2Proof.Machine.execStackLost stack s
  | .stackRebuildStripe stripe => Sys2Proof.Machine.execStackRebuildStripe stripe s
  | .refresh bank row => Sys2Proof.Machine.execRefresh bank row s
  | .refreshInterrupt bank => Sys2Proof.Machine.execRefreshInterrupt bank s
  | .patrolScrub addr written => Sys2Proof.Machine.execPatrolScrub addr written s
  | .wearRefresh words => Sys2Proof.Machine.execWearRefresh words s
  | .powerSample blocks temps => Sys2Proof.Machine.execPowerSample blocks temps s
  | .powerOn => Sys2Proof.Machine.execPowerOn s
  | .identify => Sys2Proof.Machine.execIdentify s
  | .attest nonce => Sys2Proof.Machine.execAttest nonce s
  | .setDevnum n => Sys2Proof.Machine.execSetDevnum n s
  | .setWindow base size => Sys2Proof.Machine.execSetWindow base size s
  | .setEventRing addr size => Sys2Proof.Machine.execSetEventRing addr size s
  | .setIdeKeys keys => Sys2Proof.Machine.execSetIdeKeys keys s
  | .setCap watts => Sys2Proof.Machine.execSetCap watts s
  | .telemetry => Sys2Proof.Machine.execTelemetry s
  | .resetPartition part lo hi => Sys2Proof.Machine.execResetPartition part lo hi s
  | .resetModule => Sys2Proof.Machine.execResetModule s
  | .portUp port => Sys2Proof.Machine.execPortUp port s
  | .chipletLost what => Sys2Proof.Machine.execChipletLost what s
  | .softError site => Sys2Proof.Machine.execSoftError site s
  | .dieTemperatureChange chiplet temp => Sys2Proof.Machine.execDieTemperatureChange chiplet temp s
  | .peerMemoryAccess dev off n write => Sys2Proof.Machine.execPeerMemoryAccess dev off n write s

end Sys2Proof.Machine
end

