-- ==== Sys2Proof/Machine/Due.lean ====
section
/-! DEFINITION. What happens next: the events of the machine's own hardware that are due, which core issues, and how its
bundle is fetched (R6, R22, R27, R94, R158, R299, R340, R374). -/

namespace Sys2Proof.Machine

/-! ## Events that may be due -/

/-- The pending results of a core: atomics to perform, results to land. -/
def pendEvents (s : State) (k : Nat) (c : Core) : List Instr :=
  match pendTask c with
  | none => []
  | some t => ((tabulate id 0 t.pend.length).zip t.pend).filterMap fun (i, p) =>
      if p.isAtomic then (if p.due ≤ s.cyc then some (.atomicPerform k i) else none)
      else if p.lands s.cyc || p.reads s.cyc then some (.pendingResultLand k i) else none

/-- The events of the operations of a copy queue. -/
def queueEvents (k : Nat) (sl : CSlot) (q : List CopyOp) : List Instr :=
  if q.isEmpty then [] else [.copyPageResume k sl, .nocSlotSend k sl, .copyOpComplete k sl, .copyOpStart k sl]

/-- The events that may end a wait: it is met, or else it times out (R158). -/
def waitEvents (k : Nat) (c : Core) : List Instr :=
  match c.wait with
  | none => []
  | some w =>
    if w.met then [] else
    match w.kind with
    | .cwait .. => [.cwaitMet k, .waitTimeout k]
    | .waita .. => [.waitaMet k, .waitTimeout k]
    | .waito .. => [.waitoMet k, .waitTimeout k]
    | .sleept .. => [.sleeptWake k, .waitTimeout k]
    | .drain .. => [.drainDone k]
    | .barg sc l g _ => [.barrierComplete l sc g]
    | .digx => [.waitTimeout k]

/-- The event that meets the wait of a task that is out of core `k`. -/
def savedEvent (k : Nat) (y : Saved) : Option Instr :=
  match y.wait with
  | none => none
  | some w =>
    if w.met then none else
    match w.kind with
    | .cwait .. => some (.cwaitMet k)
    | .waita .. => some (.waitaMet k)
    | .waito .. => some (.waitoMet k)
    | .sleept .. => some (.sleeptWake k)
    | .drain .. => some (.drainDone k)
    | .barg sc l g _ => some (.barrierComplete l sc g)
    | .digx => none

/-- Whether a half of instruction memory is being loaded. -/
def Half.isLoading : Half → Bool
  | .loading .. => true
  | .empty => false
  | .holds _ => false

/-- The events of one core. -/
def coreEvents (s : State) (k : Nat) (c : Core) : List Instr :=
  (if landsNow s c then [.exposedResultLand k] else []) ++
  (if c.stores.isEmpty && (l1Due s c).isNone then [] else [.storePerform k]) ++ pendEvents s k c ++
  (if c.steps.isEmpty then [] else [.arrayStepWrite k, .arrayStepStart k]) ++
  (match c.walk with
   | some va => [.pageWalkComplete k va]
   | none => []) ++
  (if c.half0.isLoading || c.half1.isLoading then [.segLoadComplete k] else []) ++
  (if c.fence.isEmpty then [] else [.tlbiRemovalComplete k, .watchBindComplete k]) ++
  queueEvents k .c0 c.cq0 ++ queueEvents k .c1 c.cq1 ++ waitEvents k c ++ c.saved.filterMap (savedEvent k) ++
  (match c.task with
   | some t => (if t.faults.isEmpty then [] else [.asyncFaultDelivery k]) ++ (if c.ended then [.endComplete k] else []) ++
      [.yieldOverrun k]
   | none => []) ++
  (if c.saved.isEmpty && c.todo.isEmpty && c.wait.isNone && !s.launches.any (fun e => e.2.phase == .reexec) then []
   else [.barrierWaiterResume k, .taskStart k])

/-- The events of the clusters: one that is blocked with a full FIFO may be relieved (R95), a cache writes a line back. -/
def clusterEvents (s : State) : List Instr :=
  s.relief.map (fun e => .fifoRelief e.1) ++
  (s.ccache.filter fun e => (ccDue s e.1).isSome).map fun e => .storePerform (512 + e.1)

/-- The events of one Veil engine. -/
def veilEvents (h : Nat) : List Instr :=
  [.veilFramesWritten h, .veilMaskLoaded h, .veilCalComplete h, .veilCalSlotStart h, .veilWindowStart h, .veilShot h,
   .calibrationStale h]

/-- The events of one L operation. What another device does is the environment's. -/
def linkEvents (s : State) (o : LinkOp) : List Instr :=
  (if o.isSend then [] else [.linkMatch o.id]) ++ (if o.moved && !o.away s then [.linkOpComplete ⟨o.id, .done⟩] else []) ++
    [.linkTimeout o.id]

/-- The events of one watch. -/
def watchEvents (s : State) (w : Nat) (x : Watch) : List Instr :=
  (if x.reqs.isEmpty then [] else [.relaunchAccept w]) ++
    (match nextJoin s w with
     | some (i, b) => [.relaunchTaskAdd w i b]
     | none => [])

/-- The events of one queue's window. -/
def windowEvents (q : Nat) (x : Queue) : List Instr := x.window.map fun e => .packetCompletion ⟨q, e.n⟩

/-- The events of the Cuffs that have a packet to start. -/
def cuffEvents (s : State) : List Instr :=
  if s.fl.queues.isEmpty then [] else
    ((tabulate id 0 4).filter fun c => (nextStart s c).isSome).map Instr.packetDispatch

/-- The events of the module itself: the bring-up that follows a reset (R370), the sample of the power controller (R374). -/
def moduleEvents (s : State) : List Instr :=
  (if s.fl.booting && !s.up then [.powerOn] else []) ++ if s.up && decide (s.fl.sampleAt ≤ s.cyc) then [dueSample s] else []

/-- The events of the hardware that may be due, in the order in which they are served within a cycle. -/
def events (s : State) : List Instr :=
  s.cores.flatMap (fun e => coreEvents s e.1 e.2) ++ clusterEvents s ++ s.adds.map (fun a => .counterAddApply a.i) ++
  s.reports.map (fun r => .asyncFaultReport r.core r.cause r.info) ++ s.veils.flatMap (fun e => veilEvents e.1) ++
  s.links.flatMap (linkEvents s) ++ s.launches.map (fun e => .launchReexecute e.1) ++
  s.watches.flatMap (fun e => watchEvents s e.1 e.2) ++ s.fl.queues.flatMap (fun e => windowEvents e.1 e.2) ++ cuffEvents s ++
  moduleEvents s

/-- Whether an event is the environment's to say: the barrier of a launch with members on other devices (R376). -/
def fromOutside (s : State) : Instr → Bool
  | .barrierComplete l .launch _ => match SMap.find s.launches l with
    | some x => x.desc.devs != 0
    | none => false
  | _ => false

/-- Whether an event can happen now. -/
def happens (s : State) (i : Instr) : Bool :=
  !fromOutside s i && match exec i s with
  | .next _ => true
  | .fault _ => false
  | .refused _ => false

/-- The event that happens next, if one is due. -/
def dueEvent (s : State) : Option Instr := (events s).find? (happens s)

/-! ## Which core issues -/

/-- Whether the wait of a held bundle lets it try to issue. -/
def waitPasses (s : State) (k : Nat) (c : Core) : Bool :=
  match c.wait with
  | none => true
  | some w => w.met || (w.kind.isDigx && match s.mach k with
    | some m => m.metNow .digx
    | none => false)

/-- Whether a throttle stalls the cores of a task's launch in this cycle: F-mode launches issue in the first of each
sixteen (R374). -/
def throttled (s : State) (t : Task) : Bool :=
  match SMap.find s.launches t.lid with
  | some x => !x.desc.dmode && decide (s.fl.duty ≤ s.cyc % 16)
  | none => false

/-- Whether a core's bundle may try to issue in this cycle. -/
def mayIssue (s : State) (k : Nat) (c : Core) : Bool :=
  match c.task with
  | none => false
  | some t =>
    decide (c.ready ≤ s.cyc) && !c.ended && c.walk.isNone && c.fence.all Fence.isBound && waitPasses s k c && !throttled s t && !heldSwitch s c &&
      !(c.half t.pc).isLoading

/-- The core that issues next in this cycle: the lowest that may. -/
def nextCore (s : State) : Option Nat := (s.cores.find? fun e => mayIssue s e.1 e.2).map Prod.fst

/-! ## Fetching a bundle (R22, R299, R340) -/

/-- The words of instruction memory from `pc` on to the end of its half, ten at most. -/
def wordsAt (c : Core) (pc : Nat) : List Word :=
  let lim := if pc < 131072 then 131072 else 262144
  tabulate (fun i => SMap.get 0 c.imem (pc / 8 + i)) 0 (Nat.min 10 ((lim - pc) / 8))

/-- The number of words of the bundle whose words begin a list. -/
def bundleLen (ws : List Word) : Nat := 1 + popCount (field ((ws.head?.getD 0).toNat) 51 9) 9

/-- Whether an uncorrectable error lies in the bundle at `pc`. -/
def fetchBad (c : Core) (pc n : Nat) : Bool := c.imemErr.any fun a => decide (pc ≤ a) && decide (a < pc + 8 * n)

/-- The bundle at a core's pc fetched, decoded and executed; or the trap, or the wait for a segment, that it meets. -/
def stepCore (s : State) (k : Nat) : Host.Outcome State Fault Refusal :=
  match s.mach k with
  | none => .refused .notEnabled
  | some m =>
    let pc := m.t.pc
    let ws := wordsAt m.c pc
    if pc < 262144 ∧ m.c.half pc = .empty then answer (some (serveAbsent m))
    else if fetchBad m.c pc (bundleLen ws) then
      answer (some (takeTrap m Cause.eccUncorr (natW pc) TrapKind.precise pc m.t.iter))
    else match decodeBundle ws with
      | .ok _ i => exec i m.s
      | .bad syl bit => answer (some (illBundle m syl bit))

/-! ## An instruction placed at the fetch -/

/-- A task at the start of a core's instruction memory, with a full register budget, in F-mode and without a handler. -/
def fetchTask (s : State) : Task :=
  Task.start s.uids 0 ⟨64, 32, 24⟩
    { tix := 0, ntask := 1, stage := 0, seed := 0, launch := 0, arg := 0, wtmo := natW (2 ^ 32), qtroub := 0, dig := 0, sv := false
      psv := false, dm := false, ste := true, te := false, epc := 0, ecause := 0, einfo := 0, erpt := 0, tvec := 0, ptb := 0
      segt := 0 } 0 s.cyc

/-- Words listed from address `i` on, zeros left out. -/
def wordsFrom (i : Nat) : List Word → SMap Word
  | [] => []
  | w :: ws => if w = 0 then wordsFrom (i + 1) ws else (i, w) :: wordsFrom (i + 1) ws

/-- Core 0 about to issue the bundle of the words given, which begin its instruction memory. -/
def fetchCore (s : State) (ws : List Word) : Core :=
  { Core.idle with task := some (fetchTask s), ready := s.cyc, imem := wordsFrom 0 ws, half0 := .holds 0, sliceEnd := s.cyc + 16384 }

/-- The machine with nothing else to do than to issue that bundle: every launch, event, request and engine operation
that would come first is gone. -/
def fetchState (s : State) (ws : List Word) : State :=
  { s with lost := false, uids := s.uids + 1, agenda := [], cores := [(0, fetchCore s ws)], adds := [], reports := [], veils := []
           links := [], launches := [], lreqs := [], watches := [], 
           fl := { s.fl with queues := [], booting := false, sampleAt := Nat.max s.fl.sampleAt (s.cyc + 1) } }

end Sys2Proof.Machine
end

