-- ==== Sys2Proof/Machine/Step.lean ====
section
/-! DEFINITION. One step of the machine: what the environment or the firmware has put on the agenda, else an event of the
hardware that is due, else a bundle of the lowest core that may issue, else the next cycle: blocked clusters are noted (R95), and
the held events accepted for which a ring has room (R301). -/

namespace Sys2Proof.Machine

/-- One step. -/
def step (s : State) : Host.Outcome State Fault Refusal :=
  if s.lost then .fault .moduleLost
  else match s.agenda with
    | i :: rest => exec i { s with agenda := rest }
    | [] => match dueEvent s with
      | some i => exec i s
      | none => match nextCore s with
        | some k => stepCore s k
        | none => .next { s.noteStuck with cyc := s.cyc + 1 }.flushRings

/-- The machine with the instruction whose bits are `w` where core 0 fetches its next bundle: a header word first, the
words of its slots after it, every bit above `nbits` zero. -/
def State.withFetchWord (s : State) (nbits w : Nat) : State := fetchState s (wordsOf (w % 2 ^ nbits) 10)

end Sys2Proof.Machine
end

