-- ==== Sys2Proof/Safety.lean ====
section
/-! DEFINITION. The terms in which claims speak: when the core that moves may issue an operation at once, what the machine is
when it has, and what a run must keep. -/

namespace Sys2Proof.Machine

/-- No relaunch is in progress, so none completes at the end of a step (R308). -/
def State.settledWatches (s : State) : Prop := s.watches.all (fun e => e.2.run.isNone) = true

/-- An operation as a bundle that presents it alone has it act, under the guard P0. -/
def sole (sl : Slot) (i : Instr) (m : Mach) : Acting := ⟨sl, ⟨false, 0⟩, i, capture0 m.t.regs i, true⟩

/-- No active loop level ends at the bundle at `pc` (R75). -/
def Loops.straight (x : Loops) (pc : Nat) : Prop :=
  (x.l0.active = true → x.l0.le.toNat ≠ pc) ∧ (x.l1.active = true → x.l1.le.toNat ≠ pc)

/-- The core that moves stands before a bundle that presents `i` in slot `sl` and nothing else, and nothing of the machine
delays it: `m` is what the bundle reads at issue (R16, R33, R36). The registers that the syllable names pass its checks, none
is pending or poisoned, no tile it names is busy, no sticky slot re-issues, no loop ends here, and the loads and stores of the
core are below their limits (R242). -/
structure Ready (sl : Slot) (i : Instr) (s : State) (m : Mach) : Prop where
  mach : (s.mach s.cur).map Mach.view = some m
  fits : staticCheck m.t.budget i = none
  landed : (sole sl i m).pends m.t = false
  free : (sole sl i m).meetsBusy m.c = false
  clean : (sole sl i m).poison m.t.regs = none
  first : m.t.iter = 0
  fresh : m.t.flow = Flow.none
  alone : m.t.sticky = StickySet.quiet ∨ m.t.x.ste = false
  straight : m.t.loops.straight m.t.pc
  settled : s.settledWatches
  room : m.t.loadCount < 128 ∧ m.c.storeCount < 128

/-- The sticky state in which one operation alone was presented (R29). -/
def StickySet.only (sl : Slot) (p : Sticky) : StickySet :=
  match sl with
  | .v0 => { StickySet.quiet with v0 := some p }
  | .v1 => { StickySet.quiet with v1 := some p }
  | .m => { StickySet.quiet with m := some p }
  | .c0 => { StickySet.quiet with c0 := some p }
  | .c1 => { StickySet.quiet with c1 := some p }
  | .s => StickySet.quiet
  | .o => StickySet.quiet
  | .l => StickySet.quiet
  | .k => StickySet.quiet

/-- The machine as the operation takes effect: nothing is awaited any more, and the slot remembers its operation (R29). -/
def Mach.present (m : Mach) (sl : Slot) (i : Instr) : Mach :=
  (m.onC Core.issued).onT fun t => { t with sticky := StickySet.only sl ⟨⟨false, 0⟩, i, capture0 m.t.regs i⟩ }

/-- A bundle of `n` syllables done, at pc `a` next, `k` cycles after issue at the earliest (R32, R38). -/
def Mach.leave (m : Mach) (a k : Nat) : State :=
  ((m.onC fun c => { c with ready := Nat.max c.ready (m.s.cyc + k) }).onT fun t =>
    { t with pc := a, iter := 0, flow := Flow.none }).put

/-- A bundle of two syllables done: the next bundle of the core is the one after it, and issues in the next cycle at the
earliest (R32). -/
def Mach.retire (m : Mach) : State := m.leave (m.t.pc + 16) 1

/-- `i` completes: the machine answers a next state, in which the operation's own effect is `f` (R16). -/
def Completes (sl : Slot) (i : Instr) (s : State) (m : Mach) (f : Act) : Prop :=
  exec i s = .next (f (m.present sl i)).retire

/-- The task of the core that moves, if it holds one. -/
def State.running (s : State) : Option Task := (s.core s.cur).task

/-- The task as a delivered trap leaves it (R318, R321): `u` is the task before with every result readable before cycle `cyc`
landed. -/
structure Task.Entered (u t : Task) (cyc cause : Nat) (info : Word) : Prop where
  epc : t.x.epc = BitVec.ofNat 64 u.pc
  erpt : t.x.erpt = BitVec.ofNat 64 u.iter
  ecause : t.x.ecause = BitVec.ofNat 64 cause
  einfo : t.x.einfo = info
  level : t.x.sv = true ∧ t.x.psv = u.x.sv
  pc : t.pc = u.x.tvec.toNat
  quiet : t.sticky = StickySet.quiet ∧ t.loops = Loops.off ∧ t.flow = Flow.none ∧ t.iter = 0
  saved : t.trapped = ⟨u.sticky, u.loops, u.flow⟩
  shadow : t.flight = [] ∧ t.shadow = u.flight.map fun r => { r with due := r.due - cyc }
  regs : t.regs = u.regs
  kept : t.x.dig = u.x.dig ∧ t.x.qtroub = u.x.qtroub ∧ t.x.tvec = u.x.tvec ∧ t.mat = u.mat ∧ t.bind = u.bind ∧ t.pend = u.pend

/-- A trap with X.ECAUSE = `cause` is delivered to the task of the core that moves, instead of the bundle (R20, R28, R321): the
handler's first bundle issues three cycles later, and nothing but the core and its task changes. -/
def Delivers (i : Instr) (s : State) (cause : Nat) (info : Word) : Prop :=
  ∃ m c t, s.mach s.cur = some m ∧ exec i s = .next { s with cores := SMap.put s.cores s.cur c } ∧ c.task = some t ∧
    (m.t.landFlight s.cyc).Entered t s.cyc cause info ∧ c.ready = s.cyc + 3 ∧ c.stores = m.c.stores ∧ c.steps = m.c.steps ∧
    c.mops = m.c.mops ∧ c.cq0 = m.c.cq0 ∧ c.cq1 = m.c.cq1

/-- The task of the core that moves runs in user mode and has a handler. -/
def State.catches (s : State) : Prop := ∃ t, (s.core s.cur).task = some t ∧ t.x.sv = false ∧ t.x.tvec ≠ 0

/-! ## What the rules of chapter 04 give as results -/

/-- A field descriptor's bits: the first, and how many within bit 63 (R61). -/
def fieldOf (b : Nat) : Nat × Nat := (b % 64, Nat.min (b / 256 % 64 + 1) (64 - b % 64))

/-- The register operations of R59 on two scalars, each as the exact number that is then taken modulo 2^64. -/
def exactOp (o : KRegOp) (a b : Word) : Int :=
  match o with
  | .add => a.toInt + b.toInt
  | .sub => a.toInt - b.toInt
  | .and => (a &&& b).toInt
  | .or => (a ||| b).toInt
  | .xor => (a ^^^ b).toInt
  | .shl => if b.toNat < 64 then a.toNat * 2 ^ b.toNat else 0
  | .shr => if b.toNat < 64 then a.toNat / 2 ^ b.toNat else 0
  | .sra => a.toInt / 2 ^ (if b.toNat < 63 then b.toNat else 63)

/-- The scalar operations with an exposed result in Sd: the latency of R34, Sd, and the result of R59, R61 to R63, R65, R78 and
R348 as a number to be taken modulo 2^64. -/
def scalarResult (m : Mach) (i : Instr) : Option (Nat × SReg × Int) :=
  let S (r : SReg) : Word := m.t.regs.sreg r.toNat
  let op (d : SReg) (o : KRegOp) (a b : Word) : Option (Nat × SReg × Int) := some (1, d, exactOp o a b)
  let sx (n : BitVec 33) : Word := BitVec.ofInt 64 n.toInt
  let zx (n : BitVec 6) : Word := BitVec.ofNat 64 n.toNat
  match i with
  | .add d a b => op d .add (S a) (S b)
  | .sub d a b => op d .sub (S a) (S b)
  | .and d a b => op d .and (S a) (S b)
  | .or d a b => op d .or (S a) (S b)
  | .xor d a b => op d .xor (S a) (S b)
  | .shl d a b => op d .shl (S a) (S b)
  | .shr d a b => op d .shr (S a) (S b)
  | .sra d a b => op d .sra (S a) (S b)
  | .mul d a b => some (3, d, (S a).toInt * (S b).toInt)
  | .mulh false d a b => some (3, d, (S a).toInt * (S b).toInt / 2 ^ 64)
  | .mulh true d a b => some (3, d, (S a).toNat * (S b).toNat / 2 ^ 64)
  | .min false d a b => some (1, d, if (S a).toInt ≤ (S b).toInt then (S a).toInt else (S b).toInt)
  | .min true d a b => some (1, d, if (S a).toNat ≤ (S b).toNat then (S a).toNat else (S b).toNat)
  | .max false d a b => some (1, d, if (S a).toInt ≤ (S b).toInt then (S b).toInt else (S a).toInt)
  | .max true d a b => some (1, d, if (S a).toNat ≤ (S b).toNat then (S b).toNat else (S a).toNat)
  | .clz d a => some (1, d, if (S a).toNat = 0 then 64 else 63 - Nat.log2 (S a).toNat)
  | .popc d a => some (1, d, (List.range 64).countP (S a).getLsbD)
  | .bext d a b =>
    let (pos, w) := fieldOf (S b).toNat
    some (1, d, (S a).toNat / 2 ^ pos % 2 ^ w)
  | .bins d a b =>
    let (pos, w) := fieldOf (S b).toNat
    let old := (S d).toNat
    some (1, d, old % 2 ^ pos + (S a).toNat % 2 ^ w * 2 ^ pos + old / 2 ^ (pos + w) * 2 ^ (pos + w))
  | .ldih d n => some (1, d, (S d).toNat % 2 ^ 45 + n.toNat * 2 ^ 45)
  | .addi d a n => op d .add (S a) (sx n)
  | .andi d a n => op d .and (S a) (sx n)
  | .ori d a n => op d .or (S a) (sx n)
  | .xori d a n => op d .xor (S a) (sx n)
  | .shli d a n => op d .shl (S a) (zx n)
  | .shri d a n => op d .shr (S a) (zx n)
  | .srai d a n => op d .sra (S a) (zx n)
  | .ldi d n => some (1, d, n.toInt)
  | .sel d a b p neg => some (1, d, if m.t.regs.preg p.toNat = neg then (S b).toInt else (S a).toInt)
  | .hget d h w => some (1, d, (m.t.regs.hreg h.toNat).toNat / 2 ^ (64 * w.toNat) % 2 ^ 64)
  | .kalu d a (.reg o b) => op d o (S a) (S b)
  | .kalu d a (.imm .addi n) => op d .add (S a) (sx n)
  | .kalu d a (.imm .andi n) => op d .and (S a) (sx n)
  | .kalu d a (.imm .ori n) => op d .or (S a) (sx n)
  | .kalu d a (.imm .xori n) => op d .xor (S a) (sx n)
  | .kalu d a (.shift .shli n) => op d .shl (S a) (zx n)
  | .kalu d a (.shift .shri n) => op d .shr (S a) (zx n)
  | .kalu d a (.shift .srai n) => op d .sra (S a) (zx n)
  | _ => none

/-- The slot of a scalar operation: KALU runs in K, the others in S (R348). -/
def scalarSlot : Instr → Slot
  | .kalu _ _ _ => .k
  | _ => .s

/-- Whether a condition holds of two scalars (R64). -/
def condTrue (c : Cond) (a b : Word) : Prop :=
  match c with
  | .eq => a = b
  | .ne => a ≠ b
  | .lt => a.toInt < b.toInt
  | .ltu => a.toNat < b.toNat
  | .le => a.toInt ≤ b.toInt
  | .leu => a.toNat ≤ b.toNat

/-- `i` completes: the machine answers a next state, and of the machine `n` that the operation's own effect leaves, before
control moves to the next bundle, `P` holds. -/
def Finishes (i : Instr) (s : State) (m : Mach) (P : Mach → Prop) : Prop :=
  ∃ n, exec i s = .next n.retire ∧ n.t.pc = m.t.pc ∧ n.s.cur = s.cur ∧ P n

/-! ## Memory as a core's accesses reach it -/

/-- An access of the core that moves, with alignment `al`, passes every check (R67, R147, R231): address `ea` is in range,
aligned, in no counter or MMIO space, translated for the access, and its physical address `pa`, aligned as it is, is memory: HBM4E,
LPDDR-6, or a bank of cluster SRAM in scratchpad mode that no other partition owns. -/
structure Reaches (m : Mach) (ea al : Nat) (rd wr : Bool) (pa : Nat) (na : Bool) : Prop where
  low : ea < 2 ^ 57
  aligned : ea % al = 0
  space : regionOf ea ≠ .counter ∧ regionOf ea ≠ .mmio
  translated : m.xlat ea rd wr = .ok pa na
  placed : pa % al = 0
  memory : regionOf pa = .hbm ∨ regionOf pa = .lpddr ∨ (regionOf pa = .scratch ∧ (m.s.bank (bankOf pa)).mode = .scratchpad ∧
    m.s.partOf (bankOf pa / 16) = m.s.partOf (clusterOf m.s.cur))

/-- The core has nothing under way to memory: no store waits, no result is pending, no word that it can reach holds an
uncorrectable error. -/
structure Calm (m : Mach) : Prop where
  stores : m.c.stores = []
  pend : m.t.pend = []
  err : m.s.err = [] ∧ m.s.hbm.lost = [] ∧ m.s.hbm.errs = []
  lines : (∀ e ∈ m.c.l1, e.2.err = []) ∧ ∀ e ∈ m.s.ccache, ∀ x ∈ e.2, x.err = []

/-- No line of the core's L1 with the byte at `p` waits to be written back (R175). -/
def Mach.l1Clean (m : Mach) (p : Nat) : Prop := ∀ e ∈ m.c.l1, e.2.line = p / 64 → e.2.since = none

/-- No line with the byte at `p`, of the core's L1 or of its cluster's cache, waits to be written back (R175, R177). -/
def Mach.clean (m : Mach) (p : Nat) : Prop :=
  m.l1Clean p ∧ ∀ x ∈ m.s.cc (m.s.cur / 8), x.line = p / 64 → x.since = none

/-- Every line of a cluster's cache has 64 bytes, and of newer ones none or 64 (R176). -/
def State.wholeLines (s : State) : Prop :=
  ∀ e ∈ s.ccache, ∀ x ∈ e.2, x.data.length = 64 ∧ (x.new = [] ∨ x.new.length = 64)

/-- The value of the `n` bytes from `pa` on, the first the least (R3). -/
def littleEndian (f : Nat → Byte) (pa : Nat) : Nat → Nat
  | 0 => 0
  | n + 1 => (f pa).toNat + 256 * littleEndian f (pa + 1) n

/-- The byte at `pa` that the core finds there: in the line that its L1 holds, else in that of its cluster's cache, else in
memory. No cache is kept up to date with what other agents write (R167, R175, R200). -/
def nearByte (m : Mach) (pa : Nat) : Byte :=
  match m.cached (pa / 64) with
  | some l => l.getD (pa % 64) 0
  | none => m.s.byte pa

/-- The byte at `pa` that the cores of cluster `cl` find beyond their L1s: in the line of the cluster's cache, else in memory. -/
def clusterByte (s : State) (cl pa : Nat) : Byte :=
  match ccFind (s.cc cl) (pa / 64) with
  | some x => x.data.getD (pa % 64) 0
  | none => s.byte pa

/-- The effective address of a scalar access (R67). -/
def effAddr (m : Mach) (a : SReg) (off : BitVec 33) : Nat := (m.t.regs.sreg a.toNat + BitVec.ofInt 64 off.toInt).toNat

/-- A loaded value of a size code as 64 bits (R68). -/
def loaded (z : MSize) (v : Nat) : Word :=
  match z with
  | .b => BitVec.ofInt 64 (if v < 2 ^ 7 then v else v - 2 ^ 8)
  | .h => BitVec.ofInt 64 (if v < 2 ^ 15 then v else v - 2 ^ 16)
  | .w => BitVec.ofInt 64 (if v < 2 ^ 31 then v else v - 2 ^ 32)
  | .bu => BitVec.ofNat 64 v
  | .hu => BitVec.ofNat 64 v
  | .wu => BitVec.ofNat 64 v
  | .d => BitVec.ofNat 64 v

/-- The registers, flags and control of the task are as they were; what lands later may have changed. -/
def SameRegs (n m : Mach) : Prop :=
  n.t.regs = m.t.regs ∧ n.t.x = m.t.x ∧ n.t.mat = m.t.mat ∧ n.t.bind = m.t.bind ∧ n.t.loops = m.t.loops ∧
    n.t.shadow = m.t.shadow ∧ n.t.trapped = m.t.trapped

/-- A single result that `lat` cycles after issue lands in S[d]. -/
def inFlight (m : Mach) (lat : Nat) (d : Nat) (v : Word) : Result :=
  ⟨.s d, v.setWidth 2048, BitVec.allOnes 256, false, none, m.s.cyc + lat, 0⟩

/-- The special registers that MOVX reads, by number, with their values (R10); the loop registers read `lp` (R322). -/
def xvalues (m : Mach) (lp : Loops) : List (Nat × Word) :=
  let x := m.t.x
  [(0x000, BitVec.ofNat 64 m.s.cyc), (0x001, x.tix), (0x002, x.ntask), (0x003, x.stage),
   (0x004, BitVec.ofNat 64 (m.s.cur / 128 * 256 + m.s.cur / 8 % 16 * 16 + m.s.cur % 8)), (0x005, x.seed), (0x006, x.launch),
   (0x007, x.arg), (0x010, lp.l0.lc), (0x011, lp.l0.ls), (0x012, lp.l0.le), (0x013, lp.l1.lc), (0x014, lp.l1.ls),
   (0x015, lp.l1.le), (0x018, BitVec.ofNat 64 m.t.mat.mlm), (0x019, BitVec.ofNat 64 m.t.mat.mln),
   (0x01A, BitVec.ofNat 64 m.t.mat.mlk), (0x01B, BitVec.ofNat 64 m.t.mat.msp), (0x020, x.wtmo), (0x021, x.qtroub),
   (0x023, BitVec.ofNat 64 ((if x.sv then 1 else 0) + (if x.psv then 2 else 0) + (if x.dm then 4 else 0) +
     (if x.ste then 8 else 0) + (if x.te then 16 else 0))),
   (0x100, x.epc), (0x101, x.ecause), (0x102, x.einfo), (0x103, x.erpt), (0x104, x.tvec), (0x108, x.ptb), (0x109, x.segt)]

/-- The special registers that are plain storage for MOVXW, with what a write of `v` leaves (R10, R77). -/
def xwrites (x : XRegs) (v : Word) : List (Nat × XRegs) :=
  [(0x020, { x with wtmo := v }), (0x021, { x with qtroub := v }), (0x100, { x with epc := v }), (0x101, { x with ecause := v }),
   (0x102, { x with einfo := v }), (0x103, { x with erpt := BitVec.ofNat 64 (v.toNat % 256) }),
   (0x104, { x with tvec := BitVec.ofNat 64 (v.toNat / 8 % 2 ^ 15 * 8) }),
   (0x108, { x with ptb := BitVec.ofNat 64 (v.toNat % 2 ^ 52) }),
   (0x109, { x with segt := BitVec.ofNat 64 (v.toNat / 16 % 2 ^ 48 * 16) })]

/-! ## Encodings and turns -/

/-- The opcodes that the tables of R39 to R45 list for a slot class. -/
def listedOpcodes (sl : Slot) : List Nat :=
  let v := List.range' 0x01 9 ++ [0x0E] ++ List.range' 0x10 9 ++ List.range' 0x20 5 ++ List.range' 0x30 5 ++ List.range' 0x40 6
  let c := List.range' 0x01 15
  match sl with
  | .s => List.range' 0x01 18 ++ List.range' 0x17 13 ++ List.range' 0x30 5 ++ List.range' 0x40 7 ++ List.range' 0x50 7 ++
      List.range' 0x60 6 ++ List.range' 0x70 4
  | .v0 => v ++ List.range' 0x60 3
  | .v1 => v ++ List.range' 0x0A 4
  | .m => List.range' 0x01 6
  | .c0 => c
  | .c1 => c
  | .o => List.range' 0x01 7
  | .l => List.range' 0x01 8
  | .k => List.range' 0x01 6 ++ List.range' 0x10 5 ++ List.range' 0x20 4 ++ List.range' 0x30 4 ++ [0x38, 0x39]

/-- The slot that a slot operation encodes for, if it is one (R39 to R45). -/
def slotOf (i : Instr) : Option Slot := (encodeOp i).map Prod.fst

/-- Nothing comes before the bundle of core `k` in the present cycle: nothing is on the agenda, no event of the hardware is
due, and `k` is the core that issues. -/
structure Turn (s : State) (k : Nat) : Prop where
  alive : s.lost = false
  agenda : s.agenda = []
  idle : dueEvent s = none
  turn : nextCore s = some k

/-! ## What the rules of chapter 08 give as results -/

/-- Element `e` of a row, of `w` bits (R96). -/
def elemOf (w : Nat) (r : Row) (e : Nat) : Nat := r.toNat / 2 ^ (w * e) % 2 ^ w

/-- Whether byte `k` of the row is active under the lane predicate, for elements of `w` bits: its element's lowest byte is
(R99). -/
def laneOn (m : Mach) (c : VCom) (k : Nat) : Bool :=
  let w := c.ty.bits / 8
  (m.t.regs.qreg c.q.toNat).getLsbD (k / w * w) != c.qn

/-- The element-wise operations (R130, R132, R137, R143): slot, common fields, latency, destination, source rows in the order in
which the function takes their elements, and the function. Floating-point ones round the exact result once; integers wrap. -/
def vectorElem (i : Instr) : Option (VSlot × VCom × Nat × RowRef × List RowRef × (List Nat → Nat)) :=
  let f1 (c : VCom) (g : FVal → FVal) : List Nat → Nat := fun es => roundF c.ty (g (decodeF c.ty (es.getD 0 0)))
  let f2 (c : VCom) (g : FVal → FVal → FVal) : List Nat → Nat := fun es =>
    roundF c.ty (g (decodeF c.ty (es.getD 0 0)) (decodeF c.ty (es.getD 1 0)))
  let f3 (c : VCom) (g : FVal → FVal → FVal → FVal) : List Nat → Nat := fun es =>
    roundF c.ty (g (decodeF c.ty (es.getD 0 0)) (decodeF c.ty (es.getD 1 0)) (decodeF c.ty (es.getD 2 0)))
  let n2 (c : VCom) (g : Nat → Nat → Int) : List Nat → Nat := fun es =>
    (g (es.getD 0 0) (es.getD 1 0) % (2 ^ c.ty.bits : Nat)).toNat
  match i with
  | .vadd sl c d a b => some (sl, c, 3, d, [a, b], f2 c addF)
  | .vsub sl c d a b => some (sl, c, 3, d, [a, b], f2 c fun u v => addF u (negF v))
  | .vmul sl c d a b => some (sl, c, 5, d, [a, b], f2 c mulF)
  | .vfma sl c d a b => some (sl, c, 5, d, [a, b, d], f3 c fun u v w => addF w (mulF u v))
  | .vfms sl c d a b => some (sl, c, 5, d, [a, b, d], f3 c fun u v w => addF w (negF (mulF u v)))
  | .vmin sl c d a b => some (sl, c, 3, d, [a, b], f2 c minF)
  | .vmax sl c d a b => some (sl, c, 3, d, [a, b], f2 c maxF)
  | .vabs sl c d a => some (sl, c, 3, d, [a], f1 c absF)
  | .vneg sl c d a => some (sl, c, 3, d, [a], f1 c negF)
  | .vrcp c d a => some (.v1, c, 8, d, [a], f1 c rcpF)
  | .vrsq c d a => some (.v1, c, 8, d, [a], f1 c rsqF)
  | .vexp2 c d a => some (.v1, c, 8, d, [a], f1 c exp2F)
  | .vlog2 c d a => some (.v1, c, 8, d, [a], f1 c log2F)
  | .vamax sl c d a => some (sl, c, 6, d, [a, d], f2 c fun u v => maxF (absF v) (absF u))
  | .viadd sl c d a b => some (sl, c, 3, d, [a, b], n2 c fun u v => u + v)
  | .visub sl c d a b => some (sl, c, 3, d, [a, b], n2 c fun u v => (u : Int) - v)
  | .vimul sl c d a b => some (sl, c, 3, d, [a, b], n2 c fun u v => u * v)
  | .vand sl c d a b => some (sl, c, 3, d, [a, b], n2 c fun u v => ((u &&& v : Nat) : Int))
  | .vor sl c d a b => some (sl, c, 3, d, [a, b], n2 c fun u v => ((u ||| v : Nat) : Int))
  | .vxor sl c d a b => some (sl, c, 3, d, [a, b], n2 c fun u v => ((u ^^^ v : Nat) : Int))
  | .vshl sl c d a b => some (sl, c, 3, d, [a, b], n2 c fun u v => if v < c.ty.bits then u * 2 ^ v else 0)
  | .vshr sl c d a b => some (sl, c, 3, d, [a, b], n2 c fun u v => if v < c.ty.bits then (u / 2 ^ v : Nat) else 0)
  | .vsra sl c d a b => some (sl, c, 3, d, [a, b], n2 c fun u v =>
      if c.ty = 12 then (if v < 8 then (u / 2 ^ v : Nat) else 0)
      else (if u < 2 ^ (c.ty.bits - 1) then (u : Int) else u - 2 ^ c.ty.bits) / 2 ^ (if v < c.ty.bits then v else c.ty.bits - 1))
  | .vmov sl c d a => some (sl, c, 3, d, [a], fun es => es.getD 0 0)
  | _ => none

/-- A row result in flight to row `d`, `lat` cycles after issue, in the bytes that `mask` marks (R99). -/
def rowInFlight (m : Mach) (lat : Nat) (d : RowRef) (v : Row) (mask : VMask) (taint : Bool) : Result :=
  ⟨.row (64 * d.t.toNat + d.r.toNat), v, mask, taint, none, m.s.cyc + lat, 0⟩

/-- The row of a row operand as the bundle reads it. -/
def rowRead (m : Mach) (r : RowRef) : RowCell := m.t.regs.row (64 * r.t.toNat + r.r.toNat)

/-- The taint that the lane predicate and the source rows of a vector operation give (R129). -/
def vecTaint (m : Mach) (c : VCom) (srcs : List RowRef) : Bool :=
  m.t.regs.qtaint c.q.toNat || srcs.any fun r => (rowRead m r).taint

/-- The taint of a row result whose sources give `tn`: the row's old taint stays where some byte does, and X.STATUS.TE at 0 clears
it (R129). -/
def rowTaint (m : Mach) (d : RowRef) (mask : VMask) (tn : Bool) : Bool :=
  m.t.x.te && (tn || (mask != BitVec.allOnes 256 && (rowRead m d).taint))

/-- `i` completes with one row in flight to `d`, tainted as sources of taint `tn` have it: the bytes marked are those whose element is
active, and each element is what `val` gives. -/
def RowResult (sl : Slot) (i : Instr) (s : State) (m : Mach) (c : VCom) (lat : Nat) (d : RowRef) (tn : Bool) (val : Nat → Nat) :
    Prop :=
  ∃ v mask, Completes sl i s m (fun n => n.onT fun t => t.fly (rowInFlight m lat d v mask (rowTaint m d mask tn))) ∧
    (∀ e, e < 2048 / c.ty.bits → elemOf c.ty.bits v e = val e) ∧ ∀ k, k < 256 → mask.getLsbD k = laneOn m c k

/-- `i` completes with a pair of vector predicates in flight, tainted as source rows of taint `tn` have it: in each byte of an active
element Qd holds the condition of its element and Qd+1 its negation; both are 0 elsewhere (R100, R129). -/
def MaskResult (sl : Slot) (i : Instr) (s : State) (m : Mach) (c : VCom) (q : PReg) (tn : Bool) (cond : Nat → Bool) : Prop :=
  let taint := m.t.x.te && tn
  ∃ v w, Completes sl i s m (fun n => n.onT fun t =>
      (t.fly ⟨.q q.toNat, v.setWidth 2048, 0, taint, none, s.cyc + 2, 0⟩).fly
        ⟨.q (q.toNat + 1), w.setWidth 2048, 0, taint, none, s.cyc + 2, 0⟩) ∧
    ∀ k, k < 256 → (v : VMask).getLsbD k = (laneOn m c k && cond (k / (c.ty.bits / 8))) ∧
      (w : VMask).getLsbD k = (laneOn m c k && !cond (k / (c.ty.bits / 8)))

end Sys2Proof.Machine
end

