-- ==== Sys2Proof/Certificates/Slice0/Obligations.lean ====
section
/-! DEFINITION. The statements for the provers, each a proposition about the machine that the rule it cites makes or that the
model must have. -/

open Sys2Proof Sys2Proof.Machine

/-! ## Encoding (R22 to R46) -/

/-- The words that chapter 03, 04, 06, 07 and 08 write out for single syllables decode to the operations they stand for. -/
def Obligations.ExampleWordsDecode : Prop :=
  decSyl .s 0x0B0145980800_0000 = .ok (.div true 10 11 12) ∧
  decSyl .s 0x1F00B9B97F4A7C15 = .ok (.ldi 5 0x39B97F4A7C15) ∧
  decSyl .s 0x1700A0000004F1BB = .ok (.ldih 5 0x4F1BB) ∧
  decSyl .s 0x2100838600000064 = .ok (.cmpi .ltu 4 7 100) ∧
  decSyl .s 0x2200828C98000000 = .ok (.sel 4 5 6 3 true) ∧
  decSyl .s 0x7000000000000007 = .ok (.trap 7) ∧
  decSyl .s 0x7200000000000000 = .ok .eret ∧
  headerOf 0xD0300000_00000000 = ⟨0b110, 0, 0, false, false, 0⟩ ∧
  headerOf 0xD000000C00000000 = ⟨0, 0, 3, false, false, 0⟩ ∧
  headerOf 0xD020080000000000 = ⟨0b100, 0b10, 0, false, false, 0⟩

/-- R46: an opcode that the tables do not list for a slot class is illegal in that class, whatever else the syllable holds, and
0x00 and 0xFF are among them in every class. A bundle at the pc that holds such a syllable, in any of its slots, or whose header
is zeroed or erased (all ones), traps ILL_BUNDLE instead of taking effect. -/
def Obligations.UnlistedOpcodesAreIllegal : Prop :=
  (∀ (sl : Slot) (w : Nat), w < 2 ^ 64 → w / 2 ^ 56 ∉ listedOpcodes sl → decSyl sl w = .bad 56) ∧
  (∀ sl : Slot, 0x00 ∉ listedOpcodes sl ∧ 0xFF ∉ listedOpcodes sl) ∧
  ∀ (s : State) (k : Nat) (m : Mach) (h : Word) (rest : List Word), Turn s k → s.settledWatches → s.mach k = some m →
    m.c.half m.t.pc ≠ .empty → fetchBad m.c m.t.pc (bundleLen (wordsAt m.c m.t.pc)) = false → m.t.x.sv = false → m.t.x.tvec ≠ 0 →
    wordsAt m.c m.t.pc = h :: rest →
    ((∃ (n : Nat) (sl : Slot) (w : Word), (presentSlots (headerOf h.toNat).present)[n]? = some sl ∧ rest[n]? = some w ∧
        w.toNat / 2 ^ 56 ∉ listedOpcodes sl) ∨ h = 0 ∨ h = BitVec.allOnes 64) →
    ∃ c t info, step s = .next { s with cur := k, cores := SMap.put s.cores k c } ∧ c.task = some t ∧
      (m.t.landFlight s.cyc).Entered t s.cyc 0x01 info ∧ c.ready = s.cyc + 3

/-- The encoder's word of a well-formed S operation decodes to it, with every operand (R39). -/
def Obligations.DecodeEncodeScalar : Prop :=
  ∀ i : Instr, i.wellFormed = true → slotOf i = some .s → decodeBundle (encode i) = .ok 2 i

/-- The encoder's word of a well-formed V operation, in either vector slot, decodes to it (R40). -/
def Obligations.DecodeEncodeVector : Prop :=
  ∀ i : Instr, i.wellFormed = true → slotOf i = some .v0 ∨ slotOf i = some .v1 → decodeBundle (encode i) = .ok 2 i

/-- The encoder's word of a well-formed M or C operation decodes to it (R41, R42). The encoder's word of a well-formed O, L or K
operation decodes to it (R43 to R45). -/
def Obligations.DecodeEncodeEngines : Prop :=
  (∀ i : Instr, i.wellFormed = true → slotOf i = some .m ∨ slotOf i = some .c0 ∨ slotOf i = some .c1 →
     decodeBundle (encode i) = .ok 2 i) ∧
  (∀ i : Instr, i.wellFormed = true → slotOf i = some .o ∨ slotOf i = some .l ∨ slotOf i = some .k →
     decodeBundle (encode i) = .ok 2 i)

/-! ## A step -/

/-- A step runs the decoded instruction: where a core has its turn, its instruction memory holds the half of its pc, and the
words there decode, the step is the instruction's execution with that core as the one that moves; the pc moves in the
execution, by the bundle's length where nothing else is decided. -/
def Obligations.StepRunsTheDecodedInstruction : Prop :=
  ∀ (s : State) (k len : Nat) (i : Instr) (m : Mach), Turn s k → s.mach k = some m → m.c.half m.t.pc ≠ .empty →
    fetchBad m.c m.t.pc (bundleLen (wordsAt m.c m.t.pc)) = false → decodeBundle (wordsAt m.c m.t.pc) = .ok len i →
    step s = exec i { s with cur := k }

/-- R28: words that do not decode trap ILL_BUNDLE at the bundle, with the syllable in X.EINFO bits 3:0 and the bit in 13:8. -/
def Obligations.UndecodableBundlesTrap : Prop :=
  ∀ (s : State) (k syl bit : Nat) (m : Mach), Turn s k → s.settledWatches → s.mach k = some m → m.c.half m.t.pc ≠ .empty →
    fetchBad m.c m.t.pc (bundleLen (wordsAt m.c m.t.pc)) = false → decodeBundle (wordsAt m.c m.t.pc) = .bad syl bit →
    m.t.x.sv = false → m.t.x.tvec ≠ 0 →
    ∃ c t, step s = .next { s with cur := k, cores := SMap.put s.cores k c } ∧ c.task = some t ∧
      (m.t.landFlight s.cyc).Entered t s.cyc 0x01 (BitVec.ofNat 64 (syl + 256 * bit)) ∧ c.ready = s.cyc + 3

/-- What befalls the machine from outside happens before anything of its own, and a lost module does nothing (R353). -/
def Obligations.AgendaFirstAndLossFinal : Prop :=
  (∀ s : State, s.lost = true → step s = .fault .moduleLost) ∧
  ∀ (s : State) (i : Instr) (rest : List Instr), s.lost = false → s.agenda = i :: rest →
    step s = exec i { s with agenda := rest }

/-- Memory keeps its canonical form: addresses rise strictly, and no byte listed is what an unlisted one reads as (the
model's own form, log 2); and every line of a cluster's cache keeps its 64 bytes (R176). -/
def Obligations.MemoryFormKept : Prop :=
  ∀ s t : State, step s = .next t → (Memory.wf s.mem → Memory.wf t.mem) ∧ (s.wholeLines → t.wholeLines)

/-- Reset (R205): the counters are 0. That no table entry is valid and no task runs (log 1), and that memory, whose form lists
nothing, reads 0 (log 2), is the model's choice: the manual gives no reset value there. Every line of a cluster's cache has 64
bytes. -/
def Obligations.ResetState : Prop :=
  Memory.wf State.reset.mem ∧ State.reset.wholeLines ∧ (∀ i, State.reset.ctr i = 0) ∧ (∀ cl id, State.reset.tid cl id = none) ∧
    (∀ k, (State.reset.core k).task = none) ∧ ∀ pa, State.reset.byte pa = blank

/-! ## Traps and return (R7 to R21, R80, R81, R321) -/

/-- TRAP and SYSC (R80) trap BREAK and SYSCALL with the immediate and the bundle's length in X.EINFO; as R20 and R321 have it,
the saved registers are written, the level is supervisor, the pc is at X.TVEC, and the bundle has no effect. -/
def Obligations.SoftwareTrapsAreDelivered : Prop :=
  ∀ (s : State) (m : Mach) (n : BitVec 16), s.catches →
    (Ready .s (.trap n) s m → Delivers (.trap n) s 0x1B (BitVec.ofNat 64 (n.toNat + 2 * 2 ^ 16))) ∧
    (Ready .s (.sysc n) s m → Delivers (.sysc n) s 0x1C (BitVec.ofNat 64 (n.toNat + 2 * 2 ^ 16)))

/-- R21: in supervisor mode, or with X.TVEC zero, a trap is not delivered: the task leaves the core, and the front end is told
the bundle, the iteration, the cause and its information. -/
def Obligations.UndeliverableTrapsStopTheTask : Prop :=
  ∀ (s : State) (m : Mach) (n : BitVec 16), Ready .s (.sysc n) s m → (m.t.x.sv = true ∨ m.t.x.tvec = 0) →
    ∃ t, exec (.sysc n) s = .next t ∧ (t.core s.cur).task = none ∧
      t.stops = s.stops ++
        [⟨s.cur, m.t.lid, m.t.x.tix.toNat, m.t.pc, 0, 0x1C, BitVec.ofNat 64 (n.toNat + 2 * 2 ^ 16)⟩]

/-- ERET in supervisor mode (R20, R81, R318, R321): the level, sticky and loop state are restored, the pc is X.EPC, the iteration
X.ERPT, and the next bundle issues three cycles later, where the shadow buffer replays from; with bit ENDW of X.ECAUSE set the
task waits in END again. At the bundle of a barrier at which the trap found the task its wait goes on as it was, met if the barrier
has completed meanwhile (R325). In iteration 0 nothing is decided yet, in a later one what the iterations before it decided stands. An
X.ERPT beyond the repeat count of the header at X.EPC is ILL_OPERAND with sub-code 4, which in supervisor mode stops the task
(R21). -/
def Obligations.EretReturns : Prop :=
  ∀ (s : State) (m : Mach), Ready .s .eret s m → m.t.x.sv = true → m.t.x.epc.toNat % 8 = 0 → m.t.x.epc.toNat < 0x40000 →
    let rep := (SMap.get 0 m.c.imem (m.t.x.epc.toNat / 8)).toNat / 2 ^ 34 % 2 ^ 8
    (m.t.x.erpt.toNat ≤ rep →
      ∃ u c t, exec .eret s = .next u ∧ u.core s.cur = c ∧ c.task = some t ∧ t.x.sv = m.t.x.psv ∧ t.pc = m.t.x.epc.toNat ∧
        t.iter = m.t.x.erpt.toNat ∧ t.flow = (if m.t.x.erpt = 0 then Flow.none else m.t.trapped.flow) ∧
        t.sticky = m.t.trapped.sticky ∧ t.loops = m.t.trapped.loops ∧ t.shadow = [] ∧ t.regs = m.t.regs ∧
        c.ready = s.cyc + 3 ∧ c.ended = m.t.x.ecause.getLsbD 10 ∧ u.mem = s.mem ∧ (m.t.held = none → c.wait = none) ∧
        (∀ h sc l g n w, m.t.held = some (h, w) → w.kind = .barg sc l g n → c.wait = if h = m.t.x.epc.toNat then
          some { w with met := w.met || m.t.bars.any fun b => b.sc == sc && b.n == n && b.met } else none) ∧
        ∀ r, r ∈ t.flight ↔ r ∈ m.t.flight ∨ ∃ x ∈ m.t.shadow, r = { x with due := s.cyc + 3 + x.due, seq := m.t.seq }) ∧
    (rep < m.t.x.erpt.toNat → ∃ t, exec .eret s = .next t ∧ (t.core s.cur).task = none ∧
      t.stops = s.stops ++ [⟨s.cur, m.t.lid, m.t.x.tix.toNat, m.t.pc, 0, 0x02, BitVec.ofNat 64 (4 * 2 ^ 60)⟩])

/-- In user mode ERET, TLBI, CTXS and CTXL trap PRIV with X.EINFO 0 (R81, R346, R352). -/
def Obligations.PrivilegedOperationsTrapInUserMode : Prop :=
  ∀ (s : State) (m : Mach), s.catches →
    (Ready .s .eret s m → Delivers .eret s 0x03 0) ∧
    (∀ f a, Ready .s (.tlbi f a) s m → Delivers (.tlbi f a) s 0x03 0) ∧
    (∀ a, Ready .k (.ctxs a) s m → Delivers (.ctxs a) s 0x03 0) ∧
    ∀ a, Ready .k (.ctxl a) s m → Delivers (.ctxl a) s 0x03 0

/-- The checks on the registers a syllable names trap ILL_OPERAND whatever the guard and the registers hold: a pair that starts at
an odd register with sub-code 1 (R8), a register beyond the task's budget, or a KALU with a budget below 64, with sub-code 2 (R27,
R84, R348), a special register that is absent, or read-only and written, with sub-code 3 (R11). That the odd pair's code goes before
the budget's (log 61), and that no stall delays these traps (log 22), is the model's choice. Under a true guard a bundle that reads
a poisoned scalar or row traps ECC_UNCORR with the address that it is poisoned by (R70, R131). -/
def Obligations.RegisterChecksTrap : Prop :=
  ∀ (s : State) (m : Mach), s.catches → s.settledWatches → (s.mach s.cur).map Mach.view = some m → m.t.iter = 0 →
    (m.t.sticky = StickySet.quiet ∨ m.t.x.ste = false) → ∀ (d a b : SReg) (r : BitVec 3) (n : BitVec 33) (x : BitVec 12),
    let ill (i : Instr) (sub : Nat) : Prop := Delivers i s 0x02 (BitVec.ofNat 64 (sub * 2 ^ 60))
    (d.toNat % 2 = 1 → ill (.ldp d a r n) 1 ∧ ill (.stp d a n) 1) ∧
    (d.toNat % 2 = 1 ∨ b.toNat % 2 = 1 → ill (.cas2 d a b) 1) ∧
    (m.t.budget.s ≤ d.toNat ∨ m.t.budget.s ≤ a.toNat ∨ m.t.budget.s ≤ b.toNat → ill (.add d a b) 2) ∧
    (m.t.budget.s < 64 → ∀ f, ill (.kalu d a f) 2) ∧
    (d.toNat < m.t.budget.s → xclass x.toNat = none → ill (.movx d x) 3 ∧ ill (.movxw x d) 3) ∧
    (d.toNat < m.t.budget.s → x.toNat ≤ 7 ∨ x.toNat = 0x22 → ill (.movxw x d) 3) ∧
    ((∀ t, s.running = some t → t.pend = []) → ∀ p,
      (d.toNat < m.t.budget.s → a.toNat < m.t.budget.s → b.toNat < m.t.budget.s → m.t.regs.spoison a.toNat = some p →
        Delivers (.add d a b) s 0x08 (BitVec.ofNat 64 p)) ∧
      ∀ (sl : VSlot) (c : VCom) (u v w : RowRef), let i := Instr.vadd sl c u v w
        staticCheck m.t.budget i = none → (sole (VSlot.slot sl) i m).meetsBusy m.c = false →
        (m.t.regs.row (64 * v.t.toNat + v.r.toNat)).poison = some p → Delivers i s 0x08 (BitVec.ofNat 64 p))

/-! ## Scalar operations (R58 to R81) -/

/-- The register and immediate operations of the S slot, HGET and KALU complete: the result of the rules, modulo 2^64, is in
flight to Sd, readable from issue plus the latency of R34 on, and nothing else of the machine changes (R59, R62, R63, R65,
R78, R348). -/
def Obligations.ScalarResults : Prop :=
  ∀ (i : Instr) (s : State) (m : Mach) (lat : Nat) (d : SReg) (v : Int), scalarResult m i = some (lat, d, v) →
    Ready (scalarSlot i) i s m →
    Completes (scalarSlot i) i s m fun n => n.onT fun t => t.fly (inFlight m lat d.toNat (BitVec.ofInt 64 v))

/-- R61, bit by bit: BEXT's result is the field of a that the descriptor in b names, zero-extended; BINS's is the old Sd with
that field replaced by the low bits of a. -/
def Obligations.BitFieldOperations : Prop :=
  ∀ (s : State) (m : Mach) (d a b : SReg),
    let A := m.t.regs.sreg a.toNat
    let B := (m.t.regs.sreg b.toNat).toNat
    let pos := B % 64
    let hi := Nat.min (pos + B / 256 % 64) 63
    (Ready .s (.bext d a b) s m → ∃ v : Word,
      Completes .s (.bext d a b) s m (fun n => n.onT fun t => t.fly (inFlight m 1 d.toNat v)) ∧
      ∀ j < 64, v.getLsbD j = (decide (pos + j ≤ hi) && A.getLsbD (pos + j))) ∧
    (Ready .s (.bins d a b) s m → ∃ v : Word,
      Completes .s (.bins d a b) s m (fun n => n.onT fun t => t.fly (inFlight m 1 d.toNat v)) ∧
      ∀ j < 64, v.getLsbD j = if pos ≤ j ∧ j ≤ hi then A.getLsbD (j - pos) else (m.t.regs.sreg d.toNat).getLsbD j)

/-- R60: with a divisor of zero DIV and REM trap DIV_ZERO and Sd is not marked; else Sd is pending until the quotient, rounded
toward zero, or the remainder, which has the dividend's sign, lands, at most 20 cycles later (how many is free, log 10). -/
def Obligations.DivisionAndRemainder : Prop :=
  ∀ (s : State) (m : Mach) (u q : Bool) (d a b : SReg),
    let i := if q then Instr.div u d a b else Instr.rem u d a b
    let A := m.t.regs.sreg a.toNat
    let B := m.t.regs.sreg b.toNat
    let x : Int := if u then A.toNat else A.toInt
    let y : Int := if u then B.toNat else B.toInt
    Ready .s i s m →
    (B = 0 → s.catches → Delivers i s 0x1D 0) ∧
    (B ≠ 0 → Finishes i s m fun n => ∃ k, 1 ≤ k ∧ k ≤ 20 ∧
      n.t = { (m.present .s i).t with seq := m.t.seq + 1, pend := m.t.pend ++
        [⟨.calc, [{ inFlight m 0 d.toNat (BitVec.ofInt 64 (if q then x.tdiv y else x - y * x.tdiv y)) with due := 0 }],
          s.cyc, s.cyc + k, none, none, m.t.seq⟩] } ∧
      n.c = (m.present .s i).c ∧ ∃ f, n.s = { m.s with fresh := f })

/-- CMP and CMPI write the condition to Pd and its negation to Pd+1 one cycle later (R64); PLOG writes the operation on two
predicates in the same way (R66). -/
def Obligations.ComparesAndPredicateLogic : Prop :=
  ∀ (s : State) (m : Mach) (d : PReg) (a b : SReg) (p q : PReg) (n : BitVec 33),
    let pair (i : Instr) (x : Bool) : Prop := Completes .s i s m fun r => r.onT fun t =>
      (t.fly ⟨.p d.toNat, if x then 1 else 0, 0, false, none, s.cyc + 1, 0⟩).fly
        ⟨.p (d.toNat + 1), if x then 0 else 1, 0, false, none, s.cyc + 1, 0⟩
    let A := m.t.regs.sreg a.toNat
    let P := m.t.regs.preg p.toNat
    let Q := m.t.regs.preg q.toNat
    (∀ c, Ready .s (.cmp c d a b) s m → ∃ x, pair (.cmp c d a b) x ∧ (x = true ↔ condTrue c A (m.t.regs.sreg b.toNat))) ∧
    (∀ c, Ready .s (.cmpi c d a n) s m → ∃ x, pair (.cmpi c d a n) x ∧ (x = true ↔ condTrue c A (BitVec.ofInt 64 n.toInt))) ∧
    (Ready .s (.plog .and d p q) s m → pair (.plog .and d p q) (P && Q)) ∧
    (Ready .s (.plog .or d p q) s m → pair (.plog .or d p q) (P || Q)) ∧
    (Ready .s (.plog .xor d p q) s m → pair (.plog .xor d p q) (Bool.xor P Q)) ∧
    (Ready .s (.plog .andn d p q) s m → pair (.plog .andn d p q) (P && !Q))

/-- Landing (R7, R9, R33): a result in flight to a scalar is in the register in the cycle it is due and not before; S0 stays
zero, and no other scalar changes. It poisons the register or clears its poison (R70); poison that goes before any trap has
delivered it is left for Fleus to log. A row takes the bytes its mask marks, its taint (R129) and, when every element is written, its
poison, which a partial write leaves set (R131); that of two poisons a partial poisoned load leaves the later, and logs the earlier,
is the model's choice (log 50). No other row changes. -/
def Obligations.ResultsLandOnTheirCycle : Prop :=
  ∀ (t : Task) (r : Result) (d lim : Nat), t.flight = [r] →
    let u := t.landFlight lim
    (lim ≤ r.due → u = t) ∧
    (r.due < lim → r.dest = .s d → u.flight = [] ∧ u.regs.sreg 0 = 0 ∧ u.regs.spoison 0 = none ∧
      (d ≠ 0 → u.regs.sreg d = r.val.setWidth 64 ∧ u.regs.spoison d = r.poison ∧
        u.logs = t.logs ++ (if d ∈ t.told then [] else (t.regs.spoison d).toList)) ∧
      ∀ e, e ≠ d → u.regs.sreg e = t.regs.sreg e ∧ u.regs.spoison e = t.regs.spoison e) ∧
    (r.due < lim → r.dest = .row d →
      let whole := r.mask = BitVec.allOnes 256
      let old := t.regs.row d
      u.flight = [] ∧ (∀ b, b < 256 → elemOf 8 (u.regs.row d).data b = elemOf 8 (if r.mask.getLsbD b then r.val else old.data) b) ∧
        (u.regs.row d).taint = r.taint ∧ (u.regs.row d).poison = (if whole ∨ r.poison.isSome = true then r.poison else old.poison) ∧
        u.logs = t.logs ++ (if whole ∨ r.poison.isSome = true ∧ r.poison ≠ old.poison then old.poison.toList else []) ∧
        ∀ e, e ≠ d → u.regs.row e = t.regs.row e)

/-- HMOV, HSET and HADV (R78): the handle in flight to Hd is the source, the old handle with one word replaced, or the old handle
with one origin moved modulo 2^24. TSHAPE (R79): the shape is written where the columns fit the row; else TILE_SHAPE names the
tile. -/
def Obligations.HandlesAndShapes : Prop :=
  (∀ (s : State) (m : Mach) (h g : HReg) (k : BitVec 2) (a : SReg),
     let fly (i : Instr) (v : Handle) : Prop := Completes .s i s m fun n => n.onT fun t =>
       t.fly ⟨.h h.toNat, v.setWidth 2048, 0, false, none, s.cyc + 1, 0⟩
     let H := m.t.regs.hreg h.toNat
     let A := m.t.regs.sreg a.toNat
     (Ready .s (.hmov h g) s m → fly (.hmov h g) (m.t.regs.hreg g.toNat)) ∧
     (Ready .s (.hset h k a) s m → ∃ v, fly (.hset h k a) v ∧
       ∀ j < 256, v.getLsbD j = if 64 * k.toNat ≤ j ∧ j < 64 * k.toNat + 64 then A.getLsbD (j - 64 * k.toNat) else H.getLsbD j) ∧
     (Ready .s (.hadv h k a) s m → ∃ v, fly (.hadv h k a) v ∧
       (v.toNat / 2 ^ (24 + 24 * k.toNat) % 2 ^ 24 = (H.toNat / 2 ^ (24 + 24 * k.toNat) + A.toNat) % 2 ^ 24) ∧
       ∀ j < 256, (j < 24 + 24 * k.toNat ∨ 48 + 24 * k.toNat ≤ j) → v.getLsbD j = H.getLsbD j)) ∧
  (∀ (s : State) (m : Mach) (t : Tile) (f : Fmt) (r : BitVec 6) (c : BitVec 10), Instr.wellFormed (.tshape t f r c) = true →
     Ready .s (.tshape t f r c) s m →
     ((c.toNat + 1) * f.bits ≤ 2048 → Finishes (.tshape t f r c) s m fun n =>
       n.t.regs.shape t.toNat = BitVec.ofNat 64 (f.toNat + 2 ^ 4 * r.toNat + 2 ^ 10 * c.toNat) ∧
       (∀ j, j ≠ t.toNat → n.t.regs.shape j = m.t.regs.shape j) ∧ n.t.regs.rows = m.t.regs.rows ∧ n.t.regs.s = m.t.regs.s ∧
       n.t.x = m.t.x ∧ n.s = m.s) ∧
     (2048 < (c.toNat + 1) * f.bits → s.catches → Delivers (.tshape t f r c) s 0x0B (BitVec.ofNat 64 t.toNat)))

/-- R11 for MOVX, and its results (R10, R77): a register of the table is read where the level allows, and lands one cycle
later; one of class SV traps PRIV in user mode; an absent number traps ILL_OPERAND with sub-code 3, which no stall delays (the
model's choice, log 22). -/
def Obligations.SpecialRegisterReads : Prop :=
  ∀ (s : State) (m : Mach) (d : SReg) (x : BitVec 12),
    (∀ v, (x.toNat, v) ∈ xvalues m (if m.t.x.sv then m.t.trapped.loops else m.t.loops) → Ready .s (.movx d x) s m →
      (x.toNat < 0x100 ∨ m.t.x.sv = true) →
      Completes .s (.movx d x) s m fun n => n.onT fun t => t.fly (inFlight m 1 d.toNat v)) ∧
    (m.t.parent = none → x.toNat = 0x022 → Ready .s (.movx d x) s m →
      Completes .s (.movx d x) s m fun n => n.onT fun t => t.fly (inFlight m 1 d.toNat m.t.x.dig)) ∧
    (0x100 ≤ x.toNat → m.t.x.sv = false → s.catches → Ready .s (.movx d x) s m →
      Delivers (.movx d x) s 0x03 (BitVec.ofNat 64 x.toNat)) ∧
    (xclass x.toNat = none → d.toNat < m.t.budget.s → s.catches → s.settledWatches → (s.mach s.cur).map Mach.view = some m →
      m.t.iter = 0 → (m.t.sticky = StickySet.quiet ∨ m.t.x.ste = false) →
      Delivers (.movx d x) s 0x02 (BitVec.ofNat 64 (3 * 2 ^ 60)))

/-- R11 and R13 for MOVXW, and its effect (R77): plain registers take the value at the end of the issue cycle; writes to X.STATUS
keep SV and DM; class SV and X.STATUS trap PRIV in user mode; a reserved bit of X.STATUS is ILL_OPERAND with sub-code 3, which in
supervisor mode, the only mode that may write it, stops the task (R21). X.LC of a level takes the value, X.LS and X.LE its bits
17:3, and these two trap LOOP_REG while the level is active (R76); in supervisor mode the saved levels are written, all of which
count as active (R322). A write to X.MLM, X.MLN or X.MLK recomputes X.MSP with DONEC 0; one to X.MSP replaces its bits 3:0 (R104). -/
def Obligations.SpecialRegisterWrites : Prop :=
  ∀ (s : State) (m : Mach) (x : BitVec 12) (a : SReg), Ready .s (.movxw x a) s m →
    let v := m.t.regs.sreg a.toNat
    (∀ y, (x.toNat, y) ∈ xwrites m.t.x v → (x.toNat < 0x100 ∨ m.t.x.sv = true) →
      Completes .s (.movxw x a) s m fun n => n.onT fun t => { t with x := y }) ∧
    (x.toNat = 0x023 → m.t.x.sv = true → v.toNat < 32 →
      Completes .s (.movxw x a) s m fun n => n.onT fun t =>
        { t with x := { m.t.x with psv := v.getLsbD 1, ste := v.getLsbD 3, te := v.getLsbD 4 } }) ∧
    (x.toNat = 0x023 → m.t.x.sv = true → 32 ≤ v.toNat →
      ∃ t, exec (.movxw x a) s = .next t ∧ (t.core s.cur).task = none ∧
        t.stops = s.stops ++ [⟨s.cur, m.t.lid, m.t.x.tix.toNat, m.t.pc, 0, 0x02, BitVec.ofNat 64 (3 * 2 ^ 60)⟩]) ∧
    (x.toNat = 0x023 → m.t.x.sv = false → s.catches → Delivers (.movxw x a) s 0x03 0x23) ∧
    (0x100 ≤ x.toNat → m.t.x.sv = false → s.catches → Delivers (.movxw x a) s 0x03 (BitVec.ofNat 64 x.toNat)) ∧
    (0x10 ≤ x.toNat → x.toNat ≤ 0x15 →
      let k := (x.toNat - 0x10) % 3
      let one := 0x13 ≤ x.toNat
      let cut := BitVec.ofNat 64 (v.toNat / 8 % 2 ^ 15 * 8)
      let put (l : Level) : Level := if k = 0 then { l with lc := v } else if k = 1 then { l with ls := cut } else { l with le := cut }
      let lp (l : Loops) : Loops := if one then { l with l1 := put l.l1 } else { l with l0 := put l.l0 }
      let live := if one then m.t.loops.l1.active else m.t.loops.l0.active
      (m.t.x.sv = false → k = 0 ∨ live = false →
        Completes .s (.movxw x a) s m fun n => n.onT fun t => { t with loops := lp t.loops }) ∧
      (m.t.x.sv = true → k = 0 →
        Completes .s (.movxw x a) s m fun n => n.onT fun t => { t with trapped := { t.trapped with loops := lp t.trapped.loops } }) ∧
      (m.t.x.sv = false → k ≠ 0 → live = true → s.catches → Delivers (.movxw x a) s 0x0C (if one then 1 else 0)) ∧
      (m.t.x.sv = true → k ≠ 0 → ∃ t, exec (.movxw x a) s = .next t ∧ (t.core s.cur).task = none ∧
        t.stops = s.stops ++ [⟨s.cur, m.t.lid, m.t.x.tix.toNat, m.t.pc, 0, 0x0C, if one then 1 else 0⟩])) ∧
    (0x18 ≤ x.toNat → x.toNat ≤ 0x1B →
      let o := m.t.mat
      let w := v.toNat % 65536
      let l : MatLoop := if x.toNat = 0x18 then { o with mlm := w } else if x.toNat = 0x19 then { o with mln := w } else { o with mlk := w }
      let msp := (if l.ik = 0 then 1 else 0) + (if l.ik + 1 = l.mlk then 2 else 0) +
        (if l.im < l.mlm ∧ l.mlm ≠ 0 ∧ l.mln ≠ 0 ∧ l.mlk ≠ 0 then 4 else 0)
      Completes .s (.movxw x a) s m fun n => n.onT fun t =>
        { t with mat := if x.toNat = 0x1B then { o with msp := v.toNat % 16 } else { l with msp := msp } })

/-- LD, LDP and LDC complete (R67, R68, R71): with nothing of the core under way to memory, the value, extended to
64 bits, is pending to Sd; it lands four cycles after issue at the earliest, later by a free time on a miss (log 10). LD and LDP
read the nearest cache that holds the line, or memory (R167, R175); LDP loads Sd and Sd+1; LDC, with nothing of the line in the
constant cache, reads below the L1 (R185). No register and no flag changes, and no byte of memory, but where a line of the L1 that
makes room is written back (R175). -/
def Obligations.LoadsComplete : Prop :=
  ∀ (s : State) (m : Mach) (sz : MSize) (d a : SReg) (r : BitVec 3) (off : BitVec 33) (pa : Nat) (na : Bool), Calm m →
    m.s.wholeLines →
    let ea := effAddr m a off
    let n := MSize.bytes sz
    let res (i : Nat) (v : Word) : Result := ⟨.s i, v.setWidth 2048, BitVec.allOnes 256, false, none, 0, 0⟩
    let loads (i : Instr) (rs : List Result) (keeps : Nat → Prop) : Prop := Finishes i s m fun u =>
      (∀ q, keeps q → u.s.byte q = m.s.byte q) ∧ SameRegs u m ∧ u.t.flight = m.t.flight ∧ u.c.stores = [] ∧
        ∃ lat, 4 ≤ lat ∧ u.t.pend = [⟨.ready, rs, s.cyc, s.cyc + lat, none, none, m.t.seq⟩]
    (Reaches m ea n true false pa na → Ready .s (.ld sz d a r off) s m →
      loads (.ld sz d a r off) [res d.toNat (loaded sz (littleEndian (nearByte m) pa n))] m.l1Clean) ∧
    (Reaches m ea 16 true false pa na → Ready .s (.ldp d a r off) s m →
      loads (.ldp d a r off) [res d.toNat (BitVec.ofNat 64 (littleEndian (nearByte m) pa 8)),
        res (d.toNat + 1) (BitVec.ofNat 64 (littleEndian (nearByte m) (pa + 8) 8))] m.l1Clean) ∧
    (m.c.cc = [] → Reaches m ea n true false pa na → Ready .s (.ldc sz d a off) s m →
      loads (.ldc sz d a off) [res d.toNat (loaded sz (littleEndian (clusterByte m.s (s.cur / 8)) pa n))] fun _ => True)

/-- ST and STP complete (R18, R68, R200): the store waits in the core's buffer with the low bytes of Sd, the least first, at the
physical address of the access; the core's own loads see it, and everything else as before. STP stores Sd and Sd+1. That a store
waits in a buffer, that the oldest performs first, and when a dirty line is written back, is the model's choice (log 21, DEDUCED);
the rules leave the order open. STORE_PERFORM takes the oldest store to the line of the L1 that holds it, which is dirty from then
on and changes nothing below (R175); else to the line of the cluster's cache, whose cores find its bytes there, or to memory where
that holds none; one to the scratchpad goes to its bank. Of other bytes memory changes none. A dirty line of the L1 that is due
goes down in the same way, and stays clean. -/
def Obligations.StoresCompleteAndPerform : Prop :=
  (∀ (s : State) (m : Mach) (sz : MSize) (d a : SReg) (off : BitVec 33) (pa : Nat) (na : Bool), Calm m → m.s.wholeLines →
     let ea := effAddr m a off
     let n := MSize.bytes sz
     let byte (r : Nat) (j : Nat) : Byte := BitVec.ofNat 8 ((m.t.regs.sreg r).toNat / 256 ^ j)
     let stores (i : Instr) (len : Nat) (b : Nat → Byte) : Prop := Finishes i s m fun u =>
       (∀ q, m.l1Clean q → u.s.byte q = m.s.byte q) ∧ u.t.regs = m.t.regs ∧ u.t.flight = m.t.flight ∧ u.t.pend = [] ∧
         (∃ bs, u.c.stores = [⟨pa, bs, none, s.cyc, false⟩] ∧ bs.length = len ∧ ∀ j < len, bs[j]? = some (some (b j))) ∧
         (∀ j < len, u.loadByte (pa + j) = b j) ∧
         ∀ p, (p < pa ∨ pa + len ≤ p) → regionOf p ≠ .peer → (p / 64 = pa / 64 ∨ m.cached (p / 64) = none ∧ m.l1Clean p) →
           u.loadByte p = nearByte m p
     (Instr.wellFormed (.st sz d a off) = true → Reaches m ea n false true pa na → Ready .s (.st sz d a off) s m →
       stores (.st sz d a off) n (byte d.toNat)) ∧
     (Reaches m ea 16 false true pa na → Ready .s (.stp d a off) s m →
       stores (.stp d a off) 16 fun j => if j < 8 then byte d.toNat j else byte (d.toNat + 1) (j - 8))) ∧
  (∀ (s : State) (k : Nat) (c : Core) (t : Task) (st : Store) (rest : List Store), s.settledWatches → s.wholeLines → s.core k = c →
     c.task = some t → c.stores = st :: rest → st.issue < s.cyc → k < 512 → st.pa % 64 + st.bytes.length ≤ 64 →
     (∀ j < st.bytes.length, regionOf (st.pa + j) = regionOf st.pa) →
     regionOf st.pa = .hbm ∨ regionOf st.pa = .lpddr ∨ regionOf st.pa = .scratch →
     let touched (p : Nat) : Prop := ∃ j b, st.bytes[j]? = some (some b) ∧ p = st.pa + j
     let line := st.pa / 64
     ∃ u, exec (.storePerform k) s = .next u ∧ (u.core k).stores = rest ∧ (u.core k).task = some t ∧
       (∀ x, regionOf st.pa ≠ .scratch → st.bytes ≠ [] → l1Find c.l1 line = some x → u.mem = s.mem ∧ u.ccache = s.ccache ∧
         ∃ y, l1Find (u.core k).l1 line = some y ∧ y.data = x.data ∧ y.since.isSome = true ∧
           ∀ j b, st.bytes[j]? = some (some b) → y.new[(st.pa + j) % 64]? = some (some b)) ∧
       (regionOf st.pa ≠ .scratch → l1Find c.l1 line = none →
         (∀ j b, st.bytes[j]? = some (some b) → clusterByte u (k / 8) (st.pa + j) = b) ∧
         (∀ p, ¬ touched p → regionOf p ≠ .rebuild → p / 64 = line ∨ ccFind (s.cc (k / 8)) (p / 64) = none →
           clusterByte u (k / 8) p = clusterByte s (k / 8) p) ∧
         ∀ p, regionOf p ≠ .rebuild → p / 64 ≠ line → u.byte p = s.byte p) ∧
       (regionOf st.pa = .scratch →
         (∀ j b, st.bytes[j]? = some (some b) → u.byte (st.pa + j) = b) ∧ ∀ p, ¬ touched p → u.byte p = s.byte p)) ∧
  (∀ (s : State) (k w : Nat) (c : Core) (t : Task) (x : L1Line), s.settledWatches → s.wholeLines → s.core k = c → c.task = some t →
     c.stores = [] → k < 512 → (w, x) ∈ c.l1 → x.since.isSome = true → x.due ≤ s.cyc → x.err = [] →
     (∀ e ∈ c.l1, e.2.since.isSome = true → e = (w, x)) → regionOf (64 * x.line) = .hbm ∨ regionOf (64 * x.line) = .lpddr →
     ∃ u, exec (.storePerform k) s = .next u ∧ (∀ e ∈ (u.core k).l1, e.2.since = none) ∧ (u.core k).task = some t ∧
       (∀ j b, j < 64 → x.new[j]? = some (some b) → clusterByte u (k / 8) (64 * x.line + j) = b) ∧
       ∀ p, regionOf p ≠ .rebuild → p / 64 ≠ x.line → u.byte p = s.byte p)

/-- R67, R71, R169, R170, R179, R231, R360: the checks of LD, LDP, LDC, ST, STP, AMO, CAS and CAS2 in user mode, in their order. An
address of 2^57 or more traps PAGE_FAULT, one that is no multiple of the size MEM_ALIGN, one in MMIO space, or in counter space for
any but LD.D, PROT; then an absent translation traps PAGE_FAULT and a denied one PROT; then a physical address that such a space, a
bank in another mode or a link without CXL.cache (the cause is the model's choice, log 70) refuses PROT, and a peer out of reach
LINK_DOWN. Nothing is read or written. -/
def Obligations.MisalignedAccessesTrap : Prop :=
  ∀ (s : State) (m : Mach) (sz : MSize) (o : AmoOp) (d a b : SReg) (r : BitVec 3) (off : BitVec 33), s.catches →
    let E := effAddr m a off
    let A := (m.t.regs.sreg a.toNat).toNat
    let n := MSize.bytes sz
    let checked (i : Instr) (ea al : Nat) (rd wr ctr : Bool) : Prop := Ready .s i s m →
      let trap (cause : Nat) : Prop := Delivers i s cause (BitVec.ofNat 64 ea)
      let bars (x : Nat) : Prop := regionOf x = .mmio ∨ regionOf x = .counter ∧ ctr = false
      (2 ^ 57 ≤ ea → trap 0x06) ∧
      (ea < 2 ^ 57 → ea % al ≠ 0 → trap 0x04) ∧
      (ea < 2 ^ 57 → ea % al = 0 → bars ea → trap 0x07) ∧
      (ea < 2 ^ 57 → ea % al = 0 → ¬ bars ea →
        (m.xlat ea rd wr = .absent → trap 0x06) ∧ (m.xlat ea rd wr = .denied → trap 0x07) ∧
        ∀ pa na, m.xlat ea rd wr = .ok pa na →
          (bars pa ∨ m.s.bankOk s.cur pa = false ∨ m.s.hostOff pa = true → trap 0x07) ∧
          (regionOf pa = .peer → peerPort m.s pa = none → Delivers i s 0x17 (BitVec.ofNat 64 (peerPort0 pa))))
    checked (.ld sz d a r off) E n true false (sz == .d) ∧ checked (.ldc sz d a off) E n true false false ∧
    checked (.ldp d a r off) E 16 true false false ∧ checked (.st sz d a off) E n false true false ∧
    checked (.stp d a off) E 16 false true false ∧ checked (.amo o d a b) A 8 true true false ∧
    checked (.cas d a b) A 8 true true false ∧ checked (.cas2 d a b) A 16 true true false

/-- AMO, CAS and CAS2 complete (R231 to R233): the atomic is on its way to its home with its operands; the old value comes back to
Sd, for CAS2 to Sd and Sd+1, later. No register has changed yet; of memory only the line of the access and dirty lines of the L1
may have, whose newer bytes reach the level below first (R18, R208). ATOMIC_PERFORM (R208, R232, R233): at
its home an AMO.ADD of 8 bytes replaces the value by the sum modulo 2^64, and its register will receive the old value; no other
byte changes. -/
def Obligations.Atomics : Prop :=
  (∀ (s : State) (m : Mach) (d a b : SReg) (pa : Nat) (na : Bool), Calm m → m.s.wholeLines →
     let S (k : Nat) : Nat := (m.t.regs.sreg k).toNat
     let ea := S a.toNat
     let sends (i : Instr) (src : PendSrc) (ds : List Nat) : Prop := Finishes i s m fun u =>
       (∀ q, q / 64 ≠ pa / 64 → m.l1Clean q → u.s.byte q = m.s.byte q) ∧
         ((∀ q, m.l1Clean q) → (∀ x ∈ m.s.cc (s.cur / 8), x.line = pa / 64 → x.since = none) → u.s.mem = m.s.mem) ∧
         SameRegs u m ∧ u.t.flight = m.t.flight ∧
         ∃ p, u.t.pend = [p] ∧ p.src = src ∧ p.res.map Result.dest = ds.map Dest.s ∧ p.issue = s.cyc ∧ s.cyc < p.due
     (∀ o, Reaches m ea 8 true true pa na → Ready .s (.amo o d a b) s m →
       sends (.amo o d a b) (.atomic (some o) ea pa 8 (S b.toNat) 0) [d.toNat]) ∧
     (Reaches m ea 8 true true pa na → Ready .s (.cas d a b) s m →
       sends (.cas d a b) (.atomic none ea pa 8 (S b.toNat) (S d.toNat)) [d.toNat]) ∧
     (Reaches m ea 16 true true pa na → Ready .s (.cas2 d a b) s m →
       sends (.cas2 d a b) (.atomic none ea pa 16 (S b.toNat + 2 ^ 64 * S (b.toNat + 1)) (S d.toNat + 2 ^ 64 * S (d.toNat + 1)))
         [d.toNat, d.toNat + 1])) ∧
  (∀ (s : State) (k va pa arg e due iss q : Nat) (r : Result) (c : Core) (t : Task), s.settledWatches → s.core k = c →
     c.task = some t → t.pend = [⟨.atomic (some .add) va pa 8 arg e, [r], iss, due, none, none, q⟩] → iss < s.cyc → arg < 2 ^ 64 →
     s.ccache = [] → (∀ e ∈ c.l1, e.2.line = pa / 64 → e.2.since = none) → s.err = [] → s.hbm.errs = [] → s.hbm.lost = [] → pa % 8 = 0 →
     regionOf pa = .hbm ∨ regionOf pa = .lpddr ∨ regionOf pa = .scratch →
     ∃ u v p, exec (.atomicPerform k 0) s = .next u ∧ (u.core k).task = some v ∧ v.pend = [p] ∧ p.src = .ready ∧
       p.res.map (fun x => x.val.toNat) = [littleEndian s.byte pa 8] ∧
       littleEndian u.byte pa 8 = (littleEndian s.byte pa 8 + arg) % 2 ^ 64 ∧
       ∀ q, (q < pa ∨ pa + 8 ≤ q) → u.byte q = s.byte q)

/-- Branches (R31, R38, R72, R73): BR and CALL go to the header's address plus 8 times the displacement, BRI and CALLI to the
register, RET to S31; the target issues three cycles after the branch; the calls put the next bundle's address in flight to
S31. -/
def Obligations.BranchesAndCalls : Prop :=
  ∀ (s : State) (m : Mach) (a : SReg) (d : BitVec 32),
    let good (n : Nat) : Prop := n % 8 = 0 ∧ n < 0x40000
    let rel := ((m.t.pc : Int) + 8 * d.toInt).toNat
    let A := (m.t.regs.sreg a.toNat).toNat
    let link (n : Mach) : Mach := n.onT fun t => t.fly (inFlight m 1 31 (BitVec.ofNat 64 (m.t.pc + 16)))
    m.t.pc < 0x40000 →
    (Ready .s (.br d) s m → 0 ≤ (m.t.pc : Int) + 8 * d.toInt → good rel →
      exec (.br d) s = .next ((m.present .s (.br d)).leave rel 3)) ∧
    (Ready .s (.bri a) s m → good A → exec (.bri a) s = .next ((m.present .s (.bri a)).leave A 3)) ∧
    (Ready .s (.call d) s m → 0 ≤ (m.t.pc : Int) + 8 * d.toInt → good rel →
      exec (.call d) s = .next ((link (m.present .s (.call d))).leave rel 3)) ∧
    (Ready .s (.calli a) s m → good A → exec (.calli a) s = .next ((link (m.present .s (.calli a))).leave A 3)) ∧
    (Ready .s .ret s m → good (m.t.regs.sreg 31).toNat →
      exec .ret s = .next ((m.present .s .ret).leave (m.t.regs.sreg 31).toNat 3)) ∧
    (Ready .s (.bri a) s m → A % 8 ≠ 0 → s.catches → Delivers (.bri a) s 0x04 (BitVec.ofNat 64 A))

/-- LOOP and LOOPI (R74, R76): a level that is inactive or spent takes the count, the next bundle as its start and the
displacement's bundle as its end, and is active unless the count is zero, which skips past the end bundle; the length taken from a
word there that is no header, or that its half does not hold, is the model's choice (log 62). An active level with a non-zero count
traps LOOP_REG. R75, the back-edge test: at the end bundle of an active level with a count above 1 control goes to the level's start and
the count falls by one; at a count of 1 or 0 the level ends, its count zero. Shown of the nop in the S slot. -/
def Obligations.Loops : Prop :=
  (∀ (s : State) (m : Mach) (lvl : Bool) (d : BitVec 20) (c : SReg) (n : BitVec 30),
     let le := m.t.pc + 8 * d.toNat
     let arm (count : Word) (t : Task) : Task :=
       let l : Level := ⟨count, BitVec.ofNat 64 (m.t.pc + 16), BitVec.ofNat 64 le, count != 0⟩
       { t with loops := if lvl then ⟨t.loops.l0, l, true⟩ else ⟨l, t.loops.l1, false⟩ }
     let old := if lvl then m.t.loops.l1 else m.t.loops.l0
     let C := m.t.regs.sreg c.toNat
     d ≠ 0 → le < 0x40000 → m.t.pc + 16 < 0x40000 → m.t.pc % 8 = 0 →
     let idle : Prop := old.active = false ∨ old.lc = 0
     let skips (i : Instr) : Prop := Ready .s i s m →
       exec i s = .next (((m.present .s i).onT (arm 0)).leave (le + bundleBytes m.c le) 3)
     (idle → C ≠ 0 → Ready .s (.loop lvl d c) s m →
       Completes .s (.loop lvl d c) s m fun r => r.onT (arm C)) ∧
     (idle → n ≠ 0 → Ready .s (.loopi lvl d n) s m →
       Completes .s (.loopi lvl d n) s m fun r => r.onT (arm (BitVec.ofNat 64 n.toNat))) ∧
     (idle → C = 0 → skips (.loop lvl d c)) ∧
     (idle → n = 0 → skips (.loopi lvl d n)) ∧
     (old.active = true → old.lc ≠ 0 → s.catches → ∀ i ∈ [Instr.loop lvl d c, .loopi lvl d n], Ready .s i s m →
       Delivers i s 0x0C (if lvl then 1 else 0))) ∧
  (∀ (s : State) (m : Mach) (l : Level), (s.mach s.cur).map Mach.view = some m → m.t.iter = 0 → m.t.flow = Flow.none →
     (m.t.sticky = StickySet.quiet ∨ m.t.x.ste = false) → s.settledWatches → m.t.loops.l1.active = false → m.t.loops.l0 = l →
     l.active = true → l.le.toNat = m.t.pc →
     ∃ u t, exec (.nop .s) s = .next u ∧ (u.core s.cur).task = some t ∧ t.regs = m.t.regs ∧ u.mem = m.s.mem ∧
       (1 < l.lc.toNat → t.pc = l.ls.toNat ∧ t.loops.l0 = { l with lc := l.lc - 1 }) ∧
       (l.lc.toNat ≤ 1 → t.pc = m.t.pc + 16 ∧ t.loops.l0 = { l with lc := 0, active := false }))

/-- TIDW, TIDR and TIDI (R191, R228 to R230): the table entry of the core's cluster is written at issue with the record of the
triple, read into a pending triple, or made invalid; an identifier above 4,095 traps TID_INVALID. TLBI in supervisor mode (R346):
the removal is under way, and the core's next bundle waits for it; it takes at most 4,000 cycles. No register changes. -/
def Obligations.TableOperationsAndTlbInvalidation : Prop :=
  (∀ (s : State) (m : Mach) (h : HReg) (a : SReg),
     let id := (m.t.regs.sreg a.toNat).toNat
     let cl := s.cur / 8
     let H (k : Nat) : Nat := (m.t.regs.hreg (h.toNat + k)).toNat
     let r : Record := BitVec.ofNat 768 (H 0 + 2 ^ 256 * H 1 + 2 ^ 512 * H 2)
     (id < 4096 → recordBad r = none → Ready .s (.tidw h a) s m → Finishes (.tidw h a) s m fun n =>
       n.s.tid cl id = some r ∧ (∀ c j, (c, j) ≠ (cl, id) → n.s.tid c j = m.s.tid c j) ∧ n.s.mem = m.s.mem ∧
       n.t = (m.present .s (.tidw h a)).t) ∧
     (4096 ≤ id → s.catches → Ready .s (.tidw h a) s m → Delivers (.tidw h a) s 0x0A (BitVec.ofNat 64 id)) ∧
     (∀ q, m.s.tid cl id = some q → Ready .s (.tidr h a) s m → Finishes (.tidr h a) s m fun n =>
       SameRegs n m ∧ n.s.tables = m.s.tables ∧ ∃ p, n.t.pend = m.t.pend ++ [p] ∧ s.cyc < p.due ∧
         p.res.map Result.dest = [.h h.toNat, .h (h.toNat + 1), .h (h.toNat + 2)] ∧
         (p.res.map fun x => x.val.toNat) = [q.toNat % 2 ^ 256, q.toNat / 2 ^ 256 % 2 ^ 256, q.toNat / 2 ^ 512 % 2 ^ 256]) ∧
     (id < 4096 → Ready .s (.tidi a) s m → Finishes (.tidi a) s m fun n =>
       n.s.tid cl id = none ∧ (∀ c j, (c, j) ≠ (cl, id) → n.s.tid c j = m.s.tid c j) ∧ n.t = (m.present .s (.tidi a)).t)) ∧
  (∀ (s : State) (m : Mach) (f : TlbiForm) (a : SReg), m.t.x.sv = true → Ready .s (.tlbi f a) s m →
     Finishes (.tlbi f a) s m fun n => SameRegs n m ∧ n.s.mem = m.s.mem ∧ ∃ k, 1 ≤ k ∧ k ≤ 4000 ∧
       n.c.fence = (m.present .s (.tlbi f a)).c.fence ++
         [.tlbi f (m.t.regs.sreg a.toNat) (m.t.x.ptb.toNat % 4096) (s.cyc + k)])


/-! ## Vector operations (R127 to R149) -/

/-- The element-wise vector operations complete (R34, R99, R130, R132, R137, R143): the active elements of the destination row are
in flight, each the function of the source elements of its number; inactive elements are not written. The row is tainted as its
sources, its lane predicate and what stays of it say (R129). An exact sum of zero is +0 unless both addends are −0: the model's
choice (log 75). VCMUL (R130): the real part is a_re × b_re − a_im × b_im and the imaginary part a_re × b_im + a_im × b_re, each
rounded once. -/
def Obligations.VectorElementwise : Prop :=
  (∀ (i : Instr) (s : State) (m : Mach) (sl : VSlot) (c : VCom) (lat : Nat) (d : RowRef) (srcs : List RowRef)
     (f : List Nat → Nat), vectorElem i = some (sl, c, lat, d, srcs, f) → i.wellFormed = true → Ready (VSlot.slot sl) i s m →
     RowResult (VSlot.slot sl) i s m c lat d (vecTaint m c srcs) fun e => f (srcs.map fun r => elemOf c.ty.bits (rowRead m r).data e)) ∧
  (∀ (s : State) (m : Mach) (sl : VSlot) (c : VCom) (d a b : RowRef), Instr.wellFormed (.vcmul sl c d a b) = true →
     Ready (VSlot.slot sl) (.vcmul sl c d a b) s m →
     let h := c.ty.bits / 2
     let p := partFmt c.ty
     let re (r : RowRef) (e : Nat) : FVal := decodeF p (elemOf c.ty.bits (rowRead m r).data e % 2 ^ h)
     let im (r : RowRef) (e : Nat) : FVal := decodeF p (elemOf c.ty.bits (rowRead m r).data e / 2 ^ h)
     RowResult (VSlot.slot sl) (.vcmul sl c d a b) s m c 5 d (vecTaint m c [a, b]) fun e =>
       roundF p (addF (mulF (re a e) (re b e)) (negF (mulF (im a e) (im b e)))) +
         2 ^ h * roundF p (addF (mulF (re a e) (im b e)) (mulF (im a e) (re b e))))

/-- VCMP, VICMP and VPLEN (R133, R135): the condition and its negation in the bytes of active elements. VICMP compares as two's
complement, or unsigned for .LTU, .LEU and UINT8; VPLEN's condition is that the element's number is below S[Sn]. VPLOG (R136): bit
by bit, under the lane predicate, Qd takes the operation on Qa and Qb and Qd+1 its negation. -/
def Obligations.VectorComparesAndPredicateLogic : Prop :=
  (∀ (s : State) (m : Mach) (sl : VSlot) (c : VCom) (d : PReg) (a b : RowRef) (n : SReg),
     let A (e : Nat) : Nat := elemOf c.ty.bits (rowRead m a).data e
     let B (e : Nat) : Nat := elemOf c.ty.bits (rowRead m b).data e
     let sg (x : Nat) : Int := if c.ty = 12 ∨ x < 2 ^ (c.ty.bits - 1) then x else x - 2 ^ c.ty.bits
     (∀ k, Instr.wellFormed (.vcmp sl c k d a b) = true → Ready (VSlot.slot sl) (.vcmp sl c k d a b) s m →
       MaskResult (VSlot.slot sl) (.vcmp sl c k d a b) s m c d (vecTaint m c [a, b]) fun e =>
         FCond.holds k (cmpF (decodeF c.ty (A e)) (decodeF c.ty (B e)))) ∧
     (∀ k, Instr.wellFormed (.vicmp sl c k d a b) = true → Ready (VSlot.slot sl) (.vicmp sl c k d a b) s m →
       MaskResult (VSlot.slot sl) (.vicmp sl c k d a b) s m c d (vecTaint m c [a, b]) fun e => match k with
         | .eq => decide (A e = B e)
         | .ne => decide (A e ≠ B e)
         | .lt => decide (sg (A e) < sg (B e))
         | .ltu => decide (A e < B e)
         | .le => decide (sg (A e) ≤ sg (B e))
         | .leu => decide (A e ≤ B e)) ∧
     (Instr.wellFormed (.vplen sl c d n) = true → Ready (VSlot.slot sl) (.vplen sl c d n) s m →
       MaskResult (VSlot.slot sl) (.vplen sl c d n) s m c d (vecTaint m c []) fun e => decide (e < (m.t.regs.sreg n.toNat).toNat))) ∧
  (∀ (s : State) (m : Mach) (sl : VSlot) (c : VCom) (o : LogOp) (d a b : PReg),
     Ready (VSlot.slot sl) (.vplog sl c o d a b) s m →
     let taint := m.t.x.te && vecTaint m c []
     ∃ v w, Completes (VSlot.slot sl) (.vplog sl c o d a b) s m (fun n => n.onT fun t =>
         (t.fly ⟨.q d.toNat, BitVec.setWidth 2048 (v : VMask), 0, taint, none, s.cyc + 2, 0⟩).fly
           ⟨.q (d.toNat + 1), BitVec.setWidth 2048 (w : VMask), 0, taint, none, s.cyc + 2, 0⟩) ∧
       ∀ k, k < 256 →
         let on := (m.t.regs.qreg c.q.toNat).getLsbD k != c.qn
         let x := (m.t.regs.qreg a.toNat).getLsbD k
         let y := (m.t.regs.qreg b.toNat).getLsbD k
         let z := match o with
           | .and => x && y
           | .or => x || y
           | .xor => x != y
           | .andn => x && !y
         v.getLsbD k = (on && z) ∧ w.getLsbD k = (on && !z))

/-- VSEL (R134), VBC (R137), VPERM and VROT (R139): VSEL writes the whole row, from a where active and from b elsewhere; VBC puts
the low bits of S[Sn] into active elements; VPERM takes the element that byte i of row b names; VROT rotates by S[Sn]. -/
def Obligations.VectorSelectsAndPermutes : Prop :=
  ∀ (s : State) (m : Mach) (sl : VSlot) (c : VCom) (d a b : RowRef) (n : SReg),
    let w := c.ty.bits
    let k := 2048 / w
    (Instr.wellFormed (.vsel sl c d a b) = true → Ready (VSlot.slot sl) (.vsel sl c d a b) s m → ∃ v,
      Completes (VSlot.slot sl) (.vsel sl c d a b) s m (fun n => n.onT fun t =>
        t.fly (rowInFlight m 3 d v (BitVec.allOnes 256) (m.t.x.te && vecTaint m c [a, b]))) ∧
      ∀ e, e < k → elemOf w v e = elemOf w (if laneOn m c (e * (w / 8)) then rowRead m a else rowRead m b).data e) ∧
    (Instr.wellFormed (.vbc sl c d n) = true → Ready (VSlot.slot sl) (.vbc sl c d n) s m →
      RowResult (VSlot.slot sl) (.vbc sl c d n) s m c 3 d (vecTaint m c []) fun _ => (m.t.regs.sreg n.toNat).toNat % 2 ^ w) ∧
    (Instr.wellFormed (.vperm sl c d a b) = true → Ready (VSlot.slot sl) (.vperm sl c d a b) s m →
      RowResult (VSlot.slot sl) (.vperm sl c d a b) s m c 4 d (vecTaint m c [a, b]) fun e =>
        elemOf w (rowRead m a).data (elemOf 8 (rowRead m b).data e % k)) ∧
    (Instr.wellFormed (.vrot sl c d a n) = true → Ready (VSlot.slot sl) (.vrot sl c d a n) s m →
      RowResult (VSlot.slot sl) (.vrot sl c d a n) s m c 4 d (vecTaint m c [a]) fun e =>
        elemOf w (rowRead m a).data (((e : Int) + (m.t.regs.sreg n.toNat).toInt) % k).toNat)

/-- VRED (R138) completes, whatever the lanes and the operation: the reduction of the active elements is element 0 of the
destination row in flight, every other element is 0. Integers: the sum of the elements or of their magnitudes modulo 2^w, or the
greatest or least, signed but for UINT8; with no active element 0, the type's least value, or its greatest. Floating point: the
exact sum of the elements or of their magnitudes rounded once, or the greatest or least, from the infinities that stand for no
element. -/
def Obligations.VectorReductions : Prop :=
  ∀ (s : State) (m : Mach) (sl : VSlot) (c : VCom) (d a : RowRef) (o : RedOp),
    Instr.wellFormed (.vred sl c o d a) = true → Ready (VSlot.slot sl) (.vred sl c o d a) s m →
    let w := c.ty.bits
    let xs := ((List.range (2048 / w)).filter fun e => laneOn m c (e * (w / 8))).map fun e => elemOf w (rowRead m a).data e
    let sg (x : Nat) : Int := if c.ty = 12 ∨ x < 2 ^ (w - 1) then x else x - 2 ^ w
    let vs := xs.map (decodeF c.ty)
    let taint := m.t.x.te && vecTaint m c [a]
    ∃ r, exec (.vred sl c o d a) s = .next ((m.present (VSlot.slot sl) (.vred sl c o d a)).onT fun t =>
        t.fly (rowInFlight m 6 d (BitVec.ofNat 2048 r) (BitVec.allOnes 256) taint)).retire ∧ r < 2 ^ w ∧
      (c.ty.inI = true →
        (o = .sum → r = xs.sum % 2 ^ w) ∧
        (o = .asum → r = (xs.map fun x => (sg x).natAbs).sum % 2 ^ w) ∧
        (o = .max → (xs = [] → sg r = if c.ty = 12 then 0 else -2 ^ (w - 1)) ∧ (xs ≠ [] → r ∈ xs ∧ ∀ x ∈ xs, sg x ≤ sg r)) ∧
        (o = .min → (xs = [] → sg r = if c.ty = 12 then 255 else 2 ^ (w - 1) - 1) ∧ (xs ≠ [] → r ∈ xs ∧ ∀ x ∈ xs, sg r ≤ sg x))) ∧
      (c.ty.inF = true → r = roundF c.ty (match o with
        | .sum => sumF vs
        | .asum => sumF (vs.map absF)
        | .max => vs.foldl maxF (.inf true)
        | .min => vs.foldl minF (.inf false)))

/-- VCVT, VQNT and VDQ (R116 to R121, R140 to R142): they complete with a row in flight to Td, tainted as R129 says, and beside it an
increment of X.QTROUB where elements were in trouble. VCVT takes part p of the source row when it widens and fills part p of the
destination when it narrows, each element converted (between INT8 and UINT8 saturation is the model's choice, log 74). VQNT writes
the row whole: each burst quantises the elements of its place, an inactive one as +0, a place past the last source element empty
(that a static NaN scale counts for a block without elements is the model's choice, log 53). VDQ decodes active elements alone; a bad
burst gives zeros and counts once. -/
def Obligations.VectorConversions : Prop :=
  ∀ (s : State) (m : Mach) (sl : VSlot) (c : VCom) (d a : RowRef) (f : Fmt) (p : BitVec 3) (k : Bool),
    let w := c.ty.bits
    let nd := 2048 / w
    let ns := 2048 / f.bits
    let A := (rowRead m a).data
    let act (e : Nat) : Bool := laneOn m c (e * (w / 8))
    let row (i : Instr) (v : Row) (mask : VMask) (srcs : List RowRef) (n : Nat) : Prop :=
      Completes (VSlot.slot sl) i s m fun u => u.onT fun t =>
        let t := t.fly (rowInFlight m 4 d v mask (rowTaint m d mask (vecTaint m c srcs)))
        if n = 0 then t else t.fly ⟨.trouble, BitVec.ofNat 2048 n, 0, false, none, s.cyc + 4, 0⟩
    (Instr.wellFormed (.vcvt sl c d a f p) = true → Ready (VSlot.slot sl) (.vcvt sl c d a f p) s m →
      let src (e : Nat) : Option Nat :=
        if nd ≤ ns then some (p.toNat * nd + e)
        else if p.toNat * ns ≤ e ∧ e < p.toNat * ns + ns then some (e - p.toNat * ns) else none
      let got (e : Nat) : Option (Nat × Nat) := if act e then (src e).map fun j => convert c.ty f (elemOf f.bits A j) else none
      ∃ v mask, row (.vcvt sl c d a f p) v mask [a] ((List.range nd).map fun e => ((got e).map Prod.snd).getD 0).sum ∧
        (∀ e x, e < nd → got e = some x → elemOf w v e = x.1) ∧
        ∀ b, b < 256 → mask.getLsbD b = (got (b / (w / 8))).isSome) ∧
    (Instr.wellFormed (.vqnt sl c k d a f) = true → Ready (VSlot.slot sl) (.vqnt sl c k d a f) s m →
      let per := perBurst c.ty
      let on (e : Nat) : Bool := (m.t.regs.qreg c.q.toNat).getLsbD (e * (f.bits / 8)) != c.qn
      let val (e : Nat) : Option FVal := if e < ns then some (if on e then decodeF f (elemOf f.bits A e) else .zero) else none
      let burst (j : Nat) : Nat × Nat := quantBurst c.ty (if k then some (elemOf 512 (rowRead m d).data j) else none)
        ((List.range per).map fun t => val (j * per + t))
      ∃ v, row (.vqnt sl c k d a f) v (BitVec.allOnes 256) (if k then [a, d] else [a]) ((List.range 4).map fun j => (burst j).2).sum ∧
        ∀ j, j < 4 → elemOf 512 v j = (burst j).1 ∧ elemOf 512 v j % 16 = c.ty.toNat ∧ elemOf 512 v j / 32 % 8 = 0) ∧
    (Instr.wellFormed (.vdq sl c d a f) = true → Ready (VSlot.slot sl) (.vdq sl c d a f) s m →
      let per := perBurst f
      let burst (j : Nat) : Nat := elemOf 512 A j
      let count (j : Nat) : Nat :=
        let es := (List.range nd).filter fun e => e / per == j && act e
        if badBurst f (burst j) then (if es.isEmpty then 0 else 1) else (es.map fun e => (burstElem f (burst j) (e % per)).2).sum
      ∃ v mask, row (.vdq sl c d a f) v mask [a] ((List.range 4).map count).sum ∧
        (∀ e, e < nd → act e = true → elemOf w v e =
          roundF c.ty (if badBurst f (burst (e / per)) then .zero else (burstElem f (burst (e / per)) (e % per)).1)) ∧
        ∀ j, j < 256 → mask.getLsbD j = laneOn m c j)

/-- VSNAP (R145) with a grid exponent in range rounds active elements to the grid, and leaves the taint of what it does not write (a
result of zero keeps its sign, DEDUCED, log 76); out of range it traps ILL_OPERAND with sub-code 4. VSPLIT (R144): in each group of 64
positions the k-th active element is paired with the k-th target from above; both take half its value, every other element is copied,
and the map takes the pairs in rising order, its unused entries all ones. A group with more than 32 channels, or with one among its
targets, traps ILL_OPERAND with sub-code 4. -/
def Obligations.SplitAndSnap : Prop :=
  ∀ (s : State) (m : Mach) (sl : VSlot) (c : VCom) (d a b : RowRef) (n : SReg),
    let g := (m.t.regs.sreg n.toNat).toInt
    let w := c.ty.bits
    let k := 2048 / w
    let A (e : Nat) : Nat := elemOf w (rowRead m a).data e
    let ss (h : Nat) : List Nat := ((List.range 64).map fun e => 64 * h + e).filter fun e => laneOn m c (e * (w / 8))
    let bad : Prop := ∃ h, h < k / 64 ∧ (32 < (ss h).length ∨ ∃ e ∈ ss h, 64 * h + 64 - (ss h).length ≤ e)
    let pairs : List (Nat × Nat) := (List.range (k / 64)).flatMap fun h => (ss h).zipIdx.map fun x => (x.1, 64 * h + 63 - x.2)
    let half (e : Nat) : Nat := roundF c.ty (mulF (decodeF c.ty (A e)) (.fin false 1 (-1)))
    (-149 ≤ g → g ≤ 127 → Instr.wellFormed (.vsnap sl c d a n) = true → Ready (VSlot.slot sl) (.vsnap sl c d a n) s m →
      RowResult (VSlot.slot sl) (.vsnap sl c d a n) s m c 4 d false fun e =>
        match decodeF c.ty (A e) with
        | .fin neg x j => roundF c.ty (.fin neg (rne x (j - g)) g)
        | v => roundF c.ty v) ∧
    (g < -149 ∨ 127 < g → s.catches → Ready (VSlot.slot sl) (.vsnap sl c d a n) s m →
      Delivers (.vsnap sl c d a n) s 0x02 (BitVec.ofNat 64 (4 * 2 ^ 60))) ∧
    (Instr.wellFormed (.vsplit sl c d a b) = true → Ready (VSlot.slot sl) (.vsplit sl c d a b) s m →
      (¬ bad → ∃ v u, Completes (VSlot.slot sl) (.vsplit sl c d a b) s m (fun n => n.onT fun t =>
          (t.fly (rowInFlight m 4 d v (BitVec.allOnes 256) (m.t.x.te && vecTaint m c [a]))).fly
            (rowInFlight m 4 b u (BitVec.allOnes 256) false)) ∧
        (∀ p ∈ pairs, elemOf w v p.1 = half p.1 ∧ elemOf w v p.2 = half p.1) ∧
        (∀ e, e < k → (∀ p ∈ pairs, p.1 ≠ e ∧ p.2 ≠ e) → elemOf w v e = A e) ∧
        ∀ j, j < 64 → elemOf 32 u j = match pairs[j]? with
          | some p => p.1 + 2 ^ 16 * p.2
          | none => 2 ^ 32 - 1) ∧
      (bad → s.catches → Delivers (.vsplit sl c d a b) s 0x02 (BitVec.ofNat 64 (4 * 2 ^ 60))))

/-- VLD, VLDS and VST complete (R129, R146 to R149): with every lane active VLD puts the 256 bytes at the address in flight to the row,
VLDS its one element in every place, and VST puts the row into the store buffer, 64 bytes at a time; the address is S[base] plus
64 times the offset. A load reads the nearest cache that holds the line, or memory (R175), and takes the taint of the scratchpad
granules that it reads; a store carries that of its row. Tainted data that a D-mode task stores beyond the scratchpads traps DET_TAINT.
Of memory only a line of the L1 that makes room changes. Under no active lane they do nothing. -/
def Obligations.VectorMemory : Prop :=
  ∀ (s : State) (m : Mach) (f : VMemF) (ty : Fmt) (r : BitVec 3) (pa : Nat) (na : Bool), Calm m → m.s.wholeLines →
    let ea := (m.t.regs.sreg f.base.toNat + BitVec.ofInt 64 (64 * f.off.toInt)).toNat
    let on := m.t.regs.qreg f.q.toNat = if f.qn then 0 else BitVec.allOnes 256
    let flat := ∀ j, j < 4 → isScratch (ea + 64 * j) = isScratch ea
    let off := m.t.regs.qreg f.q.toNat = if f.qn then BitVec.allOnes 256 else 0
    let granule (j : Nat) : Bool := regionOf (pa + 64 * j) == .scratch && m.s.taintAt (pa + 64 * j)
    let loads (i : Instr) (tn : Bool) (P : Row → Prop) : Prop := Finishes i s m fun u =>
      (∀ q, m.l1Clean q → u.s.byte q = m.s.byte q) ∧ SameRegs u m ∧ u.t.flight = m.t.flight ∧ u.c.stores = [] ∧
        ∃ p v, u.t.pend = [p] ∧ s.cyc + 6 ≤ p.due ∧ p.res.map (fun x => (x.dest, x.val, x.mask, x.taint, x.poison)) =
            [(Dest.row (64 * f.d.t.toNat + f.d.r.toNat), v, BitVec.allOnes 256,
              m.t.x.te && (m.t.regs.qtaint f.q.toNat || tn), none)] ∧ P v
    let tn := m.t.x.te && (m.t.regs.qtaint f.q.toNat || (rowRead m f.d).taint)
    (∀ i ∈ [Instr.vld f r, .vst f, .vlds f ty r], i.wellFormed = true → off → Ready .v0 i s m →
      Completes .v0 i s m id) ∧
    (on → flat → (∀ j, j < 4 → Reaches m (ea + 64 * j) 64 true false (pa + 64 * j) na) → Ready .v0 (.vld f r) s m →
      loads (.vld f r) ((List.range 4).any granule) fun v => ∀ b, b < 256 → elemOf 8 v b = (nearByte m (pa + b)).toNat) ∧
    (on → ty.inW = true → Reaches m ea (ty.bits / 8) true false pa na → Ready .v0 (.vlds f ty r) s m →
      loads (.vlds f ty r) (granule 0) fun v =>
        ∀ e, e < 2048 / ty.bits → elemOf ty.bits v e = littleEndian (nearByte m) pa (ty.bits / 8)) ∧
    (on → flat → (∀ j, j < 4 → Reaches m (ea + 64 * j) 64 false true (pa + 64 * j) na) → Ready .v0 (.vst f) s m →
      (m.t.x.dm = false ∨ tn = false ∨ (∀ j, j < 4 → regionOf (pa + 64 * j) = .scratch) → Finishes (.vst f) s m fun u =>
        (∀ q, m.l1Clean q → u.s.byte q = m.s.byte q) ∧ u.t.regs = m.t.regs ∧ u.t.flight = m.t.flight ∧ u.t.pend = [] ∧
        (∀ b, b < 256 → (u.loadByte (pa + b)).toNat = elemOf 8 (rowRead m f.d).data b) ∧ (∀ st ∈ u.c.stores, st.taint = some tn) ∧
        ∀ p, (p < pa ∨ pa + 256 ≤ p) → regionOf p ≠ .peer → m.cached (p / 64) = none → m.l1Clean p → u.loadByte p = m.s.byte p) ∧
      (m.t.x.dm = true → tn = true → (∃ j, j < 4 ∧ regionOf (pa + 64 * j) ≠ .scratch) → s.catches →
        Delivers (.vst f) s 0x13 (BitVec.ofNat 64 ea)))

/-! ## Matrix operations (R102 to R107, R150 to R157) -/

/-- MCFG, MZERO, MFIN, MTRN and MDUP complete. MCFG (R103, R151), with nothing in the array, takes the configuration and sets the
three indices to zero. MZERO, MFIN and MTRN keep their tiles busy and will write the rows named, 4, 8 and 16 cycles after issue
(R154 to R156): zeros; the elements converted; each block of 64 columns transposed. MDUP (R157) unbinds, or binds the map, read as
the core reads memory (R172), and the scales of the record, ceil(D / 32) cycles after it first had only itself to wait for. No
register changes at issue. -/
def Obligations.MatrixOperations : Prop :=
  ∀ (s : State) (m : Mach) (tc td : Tile), Calm m →
    let keeps (i : Instr) (P : Mach → Prop) : Prop :=
      Finishes i s m fun n => n.t.regs = m.t.regs ∧ n.t.x = m.t.x ∧ n.s.mem = m.s.mem ∧ n.t.pend = [] ∧ P n
    let writes (i : Instr) (ts : List Nat) (lat : Nat) (rows : List (Nat × RowCell)) : Prop :=
      keeps i fun n => ∃ kind k, n.c.mops = m.c.mops ++ [⟨m.t.uid, kind, ts, rows, k, s.cyc + lat, m.t.seq⟩]
    let cell (t : Tile) (r : Nat) : RowCell := m.t.regs.row (64 * t.toNat + r)
    let shape (t : Tile) : Nat := (m.t.regs.shape t.toNat).toNat
    (∀ a, let v := (m.t.regs.sreg a.toNat).toNat;
      Ready .m (.mcfg a) s m →
      (v < 2 ^ 14 → 2 ^ 10 ≤ v → m.c.steps = [] → keeps (.mcfg a) fun n =>
        n.t.mat.cfg = v ∧ n.t.mat.ik = 0 ∧ n.t.mat.inn = 0 ∧ n.t.mat.im = 0 ∧ n.t.mat.mlm = m.t.mat.mlm ∧
          n.t.mat.mln = m.t.mat.mln ∧ n.t.mat.mlk = m.t.mat.mlk) ∧
      (v < 2 ^ 10 ∨ 2 ^ 14 ≤ v → s.catches → Delivers (.mcfg a) s 0x02 (BitVec.ofNat 64 (4 * 2 ^ 60)))) ∧
    (m.c.mopFull 0 = false → Ready .m (.mzero tc) s m → ∃ rows, writes (.mzero tc) [tc.toNat] 4 rows ∧ rows.length = 64 ∧
      ∀ r, r < 64 → rows[r]? = some (64 * tc.toNat + r, RowCell.zero)) ∧
    (∀ f : Fmt, let n := shape tc / 16 % 64 + 1;
      Instr.wellFormed (.mfin f td tc) = true → shape tc % 16 = 1 ∨ shape tc % 16 = 7 → m.c.mopFull 1 = false →
      (∀ r, r < 64 → (cell tc r).poison = none) → Ready .m (.mfin f td tc) s m →
      ∃ rows, writes (.mfin f td tc) [tc.toNat, td.toNat] 8 rows ∧ rows.length = n ∧
        ∀ r, r < n → ∃ c, rows[r]? = some (64 * td.toNat + r, c) ∧ c.taint = (m.t.x.te && (cell tc r).taint) ∧
          (∀ e, e < 64 → elemOf f.bits c.data e =
            (convert1 f (BitVec.ofNat 4 (shape tc % 16)) (elemOf 32 (cell tc r).data e)).1) ∧
          c.data.toNat < 2 ^ (64 * f.bits)) ∧
    (let f : Fmt := BitVec.ofNat 4 (shape tc % 16);
      f.bits ≠ 0 → f ≠ 13 → m.c.mopFull 2 = false → (∀ r, r < 64 → (cell tc r).poison = none) → Ready .m (.mtrn td tc) s m →
      ∃ rows, writes (.mtrn td tc) [tc.toNat, td.toNat] 16 rows ∧ rows.length = 64 ∧
        ∀ r, r < 64 → ∃ c, rows[r]? = some (64 * td.toNat + r, c) ∧
          ∀ j k, 64 * j < 2048 / f.bits → k < 64 → elemOf f.bits c.data (64 * j + k) = elemOf f.bits (cell tc k).data (64 * j + r)) ∧
    (∀ h : HReg, let v := m.t.regs.hreg h.toNat;
      handleBad v false = false → Ready .m (.mdup h) s m →
      (hKind v = 0 → keeps (.mdup h) fun n => n.t.bind = MBind.none) ∧
      ∀ r (pa : Nat → Nat) (na : Nat → Bool), hKind v ≠ 0 → m.s.tid (s.cur / 8) (hId v) = some r → recDcnt r ≤ 256 → recDmap r % 4 = 0 →
        (recScaled r = true → (recSfmt r = 0x10 ∨ recSfmt r = 0x11) ∧ recSlog r = 5 ∧ ownScratch m (recSbase r) 1 = true) →
        (recDcnt r ≠ 0 → ownScratch m (recDmap r) (4 * recDcnt r) = true) →
        (∀ i, i < recDcnt r → Reaches m (recDmap r + 4 * i) 4 true false (pa i) (na i)) →
        m.c.mdup.getD s.cyc + (recDcnt r + 31) / 32 ≤ s.cyc →
        let e (i : Nat) : Nat := littleEndian (nearByte m) (pa i) 4
        (∀ i j, i < j → j < recDcnt r → e i / 65536 ≠ e j / 65536) →
        (∀ i, i < recDcnt r → e i % 65536 / 64 = e i / 65536 / 64) →
        keeps (.mdup h) fun n => n.t.bind.scaled = recScaled r ∧ n.t.bind.sbase = recSbase r ∧ n.t.bind.sfmt = recSfmt r ∧
          n.t.bind.map.length = recDcnt r ∧ ∀ i, i < recDcnt r → n.t.bind.map[i]? = some (e i % 65536, e i / 65536))

/-- MSTEP (R105, R106, R152): without LIVE it has no effect. With LIVE, its resolved tiles within the budget, distinct, of the
formats of R102 and unscaled, it enters the array queue with what R105 resolves, and the loop state advances; no register changes
at issue. ARRAY_STEP_START then has the oldest waiting step read A and B and hold the array for 32 cycles, and ARRAY_STEP_WRITE,
40 cycles after that start, takes the step out of the array and writes rows of its C alone. -/
def Obligations.MatrixSteps : Prop :=
  (∀ (s : State) (m : Mach) (v : MVar) (tc ta tb : Tile), Calm m → Ready .m (.mstep v tc ta tb) s m →
    let l := m.t.mat
    let p := MVar.spec v
    let a := ta.toNat + (l.im * ((l.mlk + p.kpa - 1) / p.kpa) + l.ik / p.kpa) % (l.cfg % 8 + 1)
    let b := tb.toNat + (l.inn * ((l.mlk + p.kpb - 1) / p.kpb) + l.ik / p.kpb) % (l.cfg / 8 % 8 + 1)
    let c := tc.toNat + (l.im * l.mln + l.inn) % (l.cfg / 64 % 8 + 1)
    let fmt (t : Nat) : Nat := (m.t.regs.shape t).toNat % 16
    let usable (t : Nat) : Prop := t < 24 ∧ t < m.t.budget.t ∧ m.c.opBusy t = false ∧
      ∀ r, r < 64 → (m.t.regs.row (64 * t + r)).poison = none
    (l.msp / 4 % 2 = 0 → Completes .m (.mstep v tc ta tb) s m id) ∧
    (l.msp / 4 % 2 = 1 → (∀ t ∈ [a, b, c], usable t) → c ≠ a → c ≠ b → fmt a = p.fa.toNat → fmt b = p.fb.toNat →
      fmt c = p.fc.toNat → m.t.bind.scaled = false → m.c.steps.countP (fun q => q.start.isNone) < 2 →
      Finishes (.mstep v tc ta tb) s m fun n => SameRegs { n with t := { n.t with mat := l } } m ∧ n.s.mem = m.s.mem ∧
        (∃ st, n.c.steps = m.c.steps ++ [st] ∧ st.var = v ∧ st.a = a ∧ st.b = b ∧ st.c = c ∧ st.ablk = l.ik % p.kpa ∧
          st.bblk = l.ik % p.kpb ∧ st.quarters = (if l.msp / 2 % 2 = 1 then l.cfg / 1024 % 16 else 15) ∧
          st.zeroC = (l.msp % 2 == 1 && l.cfg / 512 % 2 == 1) ∧ st.issue = s.cyc ∧ st.start = none) ∧
        n.t.mat.ik = (if l.ik + 1 = l.mlk then 0 else l.ik + 1) ∧
        n.t.mat.inn = (if l.ik + 1 = l.mlk then (if l.inn + 1 = l.mln then 0 else l.inn + 1) else l.inn) ∧
        n.t.mat.im = (if l.ik + 1 = l.mlk ∧ l.inn + 1 = l.mln then l.im + 1 else l.im)) ∧
    (l.msp / 4 % 2 = 1 → s.catches → 24 ≤ c → Delivers (.mstep v tc ta tb) s 0x02 (BitVec.ofNat 64 (2 * 2 ^ 60)))) ∧
  (∀ (s : State) (k : Nat) (st : MStepRec) (rest : List MStepRec), s.settledWatches → (s.core k).steps = st :: rest →
    (st.start = none → st.issue < s.cyc → (s.core k).arrayFree ≤ s.cyc → ∃ x : MStepRec,
      exec (.arrayStepStart k) s =
        .next (s.setCore k { s.core k with steps := { st with start := some s.cyc, ra := x.ra, rb := x.rb, taint := x.taint } :: rest
                                           arrayFree := s.cyc + 32 }) ∧
      ∀ t, (s.core k).task = some t → t.uid = st.uid → t.flight = [] →
        x.ra = (List.range (st.rowsA + 1)).map (fun r => (t.regs.row (64 * st.a + r % 64)).data) ∧
        x.rb = (List.range (st.rowsB + 1)).map (fun r => (t.regs.row (64 * st.b + r % 64)).data)) ∧
    (∀ b t, st.start = some b → b + 40 ≤ s.cyc → (s.core k).task = some t → t.uid = st.uid → t.logs = [] → st.rowsA < 64 →
      (∀ r, r < 64 → (t.regs.row (64 * st.c + r)).poison = none) →
      ∃ u v, exec (.arrayStepWrite k) s = .next u ∧ (u.core k).steps = rest ∧ u.mem = s.mem ∧ (u.core k).task = some v ∧
        v.regs.s = t.regs.s ∧ v.regs.p = t.regs.p ∧ v.regs.q = t.regs.q ∧ v.regs.h = t.regs.h ∧ v.regs.ts = t.regs.ts ∧ v.pc = t.pc ∧
        v.mat = t.mat ∧ (∀ i, (i < 64 * st.c ∨ 64 * st.c + st.rowsA < i) → v.regs.row i = t.regs.row i) ∧
        ∀ r, r ≤ st.rowsA → v.regs.row (64 * st.c + r) = (stepRow st r (t.regs.row (64 * st.c + r))).1))

/-! ## Copy operations (R196 to R198, R209 to R227, R244) -/

/-- The C operations complete at issue by entering their queue behind the operations already there, with what they took, waiting to
start (R215, R216): their views are of tensors that the cluster's table holds, and the conditions of their own entries hold.
No register changes at issue but the promise, at issue + 1, and a window's handle; of memory only what the core's L1 and its
cluster's cache held newer bytes of, which reach their home first (R209). FPUSH has read its rows; FPOP takes the oldest rows of the
bank, which are pending until issue + 8, when its counter rises (R226); in D-mode it joins its queue too, and its counter rises at P
(R245). -/
def Obligations.CopyOperations : Prop :=
  ∀ (s : State) (m : Mach) (sl : CSlot) (hd hs hx : HReg) (e : PrmCnt) (st : StepF) (rd rs rx : Record), Calm m → m.s.wholeLines →
    m.cqLoad sl < 256 →
    let H (h : HReg) : Handle := m.t.regs.hreg h.toNat
    let slot := CSlot.slot sl
    let other (c : Core) : List CopyOp := match sl with
      | .c0 => c.cq1
      | .c1 => c.cq0
    let ctr (c : SReg) : Option Nat := if c = 0 then none else some ((m.t.regs.sreg c.toNat).toNat % 65536)
    let view (h : HReg) (r : Record) : Prop :=
      handleBad (H h) true = false ∧ hKind (H h) ≠ 2 ∧ m.s.tid (s.cur / 8) (hId (H h)) = some r
    let queued (i : Instr) (c : SReg) (P : CopyOp → Mach → Prop) : Prop := Ready slot i s m → Finishes i s m fun n =>
      n.t.regs = m.t.regs ∧ n.t.x = m.t.x ∧ other n.c = other m.c ∧
        (∀ p, m.clean p → n.s.byte p = m.s.byte p) ∧
        ∃ o, n.c.cq sl = m.c.cq sl ++ [o] ∧ o.op = i ∧ o.stage = .queued ∧ o.issue = s.cyc ∧ o.uid = m.t.uid ∧ o.ctr = ctr c ∧ P o n
    let moves (i : Instr) (P : CopyOp → Prop) : Prop := queued i e.cnt fun o n =>
      (if e.prm = 0 then n.t.flight = m.t.flight
       else n.t.flight = insertDue { inFlight m 1 e.prm.toNat (if o.held then 0 else BitVec.ofNat 64 o.due) with seq := m.t.seq } m.t.flight) ∧ P o
    let pair (o : CopyOp) : Prop := o.hd = H hd ∧ o.hs = H hs ∧ o.rd = rd ∧ o.rs = rs
    let same := sameExt (H hd) rd (H hs) rs = true
    let even (x : Nat) : Prop := x % 2 = 0
    (view hd rd → view hs rs →
      (recFmt rd = recFmt rs → same → moves (.cpy sl hd hs e st) pair) ∧
      (∀ k, Fmt.inN (recFmt rd) = true → Fmt.inF (recFmt rs) = true → packedBad (H hd) rd = false → same →
        moves (.cpyq sl k hd hs e st) pair) ∧
      (Fmt.inN (recFmt rs) = true → Fmt.inF (recFmt rd) = true → packedBad (H hs) rs = false → same →
        moves (.cpyd sl hd hs e st) pair) ∧
      (∀ o, recFmt rd = recFmt rs → recFmt rd = (if o = .f32 ∨ o = .max then 1 else 7) → same →
        (o = .i64 → even (hOrg (H hd) 0) ∧ even (hOrg (H hs) 0) ∧ even (hExt (H hd) 0) ∧ even (hExt (H hs) 0)) →
        moves (.cpyr sl o hd hs e st) pair)) ∧
    (view hd rd → view hs rs → view hx rx → recRank rx = 1 → recFmt rx = 7 → recFmt rd = recFmt rs →
      effExt (H hd) rd 2 = 1 → effExt (H hd) rd 3 = 1 → effExt (H hs) rs 2 = 1 → effExt (H hs) rs 3 = 1 →
      effExt (H hd) rd 0 = effExt (H hs) rs 0 →
      (effExt (H hs) rs 1 = hExt (H hx) 0 →
        moves (.cgat sl hd hs hx e st) fun o => pair o ∧ o.hx = H hx ∧ o.rx = rx) ∧
      (effExt (H hd) rd 1 = hExt (H hx) 0 →
        moves (.csct sl hd hs hx e st) fun o => pair o ∧ o.hx = H hx ∧ o.rx = rx)) ∧
    (∀ step sdim, view hd rd → moves (.cfill sl hd e step sdim) fun o => o.hd = H hd ∧ o.rd = rd) ∧
    (∀ step sdim, view hs rs → queued (.cpref sl hs e.cnt step sdim) e.cnt (fun o n => n.t.flight = m.t.flight ∧ o.hs = H hs) ∧
      queued (.cflush sl hs e.cnt step sdim) e.cnt (fun o n => n.t.flight = m.t.flight ∧ o.hs = H hs)) ∧
    (let w := openHandle (H hd) (H hs);
      handleBad (H hd) false = false → hKind (H hd) ≠ 2 → view hs rs → ringBad m.t sl w rs = false →
      queued (.wopen sl hd hs e) e.cnt fun o n => o.hd = w ∧ o.first = 0 ∧ o.count = hRrows w ∧
        n.t.wins sl = m.t.wins sl ++ [⟨w, H hs, rs, hRrows w, false⟩] ∧
        ∃ r ∈ n.t.flight, r.dest = .h hd.toNat ∧ r.due = s.cyc + 1 ∧ r.val = BitVec.setWidth 2048 w) ∧
    (∀ k w, handleBad (H hd) false = false → findWin m.t sl (H hd) = some w → k.toNat ≤ hRrows (H hd) →
      queued (.wadv sl hd k e) e.cnt fun o n => o.hd = w.hw ∧ o.first = w.next ∧ o.count = k.toNat ∧
        (∃ y ∈ n.t.wins sl, sameRing y.hw w.hw = true ∧ y.next = w.next + k.toNat) ∧
        ∃ r ∈ n.t.flight, r.dest = .h hd.toNat ∧ r.due = s.cyc + 1 ∧
          r.val.toNat / 2 ^ 216 % 2 ^ 16 = (hRhead (H hd) + k.toNat) % hRrows (H hd)) ∧
    (∀ w, handleBad (H hd) false = false → findWin m.t sl (H hd) = some w →
      queued (.wclose sl hd e.cnt) e.cnt fun o n => n.t.flight = m.t.flight ∧ o.hd = w.hw ∧ n.t.wins sl = m.t.wins sl) ∧
    ∀ (t : Tile) (r n1 : BitVec 6) (bank : BitVec 4),
      let no := s.cur / 8 * 16 + bank.toNat
      let len := n1.toNat + 1
      (∀ mode, bank.toNat < 12 → queued (.cbank sl bank mode) 0 fun _ n => n.t.flight = m.t.flight ∧ n.s.banks = m.s.banks) ∧
      ((m.s.bank no).mode = .fifo → (m.s.bank no).fifo.length + fifoComing m.s no + len ≤ fifoRoom m.s no →
        queued (.fpush sl t r n1 bank e.cnt) e.cnt fun o n => n.t.flight = m.t.flight ∧ n.s.banks = m.s.banks ∧
          o.rows = (List.range len).map fun j => m.t.regs.row (64 * t.toNat + (r.toNat + j) % 64)) ∧
      ((m.s.bank no).mode = .fifo → len ≤ (m.s.bank no).fifo.length → m.c.cq sl = [] → (∀ b, (m.s.bank b).back = false) →
        let pops (n : Mach) : Prop := n.t.flight = m.t.flight ∧ (n.s.bank no).fifo = (m.s.bank no).fifo.drop len ∧
          ∃ p, n.t.pend = [p] ∧ p.due = s.cyc + 8 ∧ p.fpop = some sl ∧
            p.res.map (fun x => (x.dest, x.val, x.taint)) = (List.range len).map fun j =>
              (Dest.row (64 * t.toNat + (r.toNat + j) % 64), ((m.s.bank no).fifo.getD j RowCell.zero).data,
                ((m.s.bank no).fifo.getD j RowCell.zero).taint)
        (m.t.x.dm = false → Ready slot (.fpop sl t r n1 bank e.cnt) s m → Finishes (.fpop sl t r n1 bank e.cnt) s m fun n =>
          SameRegs n m ∧ n.s.mem = m.s.mem ∧ pops n ∧ n.s.adds = m.s.adds ++ (match ctr e.cnt with
            | none => []
            | some c => [⟨c, 1, s.cur, m.t.uid, s.cyc + 7, 0, false⟩])) ∧
        (m.t.x.dm = true → queued (.fpop sl t r n1 bank e.cnt) e.cnt fun _ n => pops n ∧ n.s.adds = m.s.adds)) ∧
      ((m.s.bank no).mode ≠ .fifo → s.catches → Ready slot (.fpush sl t r n1 bank e.cnt) s m →
        Delivers (.fpush sl t r n1 bank e.cnt) s 0x07 (BitVec.ofNat 64 bank.toNat))

/-- R244 in F-mode, of a CFILL whose granules all lie in the own cluster's scratchpad and which names a promise register: P is S +
16 + ceil(B / 4), S the later of issue + 1 and the promise of the operation before it in its queue, B the number of aligned
64-byte granules that the view's positions touch. -/
def Obligations.PromiseOfAFill : Prop :=
  ∀ (s : State) (m : Mach) (sl : CSlot) (hd : HReg) (e : PrmCnt) (step : BitVec 16) (sdim : BitVec 2) (r : Record), Calm m →
    let h := m.t.regs.hreg hd.toNat
    let addrs := (List.range (viewCount h r)).filterMap fun n => (locate r (viewPos h r n)).map Prod.fst
    let S := Nat.max (s.cyc + 1) (m.c.qprom sl)
    let B := ((addrs.map fun a => a / 64).eraseDups).length
    let P := S + 16 + (B + 3) / 4
    m.cqLoad sl < 256 → handleBad h true = false → hKind h ≠ 2 → m.s.tid (s.cur / 8) (hId h) = some r →
    m.t.x.dm = false → m.s.hbm.lostAt = none → heldPhase m.s m.t.lid = false → e.prm ≠ 0 → addrs ≠ [] →
    (∀ a ∈ addrs, ∀ x, x / 512 = a / 512 → let pa := endPhys m.s s.cur m.t.x.ptb x;
      regionOf pa = .scratch ∧ (pa - 0x7F0000000000) / 2 ^ 28 * 16 + (pa - 0x7F0000000000) / 2 ^ 24 % 16 = s.cur / 8) →
    Ready (CSlot.slot sl) (.cfill sl hd e step sdim) s m → Finishes (.cfill sl hd e step sdim) s m fun n =>
      n.t.flight = insertDue { inFlight m 1 e.prm.toNat (BitVec.ofNat 64 P) with seq := m.t.seq } m.t.flight ∧ n.c.qprom sl = P ∧
        ∃ o, n.c.cq sl = m.c.cq sl ++ [o] ∧ o.begin = S ∧ o.promise = some P

/-- A copy queue at work (R209, R210, R216, R217, R226, R245, R326). COPY_OP_START starts the oldest operation, from issue + 1 in
F-mode and from S in D-mode, with no FPOP of the queue before it, and writes nothing; a CPREF of readable pages (R225), an FPUSH and
a WCLOSE then run. NOC_SLOT_SEND and COPY_OP_COMPLETE write the units due, each at its bytes, where the banks serve the core and no
peer is reached; no other byte changes, but where the cluster's cache held newer ones of a unit's line. Completion takes the
operation out of the queue and sends 1 to its counter; an FPUSH waits for its core's earlier ones to the bank (past its P: the
model's choice, log 68). COPY_PAGE_RESUME starts a suspended operation anew once its page translates. -/
def Obligations.CopyEngines : Prop :=
  ∀ (s : State) (k : Nat) (sl : CSlot) (o : CopyOp) (rest : List CopyOp), s.settledWatches → s.wholeLines →
    (s.core k).cq sl = o :: rest →
    let writes (u : State) (us : List CUnit) : Prop :=
      (∀ x ∈ us, ∀ j, j < x.w / 8 → (u.byte (x.pa + j)).toNat = x.val / 256 ^ j % 256) ∧
        ∀ p, (∀ x ∈ us, p < x.pa ∨ x.pa + x.w / 8 ≤ p) → regionOf p ≠ .rebuild →
          (∀ x ∈ s.cc (k / 8), x.line = p / 64 → x.since = none) → u.byte p = s.byte p
    let plain (us : List CUnit) : Prop :=
      (∀ x ∈ us, x.w % 8 = 0 ∧ x.bit = 0 ∧ s.bankOk k x.pa = true ∧ s.hostOff x.pa = false ∧ regionOf x.pa ≠ .peer ∧
        ∀ j, j < x.w / 8 → regionOf (x.pa + j) ≠ .rebuild) ∧
      us.Pairwise fun x y => x.pa + x.w / 8 ≤ y.pa ∨ y.pa + y.w / 8 ≤ x.pa
    let bank := match o.op with
      | .cbank _ b _ => b.toNat
      | _ => 16
    let flushes := match o.op with
      | .cflush .. => true
      | _ => false
    (o.stage = .queued → o.held = false → (s.core k).fpops sl = 0 → (if o.dm then o.begin ≤ s.cyc else o.issue < s.cyc) →
      (bank < 16 → (s.bank (k / 8 * 16 + bank)).lent = none) →
      ∃ u, exec (.copyOpStart k sl) s = .next u ∧ (flushes = false → u.mem = s.mem) ∧ u.ctrs = s.ctrs ∧
        ((∃ a b c d, o.op = .cpref sl a b c d) ∧
            (∀ va ∈ viewAddrs o.hs o.rs, ∀ e, walk s o.ptb va = some e → e.rd = true ∧ e.us = true) ∨ (∃ a b, o.op = .wclose sl a b) ∨ (∃ a b c d e, o.op = .fpush sl a b c d e) →
          ∃ p, (u.core k).cq sl = p :: rest ∧ p.stage = .running ∧ p.op = o.op ∧ p.rows = o.rows ∧ p.units = o.units ∧
            (o.dm = true → s.hbm.lost = [] → p.due = Nat.max o.due s.cyc))) ∧
    (o.stage = .running → o.dm = true → o.slots = true → o.sent < o.places → o.send ≤ s.cyc →
      owns (launchStartCyc s o.lid) (queueIx k sl) s.cyc = true →
      (∀ a b c d e f, o.op ≠ .cpyr a b c d e f) →
      let us := o.units.filter fun u => decide (o.sent ≤ u.place) && decide (u.place < o.sent + 16)
      plain us → ∃ u p, exec (.nocSlotSend k sl) s = .next u ∧ (u.core k).cq sl = p :: rest ∧ p.sent = o.sent + 16 ∧ writes u us) ∧
    (o.stage = .running → o.due ≤ s.cyc → o.slots = false → plain o.units → bank = 16 → (∀ a b c, o.op ≠ .wclose a b c) →
      (∀ a b c d bk f, o.op = .fpush a b c d bk f → ∀ y ∈ (s.core k).cq0 ++ (s.core k).cq1, y.id < o.id → y.pushes bk.toNat = 0) →
      (∀ a b c d e f, o.op ≠ .cpyr a b c d e f) → ∃ u, exec (.copyOpComplete k sl) s = .next u ∧ (u.core k).cq sl = rest ∧
        writes u o.units ∧
        u.adds = s.adds ++ (match o.ctr with
          | none => []
          | some c => [⟨c, 1, k, o.uid, s.cyc - 1, 0, false⟩]) ∧
        ∀ a b c d e f, o.op = .fpush a b c d e f → (u.bank (k / 8 * 16 + e.toNat)).fifo =
          (s.bank (k / 8 * 16 + e.toNat)).fifo ++ o.rows) ∧
    ∀ va, o.stage = .suspended va → (walk s o.ptb va).isSome = true →
      ∃ u, exec (.copyPageResume k sl) s = .next u ∧ (flushes = false → u.mem = s.mem) ∧ u.ctrs = s.ctrs

/-! ## Veil operations (R247 to R260, R266 to R271) -/

/-- The O operations complete at issue. OMODE sets the task's aperture and recovery mode; OSTAT's value is pending; OMASK, OFT,
OIFT, OCONV and OCAL, their views and scalars as R251 and R268 require and, for the transforms, the engine calibrated, join the
engine's order; of memory only what the core's L1 and its cluster's cache held newer bytes of changes, which reach their home first
(R209). OMASK's view becomes the core's mask. In F-mode their promise is S + 2,700, S + 72,000, or S + 1,080 + (shots − 1) × τ, also
of an empty view, whose shots are 0; S is the later of issue + 1 and the promise before it, which the core holds for the task (R259).
OSTAT's value is the register's at issue, REFPOWER's that of a cycle from issue to landing (R255, R271). A stale engine traps
VEIL_STALE_CAL; the check's cycle is the implementation's, so that the engine is stale, or is not, in each of the last 17 cycles
(R256). -/
def Obligations.OpticalOperations : Prop :=
  ∀ (s : State) (m : Mach) (hd hs : HReg) (ex : SReg) (e : PrmCnt) (logn : BitVec 4), Calm m → m.s.wholeLines →
    let H (h : HReg) : Handle := m.t.regs.hreg h.toNat
    let ch := s.cur / 128
    let N := 2 ^ logn.toNat
    let S := Nat.max (s.cyc + 1) (m.c.opromOf m.t.uid)
    let ctr : Option Nat := if e.cnt = 0 then none else some ((m.t.regs.sreg e.cnt.toNat).toNat % 65536)
    let view (h : HReg) (r : Record) : Prop :=
      handleBad (H h) true = false ∧ hKind (H h) ≠ 2 ∧ m.s.tid (s.cur / 8) (hId (H h)) = some r
    let joins (i : Instr) (P : VeilOp → Nat) (Q : Mach → VeilOp → Prop) : Prop := Ready .o i s m → Finishes i s m fun n =>
      n.t.regs = m.t.regs ∧ n.t.x = m.t.x ∧ n.t.pend = [] ∧
      (∀ p, m.clean p → n.s.byte p = m.s.byte p) ∧
      ∃ o, (n.s.veil ch).ops = (m.s.veil ch).ops ++ [o] ∧ o.op = i ∧ o.core = s.cur ∧ o.uid = m.t.uid ∧ o.issue = s.cyc ∧
        o.ctr = ctr ∧ o.fired = 0 ∧ o.flying = [] ∧ Q n o ∧
        (e.prm = 0 → n.t.flight = m.t.flight) ∧
        (m.t.x.dm = false → n.c.opromOf m.t.uid = P o ∧
          (e.prm ≠ 0 → n.t.flight = insertDue { inFlight m 1 e.prm.toNat (BitVec.ofNat 64 (P o)) with seq := m.t.seq } m.t.flight))
    let good (rd rs : Record) : Prop := view hd rd ∧ view hs rs ∧ sameExt (H hd) rd (H hs) rs = true ∧
      effExt (H hs) rs 0 = N ∧ effExt (H hs) rs 1 = N ∧ N ≤ Aperture.pixels m.t.aperture ∧ recFmt rs ∈ [1, 2, 13, 14] ∧
      recFmt rd ∈ (if m.t.recovery = .inten then [1, 2] else [13, 14]) ∧
      onChiplet m (H hs) rs = true ∧ onChiplet m (H hd) rd = true ∧
      -126 ≤ (m.t.regs.sreg ex.toNat).toInt ∧ (m.t.regs.sreg ex.toNat).toInt ≤ 127
    let room := veilCount m.s s.cur < 16
    let reg (r : OReg) : Word := BitVec.ofNat 64 (match r with
      | .calSerial => (m.s.veil ch).serial
      | .calAge => (m.s.veil ch).age s.cyc
      | .calLimit => (m.s.veil ch).limit
      | .temp => (m.s.veil ch).temp
      | .gainmapBase => mapBase m.s.fl.resets (2 * ch)
      | .phasemapBase => mapBase m.s.fl.resets (2 * ch + 1)
      | .refpower => 0)
    (∀ a r, Ready .o (.omode a r) s m →
      Completes .o (.omode a r) s m fun n => n.onT fun t => { t with aperture := a, recovery := r }) ∧
    (∀ d r, Ready .o (.ostat d r) s m → Finishes (.ostat d r) s m fun n =>
      SameRegs n m ∧ n.s.mem = m.s.mem ∧ n.t.flight = m.t.flight ∧ ∃ p, n.t.pend = [p] ∧ p.src = .ostat r ∧
        p.res.map Result.dest = [.s d.toNat] ∧ s.cyc < p.due ∧
        (r ≠ .refpower → p.read = none ∧ p.res.map Result.val = [(reg r).setWidth 2048]) ∧
        (r = .refpower → ∃ q, p.read = some q ∧ s.cyc ≤ q ∧ q ≤ p.due)) ∧
    (∀ r n, view hs r → recFmt r = 14 → 2 ≤ n → n ≤ 8 → hExt (H hs) 0 = 2 ^ n → hExt (H hs) 1 = 2 ^ n →
      effExt (H hs) r 0 = 2 ^ n → effExt (H hs) r 1 = 2 ^ n → effExt (H hs) r 2 = 1 → effExt (H hs) r 3 = 1 →
      onChiplet m (H hs) r = true → room →
      joins (.omask hs e) (fun _ => S + 2700) fun n' o => ∃ d, n'.c.mask = some d ∧ o.desc = some d ∧ d.view = H hs ∧ d.rec_ = r ∧ d.n = 2 ^ n) ∧
    (∀ rd rs, good rd rs → room → (∀ b, b < 17 → (m.s.veil ch).staleAt (s.cyc - b) = false) →
      ∀ i ∈ [Instr.oft hd hs ex e logn, .oift hd hs ex e logn, .oconv hd hs ex e logn],
        joins i (fun o => S + 1080 + o.shots * o.time - o.time) fun _ o =>
          let f := Aperture.frames m.t.aperture
          o.hd = H hd ∧ o.hs = H hs ∧ o.rd = rd ∧ o.rs = rs ∧ o.ex = (m.t.regs.sreg ex.toNat).toInt ∧ o.logn = logn.toNat ∧
            o.shots = (effExt (H hs) rs 2 * effExt (H hs) rs 3 + f - 1) / f ∧ Recovery.time m.t.recovery ≤ o.time) ∧
    (∀ rd rs, good rd rs → (∀ b, b < 17 → (m.s.veil ch).staleAt (s.cyc - b) = true) → s.catches →
      Ready .o (.oft hd hs ex e logn) s m →
      Delivers (.oft hd hs ex e logn) s 0x14 (BitVec.ofNat 64 (m.s.veil ch).serial)) ∧
    (room → joins (.ocal e) (fun _ => S + 72000) fun _ _ => True)

/-- A Veil engine at work (R253, R256 to R258, R260), of an engine that holds one operation. A shot that reads good elements fires
and its frames are written 1,080 cycles later, at their bytes and no others; the last one completes the operation. A mask load fills
the plane. A calibration raises CAL_SERIAL, clears the plane, ends staleness and writes the engine's maps alone. The age limit makes
the engine stale; a window starts its owner's mask load; a calibration slot takes the plane. -/
def Obligations.VeilEngines : Prop :=
  ∀ (s : State) (h : Nat) (o : VeilOp), s.settledWatches → (s.veil h).ops = [o] →
    let v := s.veil h
    let ended (u : State) : Prop := (u.veil h).ops = [] ∧ u.adds = s.adds ++ (match o.ctr with
      | none => []
      | some c => [⟨c, 1, o.core, o.uid, s.cyc - 1, 0, false⟩])
    let inMaps (p : Nat) : Prop := ∃ i, (i = 2 * h ∨ i = 2 * h + 1) ∧ mapBase s.fl.resets i ≤ p ∧ p < mapBase s.fl.resets i + 262144
    let fs := shotFrames o
    let src := fs.flatMap fun f => elemAddrs o.rs (framePosOrd o.hs o.rs (2 ^ o.logn) f)
    let dst := fs.flatMap fun f => elemAddrs o.rd (framePosOrd o.hd o.rd (2 ^ o.logn) f)
    (∀ sp dp us, o.dm = false → o.fired < o.shots → o.start + o.fired * o.time ≤ s.cyc →
      ((∃ a b c d e, o.op = .oft a b c d e) ∨ ∃ a b c d e, o.op = .oift a b c d e) →
      engXlats s o.core o.ptb true false src = .ok sp → engXlats s o.core o.ptb false true dst = .ok dp →
      shotRead s o (src.zip sp) fs = .ok us →
      ∃ u p w, exec (.veilShot h) s = .next u ∧ u.mem = s.mem ∧ (u.veil h).ops = [p] ∧ p.fired = o.fired + 1 ∧
        p.flying = o.flying ++ [w] ∧ w.due = s.cyc + 1080) ∧
    (∀ f rest, o.flying = f :: rest → f.due ≤ s.cyc → (∀ x ∈ f.units, x.w % 8 = 0 ∧ s.bankOk o.core x.pa = true ∧ regionOf x.pa ≠ .peer ∧
        ∀ j, j < x.w / 8 → regionOf (x.pa + j) ≠ .rebuild) →
      (f.units.Pairwise fun x y => x.pa + x.w / 8 ≤ y.pa ∨ y.pa + y.w / 8 ≤ x.pa) → o.bad = none →
      ∃ u, exec (.veilFramesWritten h) s = .next u ∧
        (∀ x ∈ f.units, ∀ j, j < x.w / 8 → (u.byte (x.pa + j)).toNat = x.val / 256 ^ j % 256) ∧
        (∀ p, (∀ x ∈ f.units, p < x.pa ∨ x.pa + x.w / 8 ≤ p) → regionOf p ≠ .rebuild → u.byte p = s.byte p) ∧
        (rest = [] → o.shots ≤ o.fired → ended u) ∧
        (rest ≠ [] → u.adds = s.adds ∧ ∃ p, (u.veil h).ops = [p] ∧ p.flying = rest)) ∧
    (∀ a e d p, o.op = .omask a e → o.dm = false → o.fired = 0 → o.start + 2700 ≤ s.cyc → v.loads = [] → o.desc = some d →
      loadPlane s o.core o.id o.ptb d = .ok p → p.bad = none → o.bad = none →
      ∃ u, exec (.veilMaskLoaded h) s = .next u ∧ (u.veil h).plane = some p ∧ u.mem = s.mem ∧ ended u) ∧
    (∀ e, o.op = .ocal e → o.dm = false → o.start + 72000 ≤ s.cyc → o.bad = none →
      ∃ u, exec (.veilCalComplete h) s = .next u ∧ (u.veil h).serial = v.serial + 1 ∧ (u.veil h).calAt = some s.cyc ∧
        (u.veil h).plane = none ∧ (u.veil h).staleAt s.cyc = false ∧
        (∀ p, ¬ inMaps p → regionOf p ≠ .rebuild → u.byte p = s.byte p) ∧ ended u) ∧
    (∀ k ks, windowCores s h = k :: ks → v.served ≠ some s.cyc →
      ∃ u, exec (.veilWindowStart h) s = .next u ∧ u.mem = s.mem ∧
        (u.veil h).loads = v.loads ++ (k :: ks).map fun x => (x, s.cyc + 2700)) ∧
    (∀ e, o.op = .ocal e → o.dm = true → o.start = s.cyc + 72000 → v.slotServed ≠ some s.cyc →
      ∃ u, exec (.veilCalSlotStart h) s = .next u ∧ u.mem = s.mem ∧ (u.veil h).plane = none ∧ (u.veil h).ops = [o]) ∧
    (∀ x xs, v.marks = x :: xs → x.aged = false → v.limit < v.age s.cyc →
      ∃ u, exec (.calibrationStale h) s = .next u ∧ (u.veil h).staleAt s.cyc = true ∧ u.mem = s.mem ∧
        (u.veil h).ops = [o] ∧ (u.veil h).serial = v.serial)

/-! ## Link operations (R272 to R280, R359) -/

/-- The L operations complete at issue. LSEND, LRECV, LRADD and LQADD, with the entry of the port valid, the port up and their
checks passed, join the device's L operations, begun at once unless an earlier one of their core holds the port; in F-mode their
promise is S + 3,600 + ceil(3B / 5) (R280). LTMO sets the launch's time-out of the port; LRING replaces the neighbour table;
LSTAT's word is pending; LCADD is on its way. On a port that is down LSEND and LCADD trap LINK_DOWN (R277). Of memory only what the
core's L1 and its cluster's cache held newer bytes of changes, as it reaches its home before a send or a receive (R209). LRING discards
the messages kept under the tag's old counts (R273). -/
def Obligations.LinkOperations : Prop :=
  ∀ (s : State) (m : Mach) (port : BitVec 5) (h : HReg) (a l d : SReg) (e : PrmCnt), Calm m → m.s.wholeLines →
    let S (r : SReg) : Nat := (m.t.regs.sreg r.toNat).toNat
    let p := port.toNat
    let ent := ringEntry m.s m.t.lid p
    let up := (m.s.port p).state ≠ 0
    let room := linkCount m.s s.cur < 64
    let ctr : Option Nat := if e.cnt = 0 then none else some (S e.cnt % 65536)
    let kept (i : Instr) (P : Mach → Prop) : Prop := Ready .l i s m → Finishes i s m fun n =>
      n.t.regs = m.t.regs ∧ n.t.x = m.t.x ∧ P n
    let joins (i : Instr) (bytes peer : Nat) (P : LinkOp → Prop) : Prop := kept i fun n =>
      (∀ q, m.clean q → n.s.byte q = m.s.byte q) ∧
      ∃ o, n.s.links = m.s.links ++ [o] ∧ o.op = i ∧ o.core = s.cur ∧ o.uid = m.t.uid ∧ o.port = p ∧ o.peer = peer ∧ o.len = bytes ∧
        o.ctr = ctr ∧ o.issue = s.cyc ∧ o.moved = false ∧ o.tmo = portTmo m.s m.t.lid p ∧
        o.begin = (if linkBlocked m.s.links s.cur p then none else some (s.cyc + 1)) ∧ P o ∧
        (e.prm = 0 → n.t.flight = m.t.flight) ∧
        (e.prm ≠ 0 → n.t.flight = insertDue { inFlight m 1 e.prm.toNat (BitVec.ofNat 64 (if m.t.x.dm then 0 else
          Nat.max (s.cyc + 1) (SMap.get 0 m.c.lprom p) + 3600 + (3 * ((bytes + 63) / 64) + 4) / 5)) with seq := m.t.seq } m.t.flight)
    let view (r : Record) : Prop := let v := m.t.regs.hreg h.toNat;
      handleBad v true = false ∧ hKind v ≠ 2 ∧ m.s.tid (s.cur / 8) (hId v) = some r
    let size (r : Record) : Nat := (viewCount (m.t.regs.hreg h.toNat) r * (recFmt r).bits + 7) / 8
    let acc (wide : Bool) : Prop := S a % 64 = 0 ∧ S l % 64 = 0 ∧ 64 ≤ S l ∧ S l ≤ 2 ^ 20 ∧
      chipletRange m (S a) (if wide then 2 * S l else S l) = true
    (∀ r, view r → ent / 2 ^ 15 % 2 = 1 → up → room → joins (.lsend port h e) (size r) (ent % 512) fun o => o.r = r) ∧
    (∀ r, view r → ent / 2 ^ 31 % 2 = 1 → up → room → joins (.lrecv port h e) (size r) (ent / 2 ^ 16 % 512) fun o => o.r = r) ∧
    (∀ w, acc false → ent / 2 ^ 31 % 2 = 1 → up → room →
      joins (.lradd w port a l e) (S l) (ent / 2 ^ 16 % 512) fun o => o.addr = S a) ∧
    (acc true → ent / 2 ^ 31 % 2 = 1 → up → room → joins (.lqadd port a l e) (S l) (ent / 2 ^ 16 % 512) fun o => o.addr = S a) ∧
    (∀ r, view r → ent / 2 ^ 15 % 2 = 1 → (m.s.port p).state = 0 → s.catches → Ready .l (.lsend port h e) s m →
      Delivers (.lsend port h e) s 0x17 (BitVec.ofNat 64 p)) ∧
    (∀ x, SMap.find m.s.launches m.t.lid = some x → S a ≤ 1000000 → kept (.ltmo port a) fun n =>
      n.t.flight = m.t.flight ∧ n.s.mem = m.s.mem ∧ portTmo n.s m.t.lid p = (if S a = 0 then 10000 else S a) ∧
        (∀ q, q ≠ p → portTmo n.s m.t.lid q = portTmo m.s m.t.lid q) ∧ ∀ j, j ≠ m.t.lid → portTmo n.s j p = portTmo m.s j p) ∧
    (∀ x (pa : Nat → Nat) (na : Nat → Bool), SMap.find m.s.launches m.t.lid = some x →
      (∀ j, j < 4 → Reaches m (S a + 64 * j) 64 true false (pa j) (na j) ∧ isScratch (S a + 64 * j) = isScratch (S a)) →
      (∀ o ∈ m.s.links, o.lid ≠ m.t.lid ∧ o.uid ≠ m.t.uid) → m.c.cq0 = [] → m.c.cq1 = [] → m.s.veils = [] → m.s.ccache = [] →
      (∀ y ∈ m.c.l1, y.2.since = none) →
      let word (q : Nat) : Nat := littleEndian m.s.byte (pa (q / 8) + 8 * (q % 8)) 8
      (∀ q, q < 32 → entryBad (word q) = false) → kept (.lring a) fun n => n.t.flight = m.t.flight ∧ n.s.mem = m.s.mem ∧
        n.s.msgs = m.s.msgs.filter (fun y => decide (y.dtag ≠ x.desc.dtag)) ∧
        (∀ q, q < 32 → ringEntry n.s m.t.lid q = word q) ∧ (∀ j q, j ≠ m.t.lid → ringEntry n.s j q = ringEntry m.s j q) ∧
        ∀ o : LinkOp, o.peer < 512 → o.port < 32 →
          SMap.get 0 n.s.lcounts o.count = if o.dtag = x.desc.dtag then 0 else SMap.get 0 m.s.lcounts o.count) ∧
    (kept (.lstat d port) fun n => n.t.flight = m.t.flight ∧ n.s.mem = m.s.mem ∧ n.s.links = m.s.links ∧ ∃ r, n.t.pend = [r] ∧ r.src = .lstat p ∧
      r.res.map Result.dest = [.s d.toNat] ∧ s.cyc < r.due ∧ ∃ q, r.read = some q ∧ s.cyc ≤ q ∧ q ≤ r.due) ∧
    (S l ≤ 65535 → S a ≤ 511 → (m.s.port (S a % 32)).state = 0 → s.catches → Ready .l (.lcadd a l d) s m →
      Delivers (.lcadd a l d) s 0x17 (BitVec.ofNat 64 (S a % 32))) ∧
    (S l ≤ 65535 → S a ≤ 511 → (m.s.port (S a % 32)).state ≠ 0 → room → kept (.lcadd a l d) fun n =>
      n.t.flight = m.t.flight ∧ n.s.mem = m.s.mem ∧ ∃ o, n.s.links = m.s.links ++ [o] ∧ o.op = .lcadd a l d ∧ o.peer = S a ∧ o.addr = S l ∧
        o.val = S d ∧ o.port = S a % 32 ∧ o.moved = false)

/-- Links at work (R274 to R279, R359). A message that meets an LRADD.I32 adds to the accumulator element by element, and
changes no other byte; a message that a receive has been posted for is kept, and one that no table names is discarded; an
operation that has moved completes with its counter addition; a time-out or a lost port ends an operation with its fault; another
device's addition is on its way to its counter; lost lanes and corrected errors show in the port. -/
def Obligations.LinkEvents : Prop :=
  ∀ (s : State), s.settledWatches →
    let leaves (u : State) (o : LinkOp) (cause info : Nat) : Prop :=
      u.links = [] ∧ u.reports = s.reports ++ [⟨o.core, o.uid, cause, BitVec.ofNat 64 info⟩] ∧ u.adds = s.adds
    (∀ o port a l e pa msg b, s.links = [o] → o.op = .lradd true port a l e → o.begin = some b → o.moved = false →
      2 ≤ (s.port o.port).state → o.len % 64 = 0 →
      s.err = [] → s.hbm.errs = [] → s.hbm.lost = [] →
      (∀ y ∈ s.cc (o.core / 8), y.since ≠ none → 64 * y.line + 64 ≤ pa ∨ pa + o.len ≤ 64 * y.line) →
      (∀ j, j < o.len → regionOf (pa + j) ≠ .rebuild) → linkXlat s o = .ok ((List.range (o.len / 64)).map fun i => (o.addr + 64 * i, pa + 64 * i)) → o.addr % 64 = 0 →
      s.msgs = [msg] → msg.port = o.port → msg.dev = o.peer → msg.dtag = o.dtag → msg.k = o.k → msg.data.length = o.len →
      ∃ u x, exec (.linkMatch o.id) s = .next u ∧ u.links = [x] ∧ x.moved = true ∧ s.cyc < x.due ∧ u.msgs = [] ∧
        (∀ j, j < o.len / 4 → littleEndian u.byte (pa + 4 * j) 4 =
          (littleEndian s.byte (pa + 4 * j) 4 + leNat msg.data / 2 ^ (32 * j) % 2 ^ 32) % 2 ^ 32) ∧
        ∀ q, (q < pa ∨ pa + o.len ≤ q) → regionOf q ≠ .rebuild → u.byte q = s.byte q) ∧
    (∀ port src dtag k data, 2 ≤ (s.port port).state →
      ((∃ o ∈ s.links, o.recv = true ∧ o.port = port ∧ o.dtag = dtag ∧ o.peer = src) →
        exec (.linkMessageArrival port src ⟨dtag, k⟩ data) s = .next { s with msgs := s.msgs ++ [⟨port, src, dtag, k, data⟩] }) ∧
      (s.links = [] → s.launches = [] → exec (.linkMessageArrival port src ⟨dtag, k⟩ data) s = .next s)) ∧
    (∀ o, s.links = [o] → o.moved = true → o.due ≤ s.cyc → ∃ u, exec (.linkOpComplete ⟨o.id, .done⟩) s = .next u ∧ u.links = [] ∧
      u.mem = s.mem ∧ u.adds = s.adds ++ (match o.ctr with
        | none => []
        | some c => [⟨c, 1, o.core, o.uid, s.cyc - 1, 0, false⟩])) ∧
    (∀ c v, c < 65536 → v < 2 ^ 64 →
      exec (.remoteCounterAdd c v) s = .next { s with adds := s.adds ++ [⟨c, v, 0, 0, s.cyc, 0, false⟩] }) ∧
    (∀ o b, s.links = [o] → o.begin = some b → b + o.tmo * 1800 ≤ s.cyc → o.moved = false →
      ∃ u, exec (.linkTimeout o.id) s = .next u ∧ leaves u o 0x16 (o.port + 256 * linkOpcode o.op) ∧
        (o.recv = false → u.mem = s.mem)) ∧
    (∀ p, p < 32 →
      (s.links = [] → ∃ u, exec (.portDown p) s = .next u ∧ (u.port p).state = 0 ∧ (∀ q, q ≠ p → u.port q = s.port q) ∧
        u.mem = s.mem) ∧
      (∀ o b, s.links = [o] → o.port = p → o.begin = some b → ∃ u, exec (.portDown p) s = .next u ∧ (u.port p).state = 0 ∧
        leaves u o 0x17 p ∧ (o.recv = false → u.mem = s.mem)) ∧
      (2 ≤ (s.port p).state → exec (.portLanesLost p) s = .next (s.setPort p { s.port p with state := 3 })) ∧
      (2 ≤ (s.port p).state → exec (.flitRetry p) s =
        .next (s.setPort p { s.port p with err := Nat.min 4095 ((s.port p).err + 1) })) ∧
      ((s.port p).state < 2 → exec (.portUp p) s = .next (s.setPort p { s.port p with state := 2 })))

/-! ## Tasks, waits and counters (R88 to R93, R158 to R164, R202 to R207, R234 to R238, R281 to R284, R346 to R352) -/

/-- The K operations that wait for nothing complete. SPAWN starts a sub-task on the core it names, with S1 to S8 of its parent and
every other register zero, or traps SPAWN_BUSY, whatever its entry, also while a sub-task of that core is out of it (R88, R159):
that the sub-task is ready in the next cycle is the model's choice (log 49), and that its X.PTB is its parent's now (log 55); YIELD
gives a lone task back its core one cycle later, and counts for its queue (R93, R160); END ends the bundles of its task (R89, R161);
CADD sends its addition (R234); CREAD, TRSTAT and DIGR.LAUNCH have their word pending (R236, R284, R349); DIGR reads the digest
(R349); CHK passes equal values and traps CHK_MISMATCH at the lowest byte that differs (R347); LNCH, RLNCH hand their request over
(R281, R282), LNCH with the next launch number (the model's choice, log 7); a TRARM whose watch is bound goes on (R283). -/
def Obligations.TaskOperations : Prop :=
  ∀ (s : State) (m : Mach) (a b d : SReg) (w : BitVec 4), Calm m →
    let S (r : SReg) : Nat := (m.t.regs.sreg r.toNat).toNat
    let ctr : Option Nat := if b = 0 then none else some (S b % 65536)
    let kept (i : Instr) (P : Mach → Prop) : Prop := Ready .k i s m → Finishes i s m fun n =>
      n.t.regs = m.t.regs ∧ n.t.x = m.t.x ∧ n.t.loops = m.t.loops ∧ n.s.mem = m.s.mem ∧ P n
    let pends (i : Instr) (src : PendSrc) : Prop := kept i fun n => n.t.flight = m.t.flight ∧
      ∃ r, n.t.pend = [r] ∧ r.src = src ∧ r.res.map Result.dest = [.s d.toNat] ∧ s.cyc < r.due ∧
        ∃ q, r.read = some q ∧ s.cyc ≤ q ∧ q ≤ r.due
    (∀ off : BitVec 3,
      let i : Instr := .spawn off a b
      let j := s.cur / 8 * 8 + (s.cur % 8 + off.toNat) % 8
      (j ≠ s.cur → (s.core j).task = none → (s.core j).saved = [] → S a % 8 = 0 → S a < 0x40000 → (b = 0 ∨ S b ≤ 65535) → kept i fun n => n.t.flight = m.t.flight ∧
        ∃ t, (n.s.core j).task = some t ∧ (n.s.core j).ready = s.cyc + 1 ∧ t.pc = S a ∧ t.parent = some m.t.uid ∧
          t.lid = m.t.lid ∧ t.spawnCtr = (if b = 0 then none else some (S b)) ∧ t.budget = m.t.budget ∧
          (∀ r, t.regs.sreg r = if 1 ≤ r ∧ r ≤ 8 then m.t.regs.sreg r else 0) ∧ (∀ r, t.regs.spoison r = none) ∧
          { t.regs with s := [], sp := [] } = Regs.zero ∧ t.mat = MatLoop.start ∧ t.loops = Loops.off ∧ t.sticky = StickySet.quiet ∧
          t.flight = [] ∧ t.pend = [] ∧ t.x = { m.t.x with wtmo := 2 ^ 32, qtroub := 0, dig := 0, sv := false, psv := false, ste := true,
                                                           epc := 0, ecause := 0, einfo := 0, erpt := 0 }) ∧
      ((j = s.cur ∨ (s.core j).task.isSome = true ∨ ∃ y ∈ (s.core j).saved, y.task.parent.isSome = true ∨ y.kind = .barrier) → s.catches → Ready .k i s m →
        Delivers i s 0x0D (BitVec.ofNat 64 (j / 128 * 256 + j / 8 % 16 * 16 + j % 8)))) ∧
    (m.c.saved = [] → m.c.todo = [] → Ready .k .yield s m →
      ∃ u t, exec .yield s = .next u ∧ (u.core s.cur).task = some t ∧ t.pc = m.t.pc + 16 ∧ t.regs = m.t.regs ∧ t.x = m.t.x ∧
        t.runStart = s.cyc ∧ (u.core s.cur).ready = Nat.max m.c.ready (s.cyc + 1) + 1 ∧
        (u.core s.cur).sliceEnd = s.cyc + 16384 ∧ u.mem = m.s.mem ∧ ∀ x, SMap.find m.s.launches m.t.lid = some x →
          let q := m.s.queue x.queue
          u.queue x.queue = if q.streak = 63 then { q with streak := 0, rank := Nat.min (q.rank + 1) q.setRank }
            else { q with streak := q.streak + 1 }) ∧
    ((∀ x, SMap.find m.s.launches m.t.lid = some x → x.desc.qthr = 0 ∨ m.t.x.qtroub.toNat ≤ x.desc.qthr) →
      Ready .k .endTask s m → exec .endTask s = .next ((m.present .k .endTask).onC fun c =>
        { c with ended := true, ready := Nat.max c.ready (s.cyc + 1) }).put) ∧
    (∀ x, SMap.find m.s.launches m.t.lid = some x → x.desc.qthr ≠ 0 → x.desc.qthr < m.t.x.qtroub.toNat → s.catches →
      Ready .k .endTask s m → Delivers .endTask s 0x1A m.t.x.qtroub) ∧
    (∀ rel sc cls, S a ≤ 65535 → kept (.cadd a b rel sc cls) fun n => n.t.flight = m.t.flight ∧ n.s.ctrs = m.s.ctrs ∧
      n.s.adds = m.s.adds ++ [⟨S a, S b, s.cur, m.t.uid, s.cyc, if rel then cls.toNat else 0, decide (sc ≠ .core ∧ sc ≠ .cluster)⟩]) ∧
    (S a ≤ 65535 → pends (.cread d a) (.cread (S a))) ∧
    pends (.trstat d w) (.trstat w.toNat) ∧
    pends (.digr true d) .digest ∧
    (m.t.parent = none → Ready .k (.digr false d) s m →
      Completes .k (.digr false d) s m fun n => n.onT fun t => t.fly (inFlight m 1 d.toNat m.t.x.dig)) ∧
    (m.t.regs.sreg a.toNat = m.t.regs.sreg b.toNat → Ready .k (.chk (.s a b)) s m → Completes .k (.chk (.s a b)) s m id) ∧
    (∀ j, j < 8 → (∀ i, i < j → S a / 256 ^ i % 256 = S b / 256 ^ i % 256) → S a / 256 ^ j % 256 ≠ S b / 256 ^ j % 256 →
      s.catches → Ready .k (.chk (.s a b)) s m →
      Delivers (.chk (.s a b)) s 0x11 (BitVec.ofNat 64 (a.toNat + b.toNat * 2 ^ 12 + j * 2 ^ 24))) ∧
    (∀ u v, (rowRead m u).data = (rowRead m v).data → Ready .k (.chk (.v u v)) s m → Completes .k (.chk (.v u v)) s m id) ∧
    (S a % 64 = 0 → outLaunches m.s m.t.uid < 8 → kept (.lnch a b) fun n => n.t.flight = m.t.flight ∧
      n.s.lreqs = m.s.lreqs ++ [⟨m.s.fl.lids + 1, s.cur, m.t.uid, m.t.lid, S a, ctr, m.t.x.ptb, s.cyc⟩]) ∧
    (∀ l x, (m.s.watch w.toNat).bound = some l → SMap.find m.s.launches l = some x → x.part = m.s.partOf (s.cur / 8) →
      outLaunches m.s m.t.uid < 8 → kept (.rlnch w b) fun n => n.t.flight = m.t.flight ∧
        ∃ r, (n.s.watch w.toNat).reqs = (m.s.watch w.toNat).reqs ++ [r] ∧ r.core = s.cur ∧ r.uid = m.t.uid ∧ r.ctr = ctr ∧
          r.packet = none ∧ (n.s.watch w.toNat).bound = some l ∧ (n.s.watch w.toNat).dirty = (m.s.watch w.toNat).dirty) ∧
    ((Fence.bound w.toNat (S a)) ∈ m.c.fence → kept (.trarm w a) fun n => n.t.flight = m.t.flight ∧
      Fence.bound w.toNat (S a) ∉ n.c.fence)

/-- The context image and its load (R351, R352), in supervisor mode, with nothing of the core pending: CTXS writes version 1, the
launch, the task and the scalars within the budget to the image; CTXL, with an image that the same launch and budget wrote, takes
the registers within the budget, the predicates and the special registers of the image, and keeps the task, its level and its D-mode
bit. `ps` are the physical pieces of the image, one after another. Of other memory only what the core's caches held newer bytes of
changes. That the engine state is a reference to one that a CTXS saved, and its check word, are the model's choice (log 16), and that
a shape register takes its whole word (log 64). -/
def Obligations.ContextImages : Prop :=
  ∀ (s : State) (m : Mach) (a : SReg) (ps : List (Nat × Nat)), Calm m → m.s.wholeLines →
    (∀ p ∈ ps, ∀ j, j < p.2 → regionOf (p.1 + j) ≠ .rebuild ∧ regionOf (p.1 + j) ≠ .peer) → m.t.flight = [] → m.c.steps = [] →
    m.c.mops = [] → m.t.x.sv = true →
    let A := (m.t.regs.sreg a.toNat).toNat
    let pc := m.t.pc
    let b := m.t.budget
    (imageCheck ⟨m, pc, 2, true, capture0 m.t.regs (.ctxs a)⟩ A false true = .ok ps → ps.Pairwise (fun x y => x.1 + x.2 ≤ y.1 ∨ y.1 + y.2 ≤ x.1) →
      Ready .k (.ctxs a) s m → Finishes (.ctxs a) s m fun n => n.t.regs = m.t.regs ∧ n.t.x = m.t.x ∧
        (∀ pa len rest, ps = (pa, len) :: rest → littleEndian n.s.byte pa 2 = 1 ∧ littleEndian n.s.byte (pa + 8) 8 = m.t.x.launch.toNat ∧
          littleEndian n.s.byte (pa + 16) 8 = m.t.x.tix.toNat ∧
          ∀ r, r < b.s → r < 64 → littleEndian n.s.byte (pa + 0x40 + 8 * r) 8 = (m.t.regs.sreg r).toNat) ∧
        ∀ q, (∀ p ∈ ps, q < p.1 ∨ p.1 + p.2 ≤ q) → m.clean q → n.s.byte q = m.s.byte q) ∧
    (imageCheck ⟨m, pc, 2, true, capture0 m.t.regs (.ctxl a)⟩ A true false = .ok ps → (∀ p ∈ ps, ∀ j, j < p.2 → m.clean (p.1 + j)) →
      let img := ps.flatMap fun p => m.s.bytes p.1 p.2
      let f (off n : Nat) : Nat := leNat ((img.drop off).take n)
      let w (i : Nat) : Word := BitVec.ofNat 64 (f (0xAC0 + 8 * i) 8)
      let eng := (img.drop 0xC00).take 5120
      m.c.cq0 = [] → m.c.cq1 = [] → m.s.veils = [] → m.s.links = [] → (m.s.images[engineToken eng]?).isSome = true → f 0 2 = 1 →
      f 2 1 = b.s → f 3 1 = b.h → f 4 1 = b.t → f 8 8 = m.t.x.launch.toNat → f 24 8 = (Config.checkWord eng).toNat → b.s ≤ 64 →
      Ready .k (.ctxl a) s m → Finishes (.ctxl a) s m fun n => (∀ q, m.clean q → n.s.byte q = m.s.byte q) ∧
        (∀ r, 0 < r → r < b.s → n.t.regs.sreg r = BitVec.ofNat 64 (f (0x40 + 8 * r) 8)) ∧
        (∀ r, 0 < r → r < 16 → n.t.regs.preg r = (f 0x248 2).testBit r ∧ n.t.regs.qtaint r = (f 0x24A 2).testBit r ∧
          n.t.regs.qreg r = BitVec.ofNat 256 (f (0x280 + 32 * r) 32)) ∧
        (∀ r, r < b.h → n.t.regs.hreg r = BitVec.ofNat 256 (f (0x480 + 32 * r) 32)) ∧
        (∀ r, r < b.t → n.t.regs.shape r = BitVec.ofNat 64 (f (0x880 + 8 * r) 8)) ∧
        n.t.x = { m.t.x with wtmo := w 10, qtroub := w 11, dig := w 12, epc := w 14, ecause := w 15, einfo := w 16
                             psv := (w 13).getLsbD 1, ste := (w 13).getLsbD 3, te := (w 13).getLsbD 4
                             erpt := BitVec.ofNat 64 ((w 17).toNat % 2 ^ 8), tvec := BitVec.ofNat 64 ((w 18).toNat / 8 % 2 ^ 15 * 8)
                             ptb := BitVec.ofNat 64 ((w 19).toNat % 2 ^ 52), segt := BitVec.ofNat 64 ((w 20).toNat / 16 % 2 ^ 48 * 16) } ∧
        n.t.loops = m.t.loops ∧ n.t.budget = b)

/-- The waits of the K slot (R158, R162 to R164, R235, R237, R238, R350). A bundle whose condition holds at issue, or has been met,
completes, with the acquire of its operation: the L1 keeps no line, its newer bytes have gone to the cluster's cache, and beyond the
cluster that keeps only lines with newer bytes (R175, R202); a calibration that it has waited for is joined (R270); one whose
condition does not hold is held, nothing else of the machine changed, with the cycle it reached issue in and the time-out of X.WTMO.
WAITA polls the level of its scope; at a scope beyond the cluster the newer bytes that the core's caches hold of the line first
reach its home (R18, R237). A BARG is held as it arrives, and goes with its arrival taken off the list of those that still wait once
its barrier has completed (R90). -/
def Obligations.WaitsComplete : Prop :=
  ∀ (s : State) (m : Mach) (a b : SReg) (sc : Scope) (bs : BScope),
    let S (r : SReg) : Nat := (m.t.regs.sreg r.toNat).toNat
    let far : Prop := sc ≠ .core ∧ sc ≠ .cluster
    let acquire (wide : Prop) [Decidable wide] (n : Mach) : Mach := acquireAct (decide wide) n
    let join (f : Nat → Option Nat → Bool) (n : Mach) : Mach := joinCal f n
    let met : Prop := ∃ w, m.c.wait = some w ∧ w.met = true
    let goes (i : Instr) (now : Prop) (f : Mach → Mach) : Prop := Ready .k i s m → (m.c.wait = none ∧ now) ∨ met → Completes .k i s m f
    let waits (i : Instr) (later : Prop) (k : WaitKind) : Prop := Ready .k i s m → m.c.wait = none → later →
      let c := s.core s.cur
      exec i s = .next { s with cores := SMap.put s.cores s.cur { c with
        wait := some ⟨k, s.cyc, m.t.x.wtmo.toNat, false⟩, fifoWait := none, ready := Nat.max c.ready (s.cyc + 1)
        reach := none } }
    let quiet : Prop := m.c.cq0 = [] ∧ m.c.cq1 = [] ∧ m.s.veils = [] ∧ m.s.links = [] ∧ m.c.steps = [] ∧ m.c.mops = []
    (∀ wide : Bool, Calm m → m.s.wholeLines → m.c.l1.Pairwise (fun x y => x.2.line ≠ y.2.line) → let n := acquireAct wide m
      n.c.l1 = [] ∧ n.t = m.t ∧ (∀ p, m.clean p → n.s.byte p = m.s.byte p) ∧
        (wide = true → ∀ x ∈ n.s.cc (m.s.cur / 8), x.since ≠ none) ∧
        ∀ e ∈ m.c.l1, e.2.since ≠ none → regionOf (64 * e.2.line) ≠ .peer → ∀ j b, j < 64 → e.2.new.getD j none = some b →
          clusterByte n.s (m.s.cur / 8) (64 * e.2.line + j) = b) ∧
    (∀ acq, S a ≤ 65535 →
      goes (.cwait a b acq sc) (S b ≤ m.s.ctr (S a)) (fun n => join (fun _ c => c == some (S a)) (if acq then acquire far n else n)) ∧
      waits (.cwait a b acq sc) (m.s.ctr (S a) < S b) (.cwait (S a) (S b))) ∧
    (∀ pa na, Calm m → m.s.wholeLines → Reaches m (S a) 8 true false pa na → pa % 8 = 0 →
      let line := ccFind (m.s.cc (s.cur / 8)) (pa / 64)
      let polled (p : Nat) : Byte := match line with
        | some x => if far then m.s.byte p else x.data.getD (p % 64) 0
        | none => m.s.byte p
      let kind : WaitKind := .waita (S a) pa (m.t.regs.sreg b.toNat) far
      ((far → m.clean pa) → goes (.waita a b sc) (littleEndian polled pa 8 ≠ S b) (acquire far) ∧
        waits (.waita a b sc) (littleEndian polled pa 8 = S b) kind) ∧
      (far → cacheable pa = true → m.c.wait = none → ((l1Find m.c.l1 (pa / 64)).map L1Line.since).join ≠ none ∨
          (line.map SLine.since).join ≠ none → Ready .k (.waita a b sc) s m →
        ∃ u t, exec (.waita a b sc) s = .next u ∧ (u.core s.cur).task = some t ∧ t.pc = m.t.pc ∧
          (u.core s.cur).wait = some ⟨kind, s.cyc, m.t.x.wtmo.toNat, false⟩ ∧ (∀ q, m.clean q → u.byte q = m.s.byte q) ∧
          ∀ x ∈ u.cc (s.cur / 8), x.line = pa / 64 → x.since = none)) ∧
    (∀ i na, i < 65536 → let pa := 0x7D0000000000 + 8 * i
      S a < 2 ^ 57 → S a % 8 = 0 → regionOf (S a) ≠ .mmio → m.xlat (S a) true false = .ok pa na →
      goes (.waita a b sc) (m.s.ctr i % 2 ^ 64 ≠ S b) (fun n => join (fun _ c => c == some i) (acquire far n)) ∧
      waits (.waita a b sc) (m.s.ctr i % 2 ^ 64 = S b) (.waita (S a) pa (m.t.regs.sreg b.toNat) far)) ∧
    (∀ l n c t, goes (.waito l n c t) (Calm m ∧ quiet) (fun n => join (fun u _ => u == m.t.uid) (acquire False n)) ∧
      waits (.waito l n c t) (n.toNat < m.c.stores.countP fun st => !st.more) (.waito l.toNat n.toNat c.toNat t.toNat)) ∧
    (∀ cls : BitVec 5, goes (.drain sc cls) (Calm m ∧ quiet ∧ m.s.ccache = [] ∧ (∀ e ∈ m.c.l1, e.2.since = none) ∨ cls = 0) fun n =>
      let n := if cls.getLsbD 0 then acquire far n else n
      if cls.getLsbD 4 then n.onC fun c => { c with cc := [] } else n) ∧
    (∀ cls : BitVec 5, cls.getLsbD 1 = true → waits (.drain sc cls)
      ((∃ st ∈ m.c.stores, st.issue ≤ s.cyc) ∨ ∃ e ∈ m.c.l1, ∃ i, e.2.since = some i ∧ i ≤ s.cyc) (.drain cls.toNat far)) ∧
    (quiet → S a ≤ s.cyc → goes (.sleept a) True (fun n => join (fun u _ => u == m.t.uid) (acquire False n))) ∧
    waits (.sleept a) (s.cyc < S a) (.sleept (S a)) ∧
    (∀ o p, m.c.wait = none → m.c.cq0 = [o] → m.c.cq1 = [] → m.s.veils = [] → m.s.links = [] → o.uid = m.t.uid → o.promise = some p →
      p ≤ S a → S a ≤ s.cyc → s.catches → Ready .k (.sleept a) s m → Delivers (.sleept a) s 0x0E (BitVec.ofNat 64 p)) ∧
    (m.t.parent = none → m.t.x.dig = m.t.regs.sreg a.toNat → Ready .k (.digx false a) s m → Completes .k (.digx false a) s m id) ∧
    (m.t.x.dm = false → S a = 0 → Ready .k (.digx true a) s m → Completes .k (.digx true a) s m id) ∧
    (∀ x, m.t.x.dm = true → m.t.parent = none → SMap.find m.s.launches m.t.lid = some x → x.desc.dmode = true →
      waits (.digx true a) (x.ended + 1 < x.desc.ntask) .digx ∧
      (x.ended + 1 = x.desc.ntask → m.t.regs.sreg a.toNat = BitVec.ofNat 64 x.digest + mix64 (m.t.x.dig ^^^ m.t.x.tix) →
        Ready .k (.digx true a) s m → Completes .k (.digx true a) s m id)) ∧
    (∀ x, m.t.parent = none → m.t.x.dig ≠ m.t.regs.sreg a.toNat → s.catches → SMap.find m.s.launches m.t.lid = some x →
      Ready .k (.digx false a) s m → ∃ u t, exec (.digx false a) s = .next u ∧ (u.core s.cur).task = some t ∧
        t.x.ecause = 0x12 ∧ t.x.einfo = m.t.x.dig ∧ t.x.epc = BitVec.ofNat 64 m.t.pc ∧ t.x.sv = true ∧ t.pc = m.t.x.tvec.toNat ∧
        SMap.find u.launches m.t.lid = some { x with marked := true }) ∧
    (∀ w l g n, m.c.wait = some w → w.met = true → w.kind = .barg bs l g n → Ready .k (.barg bs) s m →
      Completes .k (.barg bs) s m fun n' => (acquire (bs ≠ .cl) n').onT fun t =>
        { t with bars := t.bars.filter fun b => !(b.sc == bs && b.n == n) }) ∧
    ((∀ x, SMap.find m.s.launches m.t.lid = some x → x.desc.qthr = 0 ∨ m.t.x.qtroub.toNat ≤ x.desc.qthr) → m.c.wait = none →
      Ready .k (.barg bs) s m →
      let n := m.t.arrived.countP (fun e => e.1 == bs) + 1
      ∃ u t, exec (.barg bs) s = .next u ∧ (u.core s.cur).task = some t ∧ t.pc = m.t.pc ∧ u.mem = s.mem ∧
        (u.core s.cur).wait = some ⟨.barg bs m.t.lid (match bs with
          | .cl => s.cur / 8
          | .ch => s.cur / 128
          | .mod => 0
          | .launch => 0) n, s.cyc, 0, false⟩ ∧ t.arrived = m.t.arrived ++ [(bs, n)] ∧ t.bars = m.t.bars ++ [⟨bs, n, s.cyc, false⟩])

/-! ## What the hardware of a core does by itself (R20, R36, R93, R95, R158, R173, R204, R283, R299, R324, R325, R346) -/

/-- A wait ends (R158, R163, R164, R207, R235, R237): WAITA polls memory, or at a scope within the cluster the line of its cache. In
a cycle in which its condition holds the wait of a held bundle is met, and nothing else changes; once X.WTMO cycles have passed
since the bundle reached issue and the condition does not hold, WAIT_TIMEOUT is taken at it. -/
def Obligations.WaitsEnd : Prop :=
  ∀ (s : State) (k : Nat) (c : Core) (t : Task) (w : WaitRec), s.settledWatches → s.core k = c → c.task = some t → c.wait = some w →
    w.met = false →
    let met (i : Instr) : Prop := exec i s = .next { s with cores := SMap.put s.cores k { c with wait := some { w with met := true } } }
    let late (info : Word) : Prop := w.reach + w.tmo ≤ s.cyc → t.x.sv = false → t.x.tvec ≠ 0 →
      ∃ d u, exec (.waitTimeout k) s = .next { s with cur := k, cores := SMap.put s.cores k d } ∧ d.task = some u ∧ d.wait = none ∧
        (t.landFlight s.cyc).Entered u s.cyc 0x10 info ∧ d.ready = s.cyc + 3
    (∀ n, w.kind = .sleept n → (n ≤ s.cyc → met (.sleeptWake k)) ∧ (s.cyc < n → late (BitVec.ofNat 64 n))) ∧
    (∀ i thr, w.kind = .cwait i thr →
      (thr ≤ s.ctr i → met (.cwaitMet k)) ∧ (s.ctr i < thr → late (BitVec.ofNat 64 i))) ∧
    (∀ va pa v wide, w.kind = .waita va pa v wide → c.stores = [] → t.pend = [] → cacheable pa = true →
      let polled (p : Nat) : Byte := match ccFind (s.cc (k / 8)) (pa / 64) with
        | some x => if wide then s.byte p else x.data.getD (p % 64) 0
        | none => s.byte p
      (littleEndian polled pa 8 ≠ v.toNat → met (.waitaMet k)) ∧ (littleEndian polled pa 8 = v.toNat → late (BitVec.ofNat 64 va))) ∧
    (∀ l n x y, w.kind = .waito l n x y →
      (t.pend = [] → c.stores = [] → c.cq0 = [] → c.cq1 = [] → s.veils = [] → s.links = [] → c.steps = [] → c.mops = [] →
        met (.waitoMet k)) ∧
      (n < c.stores.countP (fun st => !st.more) → t.pend = [] → c.cq0 = [] → c.cq1 = [] → s.veils = [] → s.links = [] → late 0)) ∧
    (∀ cls wide, w.kind = .drain cls wide →
      (cls = 0 ∨ ((wide = true → ∀ x ∈ s.cc (k / 8), x.since = none) ∧ t.pend = [] ∧ c.stores = [] ∧ c.cq0 = [] ∧ c.cq1 = [] ∧ s.veils = [] ∧ s.links = [] ∧
        ∀ e ∈ c.l1, e.2.since = none) → met (.drainDone k)))

/-- Results land and translations come back (R33, R36, R173, R283, R299, R346). EXPOSED_RESULT_LAND lands what was readable before
this cycle; PENDING_RESULT_LAND lands a word, and before that takes a counter's, as it then reads, at the cycle of the read;
PAGE_WALK_COMPLETE fills the TLB with the entry of the walk, or marks the page absent; a removal of TLB entries, which also has a page
found absent walked anew, the binding of a watch and the load of a segment take hold. -/
def Obligations.CoreEvents : Prop :=
  ∀ (s : State) (k : Nat) (c : Core) (t : Task), s.settledWatches → s.core k = c → c.task = some t →
    (∀ r, r ∈ t.flight → r.due < s.cyc → c.mops = [] → (∀ p ∈ t.pend, s.cyc ≤ p.due) → ∃ u v, exec (.exposedResultLand k) s = .next u ∧ (u.core k).task = some v ∧
      v.regs = (t.landFlight s.cyc).regs ∧ v.flight = t.flight.filter (fun r => !(r.due < s.cyc)) ∧ v.pc = t.pc ∧
      v.x = (t.landFlight s.cyc).x ∧ v.pend = t.pend) ∧
    (∀ src d x due iss rd q0 q1, d ≠ 0 → (∀ r ∈ t.flight, s.cyc ≤ r.due) →
      t.pend = [⟨src, [⟨.s d, x, BitVec.allOnes 256, false, none, 0, q0⟩], iss, due, none, rd, q1⟩] →
      ((∃ i, src = .cread i) ∨ src = .ready ∧ rd = none) →
      (due < s.cyc → ∃ u v, exec (.pendingResultLand k 0) s = .next u ∧ (u.core k).task = some v ∧
        v.pend = [] ∧ (∀ i q, src = .cread i → rd = some q → v.regs.sreg d = BitVec.ofNat 64 (s.ctr i)) ∧
        (rd = none → v.regs.sreg d = x.setWidth 64) ∧ (∀ e, e ≠ d → v.regs.sreg e = t.regs.sreg e) ∧ v.pc = t.pc) ∧
      (∀ i q, src = .cread i → rd = some q → q ≤ s.cyc → s.cyc ≤ due → ∃ u v, exec (.pendingResultLand k 0) s = .next u ∧
        (u.core k).task = some v ∧ v.regs = t.regs ∧ v.pc = t.pc ∧ v.pend = [⟨src,
          [⟨.s d, (BitVec.ofNat 64 (s.ctr i)).setWidth 2048, BitVec.allOnes 256, false, none, 0, q0⟩], iss, due, none, none, q1⟩])) ∧
    (∀ va, c.walk = some va → c.ready ≤ s.cyc →
      (∀ e, walk s t.x.ptb va = some e → ∃ u, exec (.pageWalkComplete k va) s = .next u ∧ (u.core k).walk = none ∧
        e ∈ (u.core k).tlb ∧ (u.core k).task = some t ∧ u.mem = s.mem) ∧
      (walk s t.x.ptb va = none → exec (.pageWalkComplete k va) s =
        .next { s with cores := SMap.put s.cores k { c with walk := none, walkBad := some (va / 2 ^ 16) } })) ∧
    (∀ v asn due rest, c.fence = .tlbi .all v asn due :: rest → due ≤ s.cyc →
      ∃ u, exec (.tlbiRemovalComplete k) s = .next u ∧ (u.core k).fence = rest ∧ u.mem = s.mem ∧
        (∀ j, s.partOf (j / 8) = s.partOf (k / 8) → (u.core j).tlb = [] ∧ (u.core j).walkBad = none) ∧
        ∀ j, s.partOf (j / 8) ≠ s.partOf (k / 8) → (u.core j).tlb = (s.core j).tlb) ∧
    (∀ w lid due, c.fence = [.trarm w lid due] → due ≤ s.cyc → ∃ u, exec (.watchBindComplete k) s = .next u ∧
      (u.watch w).bound = some lid ∧ (u.watch w).dirty = [] ∧ (u.core k).fence = [.bound w lid] ∧
      ∀ v, v ≠ w → u.watch v = s.watch v) ∧
    (∀ j va len due, c.half0 = .holds (j - 1) → c.half1 = .loading j va len due → due ≤ s.cyc → len ≤ 131072 →
      ∃ u, exec (.segLoadComplete k) s = .next u ∧ (u.core k).half0 = c.half0 ∧ (u.core k).half1 = .holds j ∧
        (u.core k).task = some t ∧ u.mem = s.mem ∧ (∀ i, i < 16384 → SMap.get 0 (u.core k).imem i = SMap.get 0 c.imem i) ∧
        ∀ i e, i < len / 8 → walk s t.x.ptb (va + 8 * i) = some e →
          SMap.get 0 (u.core k).imem (16384 + i) = BitVec.ofNat 64 (littleEndian s.byte (e.phys (va + 8 * i)) 8))

/-- Faults of the engines, over-long runs, full FIFOs and counters (R93, R95, R204, R234, R324, R325). A fault reaches its task
and is delivered at the next bundle in user mode, with bit 8 of X.ECAUSE set and bit 9 where more wait, and not while a barrier holds the
bundle; a run past its stated length costs its queue a rank; a full FIFO whose cluster has been blocked for 1,024 cycles takes a bank of
the pool, or with none left the blocked task traps FIFO_EXHAUSTED; an addition applies in the counter, which saturates, and not before
what its release waits for. The model's choices here: that a queue without operations counts as blocked and the 1,024 cycles count anew
after a grant (log 46), and that an event in a state that does not let it happen is refused (log 34). -/
def Obligations.AsynchronousEvents : Prop :=
  ∀ (s : State) (k : Nat) (c : Core) (t : Task), s.settledWatches → s.core k = c → c.task = some t →
    (∀ cause info, s.reports = [⟨k, t.uid, cause, info⟩] → t.faults.length < 8 →
      ∃ u v, exec (.asyncFaultReport k cause info) s = .next u ∧ u.reports = [] ∧ (u.core k).task = some v ∧
        v = { t with faults := t.faults ++ [⟨cause, info⟩] } ∧ u.mem = s.mem) ∧
    (∀ f rest, t.faults = f :: rest → f.cause ≠ 0x12 → f.cause < 256 → t.x.sv = false → t.x.tvec ≠ 0 → t.iter = 0 → c.wait = none →
      c.ready ≤ s.cyc → c.ended = false → ∃ u v, exec (.asyncFaultDelivery k) s = .next u ∧ (u.core k).task = some v ∧
        v.x.ecause = BitVec.ofNat 64 (f.cause + 256 + (if rest = [] then 0 else 512)) ∧ v.x.einfo = f.info ∧
        v.x.epc = BitVec.ofNat 64 t.pc ∧ v.x.sv = true ∧ v.x.psv = false ∧ v.pc = t.x.tvec.toNat ∧ v.faults = rest ∧
        (u.core k).ready = s.cyc + 3 ∧ u.mem = s.mem) ∧
    (∀ f rest sc l g n r w m, t.faults = f :: rest → c.wait = some ⟨.barg sc l g n, r, w, m⟩ →
      exec (.asyncFaultDelivery k) s = .refused .notEnabled) ∧
    (∀ x, t.iter = 0 → t.runStart + t.stated < s.cyc → c.ready ≤ s.cyc → c.ended = false → c.saved = [] → c.todo = [] →
      SMap.find s.launches t.lid = some x → x.phase ≠ .reexec → ∃ u v, exec (.yieldOverrun k) s = .next u ∧ (u.core k).task = some v ∧
        v = { t with stated := 16384, runStart := s.cyc } ∧
        u.queue x.queue = { s.queue x.queue with rank := (s.queue x.queue).rank - 1, streak := 0 }) ∧
    (∀ w i thr n, let cl := k / 8; let room := fifoRoom s (16 * cl + n)
      c.fifoWait = none → c.wait = some w → w.kind = .cwait i thr → w.met = false → n < 12 →
      (∀ j, j / 8 = cl → (j ≠ k → (s.core j).task = none) ∧ (s.core j).cq0 = [] ∧ (s.core j).cq1 = []) →
      (∀ j, j < 12 → ((s.bank (16 * cl + j)).mode = .fifo ↔ j = n)) → room ≤ (s.bank (16 * cl + n)).fifo.length →
      (s.lost = false → s.agenda = [] → dueEvent s = none → nextCore s = none → ∃ u, step s = .next u ∧ u.cyc = s.cyc + 1 ∧
        SMap.find u.relief cl = some ((SMap.find s.relief cl).getD s.cyc)) ∧
      ∀ g, SMap.find s.relief cl = some g → g + 1024 ≤ s.cyc →
      (∀ b, b < 12 → (∀ j, j ≤ b → ((s.bank (16 * cl + j)).mode = .reserve ∧ (s.bank (16 * cl + j)).lent = none ↔ j = b)) →
        exec (.fifoRelief cl) s = .next ({ s with relief := SMap.del s.relief cl }.setBank (16 * cl + b)
          { s.bank (16 * cl + b) with lent := some (16 * cl + n) })) ∧
      ((∀ j, j < 12 → (s.bank (16 * cl + j)).mode ≠ .reserve) → t.x.sv = false → t.x.tvec ≠ 0 →
        ∃ u v, exec (.fifoRelief cl) s = .next u ∧ (u.core k).task = some v ∧
          (t.landFlight s.cyc).Entered v s.cyc 0x0F (BitVec.ofNat 64 n))) ∧
    (∀ a, s.adds = [a] → a.issue < s.cyc →
      (a.cls = 0 → ∃ u, exec (.counterAddApply a.i) s = .next u ∧ u.adds = [] ∧
        u.ctr a.i = Nat.min (s.ctr a.i + a.val) (2 ^ 64 - 1) ∧ (∀ j, j ≠ a.i → u.ctr j = s.ctr j) ∧ u.mem = s.mem ∧
        u.reports = s.reports ++ (if s.ctr a.i + a.val < 2 ^ 64 ∨ a.uid = 0 then [] else
          [⟨a.core, a.uid, 0x1E, BitVec.ofNat 64 a.i⟩])) ∧
      (∀ st rest, a.cls / 2 % 2 = 1 → a.core = k → a.uid = t.uid → c.stores = st :: rest → st.issue < a.issue →
        exec (.counterAddApply a.i) s = .refused .notEnabled))

/-- Tasks come and go (R15, R86, R89 to R92, R161, R327, R337). TASK_START begins the first queued task of a free core with every
register zero, at the entry of its descriptor; a task that comes back has what it left with; a barrier to which every member has
come lets them all go on, and a launch-wide one of a launch with supersteps begins the other phase; an ended task counts for its
launch, whose digest takes mix64(X.DIG XOR index), and the last one completes it; a marked D-mode launch is run once more. A task of
a launch that an LNCH started reads nothing that its caches kept from before (R281). That BARG.LAUNCH alone changes the phase (log
56), and that the loop registers are 0 at the start of a task (log 1), is the model's choice. -/
def Obligations.TaskEvents : Prop :=
  ∀ (s : State) (k : Nat) (c : Core), s.settledWatches → s.core k = c → (∀ e ∈ s.launches, e.2.phase ≠ .reexec) →
    s.fl.holdD = false ∨ c.yielded = false →
    (∀ lid i x, c.task = none → c.saved = [] → c.todo = [(lid, i)] → SMap.find s.launches lid = some x → x.phase = .running →
      x.only = none → x.desc.trace = 0 → (k % 2 = 1 → (s.core (k - 1)).task = none) →
      ∃ u t, exec (.taskStart k) s = .next u ∧ (u.core k).task = some t ∧ (u.core k).todo = [] ∧ (u.core k).ready = s.cyc + 1 ∧
        (u.core k).half0 = .holds 0 ∧ (u.core k).half1 = .empty ∧ t.lid = lid ∧ t.pc = x.desc.entry ∧ t.iter = 0 ∧
        (∀ r, t.regs.sreg r = 0) ∧ (∀ r, t.regs.hreg r = 0) ∧ t.sticky = StickySet.quiet ∧ t.loops = Loops.off ∧ t.budget = x.desc.budget ∧
        t.x.tix = BitVec.ofNat 64 i ∧ t.x.ntask = BitVec.ofNat 64 x.desc.ntask ∧ t.x.launch = BitVec.ofNat 64 lid ∧
        t.x.arg = BitVec.ofNat 64 x.desc.arg ∧ t.x.tvec = BitVec.ofNat 64 x.desc.tvec ∧ t.x.sv = false ∧ t.x.wtmo = 2 ^ 32 ∧
        t.x.ste = true ∧ u.mem = s.mem ∧ (u.core k).recf = [] ∧
        (∀ j v, x.origin = .lnch j v → (u.core k).l1 = [] ∧ ∀ y ∈ u.cc (k / 8), y.since ≠ none)) ∧
    (∀ y, c.task = none → c.saved = [y] → c.todo = [] → (∀ w, y.wait = some w → w.met = true) → y.task.pend = [] → c.steps = [] →
      c.mops = [] → y.task.ninth = none → ∃ u t, exec (.barrierWaiterResume k) s = .next u ∧ (u.core k).task = some t ∧
        (u.core k).saved = [] ∧ (u.core k).ready = s.cyc + 1 ∧ (u.core k).wait = y.wait ∧ t.regs = y.task.regs ∧ t.x = y.task.x ∧
        t.pc = y.task.pc ∧ t.iter = y.task.iter ∧ t.loops = y.task.loops ∧ t.sticky = y.task.sticky ∧ u.mem = s.mem) ∧
    (∀ lid x sc n r w b t, (s.cores.map Prod.fst).Nodup → SMap.find s.launches lid = some x →
      c.wait = some ⟨.barg sc lid (groupOf sc k) n, r, w, false⟩ → c.task = some t → t.lid = lid → b ∈ t.bars → b.sc = sc → b.n = n →
      b.met = false → (∀ j, (s.core j).saved = [] ∧ (s.core j).todo = [] ∧ (s.core j).cq0 = [] ∧ (s.core j).cq1 = []) →
      s.veils = [] → s.links = [] → s.ccache = [] →
      (∀ j t, (s.core j).task = some t → t.lid = lid → groupOf sc j = groupOf sc k → n ≤ t.arrived.countP (fun e => e.1 == sc) ∧
        t.pend = [] ∧ (s.core j).stores = [] ∧ (∀ e ∈ (s.core j).l1, e.2.since = none) ∧ ∀ b ∈ t.bars, b.sc = sc → b.met = false → n ≤ b.n) →
      ∃ u, exec (.barrierComplete lid sc (groupOf sc k)) s = .next u ∧ u.mem = s.mem ∧
        (∀ j r w, (s.core j).wait = some ⟨.barg sc lid (groupOf sc k) n, r, w, false⟩ → groupOf sc j = groupOf sc k →
          (u.core j).wait = some ⟨.barg sc lid (groupOf sc k) n, r, w, true⟩) ∧
        (∀ j, (u.core j).task = (s.core j).task.map fun t => if groupOf sc j = groupOf sc k ∧ t.lid = lid then
          { t with bars := t.bars.map fun b => if b.sc = sc ∧ b.n = n then { b with met := true } else b } else t) ∧
        SMap.find u.launches lid = some (if sc = .launch ∧ x.desc.super = true then { x with exchange := !x.exchange } else x)) ∧
    (∀ t, c.task = some t → c.ended = true → t.faults = [] → t.pend = [] → t.flight = [] → c.stores = [] → c.cq0 = [] → c.cq1 = [] →
      s.veils = [] → s.links = [] → c.steps = [] → c.mops = [] → t.traced = false → t.logs = [] →
      (∀ x ∈ s.cc (k / 8), x.since = none) → (∀ e ∈ c.l1, e.2.since = none) →
      (∀ e ∈ s.cores, (∀ y, e.2.task = some y → y.parent ≠ some t.uid) ∧ ∀ y ∈ e.2.saved, y.task.parent ≠ some t.uid) →
      let counted (x : Launch) : Launch := { x with
        ended := x.ended + 1, left := x.left - 1, ranAt := s.cyc, digest := (x.digest + (mix64 (t.x.dig ^^^ t.x.tix)).toNat) % 2 ^ 64 }
      (∀ p n, t.parent = some p → t.spawnCtr = some n → ∃ u, exec (.endComplete k) s = .next u ∧ (u.core k).task = none ∧
        u.adds = s.adds ++ [⟨n, 1, k, t.uid, s.cyc, 0, false⟩] ∧ u.mem = s.mem) ∧
      (∀ x, t.parent = none → SMap.find s.launches t.lid = some x → 1 < x.left → ∃ u, exec (.endComplete k) s = .next u ∧
        (u.core k).task = none ∧ SMap.find u.launches t.lid = some (counted x) ∧ u.adds = s.adds ∧ u.mem = s.mem) ∧
      (∀ x q n, t.parent = none → SMap.find s.launches t.lid = some x → x.left = 1 → x.phase = .running → x.only = none →
        x.marked = false → x.fault = false → x.again = false → x.origin = .packet q n → x.ctr = none → SMap.find s.fl.queues q = some (s.queue q) →
        (∀ e ∈ s.banks, e.2.claim = some t.lid → wantsCache s t.lid e.1 = false) →
        ∃ u, exec (.endComplete k) s = .next u ∧ (u.core k).task = none ∧
          SMap.find u.launches t.lid = some { counted x with phase := .complete, status := 0, reex := 0 } ∧
          (∀ e ∈ (u.queue q).window, e.n = n → e.done = some 0) ∧ u.mem = s.mem)) ∧
    (∀ lid x, SMap.find s.launches lid = some x → x.phase = .running → x.only = none → x.left = 0 → x.desc.dmode = true → x.marked = true →
      x.again = false → ∃ u, exec (.launchReexecute lid) s = .next u ∧ u.mem = s.mem ∧ ∃ y, SMap.find u.launches lid = some y ∧
        y.phase = .reexec ∧ y.again = true ∧ y.left = x.desc.ntask ∧ y.digest = 0 ∧ y.desc = x.desc)

/-! ## Launches (R82 to R87, R292, R297, R308 to R311) -/

/-- A launch starts (R86, R297): LAUNCH_START, under page tables such as Fleus builds (R174), queues each task on an eligible core
of the partition, in D-mode by the formula of R86 and in F-mode, for one task, on the first core with the fewest; a gang too large
for its cores fails with GANG_SIZE (R87, R293), an image with a relocation that does not fit its field with RELOC_RANGE (R57). The
descriptor counts as it reads when the launch starts, with its relocations resolved. The model's choices here: the code of
RELOC_RANGE and the relocations' way in (log 57), that it goes before other statuses (log 35), and that a running sub-task counts
among a core's tasks (log 36). A relaunch is accepted once its launch has completed: it selects a task whose last run did not end
well, and ends at once where no task has to run again (R308, R309). A task whose old reads meet what a re-run task writes joins it
(R310), where it asks no bank to change its mode. -/
def Obligations.LaunchEvents : Prop :=
  ∀ (s : State) (lid : Nat) (x : Launch), SMap.find s.launches lid = some x → x.lid = lid →
    let d := x.desc
    let es := (List.range 512).filter fun k => decide (s.partOf (k / 8) = x.part) && d.cmask.testBit (k % 8)
    let load (k : Nat) : Nat := (s.core k).todo.length + (s.core k).saved.length + (s.core k).task.isSome.toNat
    let plain : Prop := d.gang = false ∧ d.banks = 0 ∧ es ≠ []
    let reads : Prop := descOf (littleEndian s.byte x.daddr 128) = some d
    (∀ b, b % 16 < 12 → (s.bank b).mode = .cache) →
    (∀ ptb spill q n, s.settledWatches → s.lreqs = [] → x.phase = .waiting → x.origin = .packet q n → reads → plain → d.trace = 0 → d.dtag = 0 →
      d.stages = 1 → d.staget = 0 → d.nseg = 0 → d.nbuf = 0 →
      tablesOk s (BitVec.ofNat 64 (ptb % 2 ^ 52)) = true → ∃ u y, exec (.launchStart lid ptb spill ⟨[], []⟩) s = .next u ∧ SMap.find u.launches lid = some y ∧ y.phase = .running ∧
        y.start = s.cyc ∧ y.ptb = BitVec.ofNat 64 (ptb % 2 ^ 52) ∧ y.left = d.ntask ∧ y.assign.length = d.ntask ∧
        (∀ i k, y.assign[i]? = some k → k ∈ es ∧ (lid, i) ∈ (u.core k).todo) ∧
        (d.dmode = true → ∀ i, i < d.ntask → y.assign[i]? =
          es[(mix64 (BitVec.ofNat 64 d.seed ^^^ BitVec.ofNat 64 (i * 0x9E3779B97F4A7C15))).toNat % es.length]?) ∧
        (∀ k, d.dmode = false → y.assign = [k] → ∀ j ∈ es, load k < load j ∨ (load k = load j ∧ k ≤ j))) ∧
    (∀ ptb spill q n e, s.settledWatches → s.lreqs = [] → x.phase = .waiting → x.origin = .packet q n → reads → d.gang = true →
      es.length < d.ntask → d.trace = 0 → d.dtag = 0 → d.stages = 1 → d.staget = 0 → d.nseg = 0 → d.nbuf = 0 →
      s.packet ⟨q, n⟩ = some e → tablesOk s (BitVec.ofNat 64 (ptb % 2 ^ 52)) = true →
      ∃ u, exec (.launchStart lid ptb spill ⟨[], []⟩) s = .next u ∧
        (u.packet ⟨q, n⟩).map WinEnt.done = some (some 5) ∧ (u.core 0).todo = (s.core 0).todo ∧ u.mem = s.mem) ∧
    (∀ ptb spill q n e tables rs rel, s.settledWatches → s.lreqs = [] → x.phase = .waiting → x.origin = .packet q n →
      s.packet ⟨q, n⟩ = some e → rel ∈ rs → (rel.kind = .word ∧ 2 ^ 32 ≤ rel.value) ∨
        (rel.kind = .ldi ∧ (rel.value < -2 ^ 44 ∨ 2 ^ 44 ≤ rel.value)) ∨ (rel.kind = .tensorBase ∧ rel.value % 64 ≠ 0) →
      ∃ u y, exec (.launchStart lid ptb spill ⟨tables, rs⟩) s = .next u ∧ u.mem = s.mem ∧
        (u.packet ⟨q, n⟩).map WinEnt.done = some (some Status.relocRange) ∧ SMap.find u.launches lid = some y ∧
        y.phase = .complete ∧ y.relix.isSome = true ∧ ∀ k, u.core k = s.core k) ∧
    (∀ w r pp, let pa := pp + d.trace % 65536
      s.settledWatches → (s.watch w).bound = some lid → (s.watch w).reqs = [r] → (s.watch w).dirty = [] → x.phase = .complete →
      d.ntask = 1 → d.trace ≠ 0 → (∀ e ∈ s.cores, e.2.fence = []) → SMap.find x.tbase (d.trace / 65536) = some pp → r.packet = none → r.ctr = none →
      (s.byte (pa + 4) = 2 → (s.byte (pa + 5)).toNat % 2 = 0 → ∃ u y, exec (.relaunchAccept w) s = .next u ∧
        (u.watch w).run = none ∧ (u.watch w).reqs = [] ∧ (u.watch w).orphans = 0 ∧ SMap.find u.launches lid = some y ∧
        y.phase = .complete ∧ y.status = 0 ∧ ∀ k, (u.core k).todo = (s.core k).todo) ∧
      (s.byte (pa + 4) ≠ 2 → plain → ∃ u y v k, exec (.relaunchAccept w) s = .next u ∧ (u.watch w).run = some v ∧ v.req = r ∧
        v.sel = [0] ∧ (u.watch w).reqs = [] ∧ SMap.find u.launches lid = some y ∧ y.phase = .rerun ∧ y.left = 1 ∧
        y.only = some [0] ∧ k ∈ es ∧ (lid, 0) ∈ (u.core k).todo)) ∧
    ∀ w y r l i b k t told wr rd, s.watches = [(w, y)] → y.bound = some lid → y.run = some r → x.phase = .rerun → x.only = some l →
      i ∉ l → b ∈ l → i < d.ntask → d.banks = 0 → es ≠ [] → (s.core k).task = some t → t.lid = lid → t.x.tix = BitVec.ofNat 64 b → b < 2 ^ 64 →
      t.rerun.isSome = true → t.recs = [wr] → wr.wr = true → r.old.find? (fun t => t.tix == i) = some told → told.recs = [rd] →
      rd.wr = false → rd.tile < wr.tile + wr.run → wr.tile < rd.tile + rd.run →
      ∃ u z j, exec (.relaunchTaskAdd w i b) s = .next u ∧ SMap.find u.launches lid = some z ∧ z.left = x.left + 1 ∧
        (∃ l', z.only = some l' ∧ i ∈ l' ∧ ∀ a ∈ l, a ∈ l') ∧ j ∈ es ∧ (lid, i) ∈ (u.core j).todo ∧ u.mem = s.mem

/-! ## The Fleus executive (R287 to R300) -/

/-- Queues at work (R212, R289 to R296, R300). The host's posted writes come in their order, but for one with the relaxed-ordering
attribute; a doorbell posts entries; the registers of a DISABLED queue take writes, and those of
another do not; a poll admits the entry whose sequence number is expected; a dispatch starts a packet whose tokens and counter
allow it, a malformed one failing with BAD_PACKET; a completion leaves the window, clears and sets its tokens, and adds to the
queue's counter; the faults of a Cuff hold or fault its queues. The model's choices here: that a malformed packet fails when it is
dispatched (log 35), and that what may not happen is refused (log 34). -/
def Obligations.FrontEnd : Prop :=
  ∀ (s : State) (q : Nat), s.settledWatches → q < 64 →
    let x := s.queue q
    let bits (w lo n : Nat) : Nat := w / 2 ^ lo % 2 ^ n
    (∀ (v : Word) n relaxed, s.ioEarly = [] → let io : State := { s with ioNext := n + 1 }
      (n = s.ioNext → exec (.qtail q ⟨v, n, relaxed⟩) s = .next (io.setQueue q { x with tail := v.toNat % 65536, pending := true })) ∧
      (s.ioNext < n → exec (.qtail q ⟨v, n, true⟩) s =
        .next ({ s with ioEarly := [n] }.setQueue q { x with tail := v.toNat % 65536, pending := true })) ∧
      (n ≠ s.ioNext → exec (.qtail q ⟨v, n, false⟩) s = .refused .notEnabled)) ∧
    (∀ (v : Word) relaxed, s.ioEarly = [] → let n := s.ioNext; let io : State := { s with ioNext := n + 1 }; (x.state = .disabled → v.toNat % 64 = 0 →
        exec (.registerWrite (0x10000 + 64 * q) ⟨v, n, relaxed⟩) s = .next (io.setQueue q { x with base := v.toNat })) ∧
      (x.state = .disabled → v.toNat % 64 ≠ 0 →
        exec (.registerWrite (0x10000 + 64 * q) ⟨v, n, relaxed⟩) s = .next (io.setQueue q { x with fail := 1 })) ∧
      (x.state = .disabled → bits v.toNat 7 1 = 0 → bits v.toNat 19 13 = 0 → bits v.toNat 48 16 = 0 →
        exec (.registerWrite (0x10008 + 64 * q) ⟨v, n, relaxed⟩) s = .next (io.setQueue q { x with cfg := v.toNat, rank := bits v.toNat 4 3 })) ∧
      (x.state = .disabled →
        exec (.registerWrite (0x10020 + 64 * q) ⟨v, n, relaxed⟩) s = .next (io.setQueue q { x with seq := v.toNat % 65536 })) ∧
      (x.state ≠ .disabled → ∀ o, o ∈ [0x10000, 0x10008, 0x10020] → exec (.registerWrite (o + 64 * q) ⟨v, n, relaxed⟩) s = .next io)) ∧
    (s.up = true → s.fl.cuffs = [] →
      (x.state ≠ .enabled ∨ x.pending = false → exec (.cuffPoll q) s = .next s) ∧
      (∀ w, w = littleEndian s.byte (x.base + 64 * (x.head % 2 ^ bits x.cfg 0 4)) 64 → x.state = .enabled → x.pending = true → x.window = [] →
        x.tail = (x.head + 1) % 65536 → bits w 16 16 = x.seq → bits w 32 64 = 0 → ∃ u e, exec (.cuffPoll q) s = .next u ∧
          (u.queue q).window = [e] ∧ e.bytes = w ∧ e.n = s.uids ∧ e.started = false ∧ e.done = none ∧ (u.queue q).head = x.head + 1 ∧
          (u.queue q).seq = (x.seq + 1) % 65536 ∧ (u.queue q).pending = false ∧ (u.queue q).misses = 0 ∧ (u.queue q).tokens = x.tokens ∧ u.mem = s.mem) ∧
      (∀ w, w = littleEndian s.byte (x.base + 64 * (x.head % 2 ^ bits x.cfg 0 4)) 64 → x.state = .enabled → x.pending = true → x.window = [] →
        x.tail ≠ x.head % 65536 → bits w 16 16 ≠ x.seq → x.misses < 65535 →
        exec (.cuffPoll q) s = .next (s.setQueue q { x with misses := x.misses + 1 }))) ∧
    (∀ e, s.up = true → s.fl.cuffs = [] → s.fl.queues = [(q, x)] → x.state = .enabled → x.window = [e] → e.started = false →
      bits e.bytes 32 64 = 0 → bits e.bytes 240 48 ≤ s.ctr (bits e.bytes 224 16) →
      let cuff := bits x.cfg 16 2
      (∀ i, decodePacket ⟨q, e.n⟩ e.bytes = some i → ∃ u, exec (.packetDispatch cuff) s = .next u ∧
        u.agenda = i :: .packetDispatch cuff :: s.agenda ∧ (u.queue q).window = [{ e with started := true }] ∧ u.mem = s.mem) ∧
      (decodePacket ⟨q, e.n⟩ e.bytes = none → ∃ u, exec (.packetDispatch cuff) s = .next u ∧
        (u.packet ⟨q, e.n⟩).map WinEnt.done = some (some 1))) ∧
    (∀ e c, x.window = [e] → x.state ≠ .faulted → x.state ≠ .held →
      (e.done = some c ∨ e.done = none ∧ c = 0 ∧ e.ran = true ∧
        ∃ ctr thr, decodePacket ⟨q, e.n⟩ e.bytes = some (.counterWait ⟨q, e.n⟩ ctr thr) ∧ thr ≤ s.ctr ctr) →
      ∃ u, exec (.packetCompletion ⟨q, e.n⟩) s = .next u ∧ (u.queue q).window = [] ∧
        (∀ j, j < 64 → (u.queue q).tokens.getLsbD j =
          (e.bytes.testBit (96 + j) || (x.tokens.getLsbD j && !e.bytes.testBit (160 + j)))) ∧
        (u.queue q).fail = (if c = 0 then x.fail else c) ∧ (u.queue q).head = x.head ∧
        u.adds = s.adds ++ (if x.cfg.testBit 18 then [⟨bits x.cfg 32 16, 1, 0, 0, s.cyc, 0, false⟩] else [])) ∧
    (∀ n, x.state = .held → exec (.packetCompletion ⟨q, n⟩) s = .refused .notEnabled) ∧
    (∀ e ctr thr, x.window = [e] → e.done = none → decodePacket ⟨q, e.n⟩ e.bytes = some (.counterWait ⟨q, e.n⟩ ctr thr) →
      s.ctr ctr < thr → exec (.packetCompletion ⟨q, e.n⟩) s = .refused .notEnabled) ∧
    (∀ c, c < 4 → s.fl.cuffs = [] → ∃ u, exec (.cuffRomParity c) s = .next u ∧ u.fl.cuffs = [c] ∧
      ∀ r, r < 64 → u.queue r = if bits (s.queue r).cfg 16 2 = c then { s.queue r with state := .held } else s.queue r) ∧
    (∃ u, exec (.cuffTableEcc (bits x.cfg 16 2) [q]) s = .next u ∧ u.queue q = { x with state := .faulted } ∧
      ∀ r, r < 64 → r ≠ q → u.queue r = s.queue r)

/-- The packets act (R292). A started packet whose action has not been taken takes it, on ranges of HBM4E that its partition may
address: COPY and FILL write their bytes and no others; LAUNCH records a launch that waits for its start; RELAUNCH and TRACE_ARM ask
of a watch; COUNTER_ADD adds at once; VEIL_CAL queues a calibration on the engines it names; QUERY answers for a launch; TID_WRITE
sets a table entry; QUEUE_CTL changes a queue of the partition. The model's choices here: the physical address of a LAUNCH's descriptor,
and COPY and FILL in one step (log 35); the number of the launch (log 7). -/
def Obligations.Packets : Prop :=
  ∀ (s : State) (p : PktRef) (e : WinEnt), s.settledWatches → s.packet p = some e → e.started = true → e.ran = false → e.done = none →
    s.err = [] → s.hbm.errs = [] → s.hbm.lost = [] →
    let part := (s.queue p.q).cfg / 2 ^ 8 % 2 ^ 8
    let free (a n : Nat) : Prop := a + n ≤ 0x00B400000000 ∧ ∀ b, a ≤ b → b < a + n → Config.outside part (b / 65536) = false
    let runs (i : Instr) (P : State → Prop) : Prop := decodePacket p e.bytes = some i → ∃ u, exec i s = .next u ∧
      (∃ f, u.packet p = some f ∧ f.ran = true ∧ f.bytes = e.bytes) ∧ P u
    let done (u : State) (c : Nat) : Prop := (u.packet p).map WinEnt.done = some (some c)
    runs (.nopPacket p) (fun u => done u 0 ∧ u.mem = s.mem) ∧
    (∀ ctr v, runs (.counterAdd p ctr v) fun u => done u 0 ∧ u.ctr ctr = Nat.min (s.ctr ctr + v) (2 ^ 64 - 1) ∧
      ∀ j, j ≠ ctr → u.ctr j = s.ctr j) ∧
    (∀ ctr thr, runs (.counterWait p ctr thr) fun u => (u.packet p).map WinEnt.done = some none ∧ u.ctrs = s.ctrs ∧ u.mem = s.mem) ∧
    (∀ dst len pat, free dst len → runs (.fill p dst len pat) fun u => done u 0 ∧
      (∀ j, j < len → (u.byte (dst + j)).toNat = pat.toNat / 256 ^ (j % 8) % 256) ∧
      ∀ q, (q < dst ∨ dst + len ≤ q) → u.byte q = s.byte q) ∧
    (∀ src dst len, free src len → free dst len → (src + len ≤ dst ∨ dst + len ≤ src) → runs (.copy p src dst len) fun u => done u 0 ∧
      (∀ j, j < len → u.byte (dst + j) = s.byte (src + j)) ∧ ∀ q, (q < dst ∨ dst + len ≤ q) → u.byte q = s.byte q) ∧
    (∀ a ctr d, free a 128 → a % 64 = 0 → descOf (littleEndian s.byte a 128) = some d → d.dtag = 0 → runs (.launch p a ctr) fun u =>
      (u.packet p).map WinEnt.done = some none ∧ u.mem = s.mem ∧ ∃ x, SMap.find u.launches (s.fl.lids + 1) = some x ∧
        x.phase = .waiting ∧ x.desc = d ∧ x.origin = .packet p.q p.n ∧ x.part = part ∧ x.ctr = ctr) ∧
    (∀ w ctr l x, w < 16 → (s.watch w).bound = some l → SMap.find s.launches l = some x → x.part = part →
      runs (.relaunch p w ctr) fun u => (u.packet p).map WinEnt.done = some none ∧
        ∃ r, (u.watch w).reqs = (s.watch w).reqs ++ [r] ∧ r.packet = some p ∧ r.ctr = ctr) ∧
    (∀ w l x, w < 16 → SMap.find s.launches l = some x → x.part = part → x.desc.trace ≠ 0 → x.assign ≠ [] →
      runs (.traceArm p w l) fun u => done u 0 ∧ (u.watch w).bound = some l ∧ (u.watch w).dirty = []) ∧
    (∀ mask, runs (.veilCal p mask) fun u => ∀ h, h < 4 →
      (mask.getLsbD h = true → ∃ o, (u.veil h).ops = (s.veil h).ops ++ [o] ∧ o.op = .veilCal p mask ∧ o.uid = 0) ∧
      (mask.getLsbD h = false → (u.veil h).ops = (s.veil h).ops)) ∧
    (∀ c a l x, free a 64 → SMap.find s.launches l = some x → x.part = part → runs (.query p 2 c a l) fun u => done u 0 ∧
      littleEndian u.byte a 8 = (if x.phase = .complete then x.status else 0xFF) % 2 ^ 64 ∧ littleEndian u.byte (a + 8) 8 = x.ended % 2 ^ 64 ∧
      ∀ q, (q < a ∨ a + 64 ≤ q) → u.byte q = s.byte q) ∧
    (∀ a ch cl id, let r : Record := BitVec.ofNat 768 (littleEndian s.byte a 96); free a 96 → ch ≤ 3 → cl ≤ 15 → id < 4096 →
      runs (.tidWrite p a ch cl id) fun u => u.mem = s.mem ∧
        (recordBad r = none → done u 0 ∧ u.tid (16 * ch + cl) id = some r) ∧ (recordBad r ≠ none → done u 4 ∧ u.tables = s.tables)) ∧
    (∀ t, let x := s.queue t; t < 64 → t ≠ p.q → x.cfg / 2 ^ 8 % 2 ^ 8 = part →
      (x.state = .disabled ∨ x.state = .enabled → runs (.queueCtlEnable p t) fun u => done u 0 ∧ (u.queue t).state = .enabled ∧
        (u.queue t).tokens = 0 ∧ (u.queue t).window = [] ∧ (u.queue t).head = 0 ∧ (u.queue t).cfg = x.cfg ∧ (u.queue t).seq = x.seq) ∧
      (x.window = [] → runs (.queueCtlDisable p t) fun u => done u 0 ∧ u.queue t = { x with state := .disabled }) ∧
      (x.window ≠ [] → runs (.queueCtlDisable p t) fun u => done u 1 ∧ u.queue t = x) ∧
      (∀ home, home < 4 → x.window = [] → runs (.queueCtlRehome p t home) fun u => done u 0 ∧
        (u.queue t).cfg / 2 ^ 16 % 4 = home ∧ (∀ b, (b < 16 ∨ 18 ≤ b) → (u.queue t).cfg.testBit b = x.cfg.testBit b) ∧
        (u.queue t).state = (if x.state = .held ∨ x.state = .faulted then .enabled else x.state)) ∧
      (x.state = .faulted → runs (.queueCtlClear p t) fun u => done u 0 ∧ (u.queue t).state = .disabled ∧ (u.queue t).window = []) ∧
      (x.state ≠ .faulted → runs (.queueCtlClear p t) fun u => done u 1 ∧ u.queue t = x))

/-! ## Memory from outside, and management (R171, R180 to R187, R212, R340 to R343, R353 to R358, R370 to R375) -/

/-- The host, the peers and the memory system (R171, R182, R186, R187, R212, R340, R342, R343, R354, R356, R363, R364). Writes from
outside change the bytes they name and, but for the copies of a lost stack, no others; the host's accesses of its window are answered,
those beyond it, and any in 68-byte flit mode, with an error; posted writes come in order; a write-back carries a dirty chunk and its
parity delta to the stacks; a lost stack's chunk is the exclusive or of its stripe; the first loss of a stack ends no launch; a row is
refreshed once its interval has passed, and refreshing, scrubbing and wear change no value of memory; a soft error flips its bit or
spoils its word. The model's choices in it: a refresh before its interval, which R186 does not forbid, is refused (log 34); a running
copy's delay is a free time of at most 720 cycles (log 10); which row an address lies in is free (log 19); a write-back marks no watch
a second time (log 69). -/
def Obligations.MemorySystem : Prop :=
  ∀ (s : State), s.settledWatches →
    let wrote (u : State) (a : Nat) (bs : List Byte) : Prop := (∀ j b, bs[j]? = some b → u.byte (a + j) = b) ∧
      ∀ q, (q < a ∨ a + bs.length ≤ q) → regionOf q ≠ .rebuild → u.byte q = s.byte q
    let period (key : Nat) : Nat := 57600000 * 2 ^ (2 - s.rowClass key)
    let due (key : Nat) : Prop := SMap.get 0 s.hbm.refreshed key + period key ≤ s.cyc
    let data (v : State) (c j : Nat) : Byte := SMap.get blank v.hbm.data (512 * c + j)
    let parity (v : State) (c j : Nat) : Byte := SMap.get blank v.hbm.parity (512 * c + j)
    (s.up = true →
      (∀ off bs, bs ≠ [] → s.fl.flit68 = false → off + bs.length ≤ s.fl.window.2 →
        s.fl.window.1 + s.fl.window.2 ≤ 0x00B400000000 →
        ∃ u, exec (.hostCxlMemAccess off bs.length (some bs)) s = .next u ∧ wrote u (s.fl.window.1 + off) bs ∧
          u.fl.responses = s.fl.responses ++ [(true, [])]) ∧
      (∀ off n, 0 < n → s.fl.flit68 = false → off + n ≤ s.fl.window.2 → s.fl.window.1 + s.fl.window.2 ≤ 0x00B400000000 →
        ∃ u bs, exec (.hostCxlMemAccess off n none) s = .next u ∧ u.mem = s.mem ∧ u.cores = s.cores ∧ (∀ w ∈ u.err, w ∈ s.err) ∧
          u.fl.responses = s.fl.responses ++ [(true, bs)] ∧ bs.length = n ∧
          (s.err = [] → s.hbm.errs = [] → ∀ j, j < n → bs[j]? = some (s.byte (s.fl.window.1 + off + j)))) ∧
      (∀ off n w, 0 < n → s.fl.flit68 = true ∨ s.fl.window.2 < off + n → (∀ bs, w = some bs → bs.length = n) →
        exec (.hostCxlMemAccess off n w) s = .next { s with fl := { s.fl with responses := s.fl.responses ++ [(false, [])] } }) ∧
      (∀ a bs r, bs ≠ [] → s.ioEarly = [] → a + bs.length ≤ 0x00B400000000 →
        ∃ u, exec (.hostCxlIoWrite a bs ⟨s.ioNext, r⟩) s = .next u ∧ u.ioNext = s.ioNext + 1 ∧
          (s.fl.flit68 = false → s.fl.window.1 ≤ a → a + bs.length ≤ s.fl.window.1 + s.fl.window.2 → wrote u a bs) ∧
          (s.fl.flit68 = true ∨ a < s.fl.window.1 ∨ s.fl.window.1 + s.fl.window.2 < a + bs.length → u.mem = s.mem)) ∧
      (∀ dev off bs, bs ≠ [] → dev < 512 → dev ≠ s.devnum → off + bs.length ≤ 0x00B400000000 →
        (∃ u, exec (.peerMemoryAccess dev off bs.length (some bs)) s = .next u ∧ wrote u off bs) ∧
        ∃ u, exec (.peerMemoryAccess dev off bs.length none) s = .next u ∧ u.mem = s.mem ∧ u.cores = s.cores ∧ ∀ w ∈ u.err, w ∈ s.err)) ∧
    (∀ c, c ∈ s.hbm.dirty → s.hbm.flight = [] → s.hbm.lost = [] → s.hbm.errs = [] → ∃ u w, exec (.hemWriteback c) s = .next u ∧ u.hbm.flight = [w] ∧
      c ∉ u.hbm.dirty ∧ w.chunk = c ∧ w.dataAck = false ∧ w.parAck = false ∧ u.mem = s.mem ∧ u.watches = s.watches ∧
      (∀ j, j < 512 → w.data[j]? = some (s.byte (512 * c + j)) ∧ w.delta[j]? = some (data s c j ^^^ s.byte (512 * c + j)))) ∧
    (∀ w, s.hbm.flight = [w] → s.hbm.lost = [] → w.data.length = 512 → w.delta.length = 512 →
      (w.dataAck = false → ∃ u, exec (.writebackAck w.chunk false) s = .next u ∧ u.mem = s.mem ∧ u.hbm.parity = s.hbm.parity ∧
        (∀ j b, w.data[j]? = some b → data u w.chunk j = b) ∧
        u.hbm.flight = if w.parAck then [] else [{ w with dataAck := true }]) ∧
      (w.parAck = false → ∃ u, exec (.writebackAck w.chunk true) s = .next u ∧ u.mem = s.mem ∧ u.hbm.data = s.hbm.data ∧
        (∀ j b, w.delta[j]? = some b → parity u (w.chunk / 15) j = parity s (w.chunk / 15) j ^^^ b) ∧
        u.hbm.flight = if w.dataAck then [] else [{ w with parAck := true }])) ∧
    (∀ c, let st := c / 15; s.hbm.lost = [(st + 1 + c % 15) % 16] → s.hbm.rebuilt = 0 → s.err = [] → s.hbm.parErr = [] → s.hbm.flight = [] → c ∉ s.hbm.dirty →
      512 * c < 0x00B400000000 → ∃ u, exec (.reconstructRead c) s = .next u ∧
        (∀ j, j < 512 → u.byte (512 * c + j) = ((List.range 15).filter fun i => i != c % 15).foldl
          (fun b i => b ^^^ data s (15 * st + i) j) (parity s st j)) ∧
        ∀ q, (q < 512 * c ∨ 512 * c + 512 ≤ q) → u.byte q = s.byte q) ∧
    (∀ k, k < 16 → (s.hbm.lost = [] → ∃ u, exec (.stackLost k) s = .next u ∧ u.hbm.lost = [k] ∧ u.launches = s.launches ∧
        (∀ j, (u.core j).task = (s.core j).task) ∧ (∃ n : CopyOp → Nat, ∀ j (sl : CSlot) o, o ∈ (s.core j).cq sl →
          (if o.dm = true ∧ o.stage = .running ∧ ∃ c ∈ o.chunks, stackOf c = k then { o with due := o.due + n o } else o) ∈ (u.core j).cq sl) ∧
        (s.hbm.lostAt = none → u.hbm.lostAt = some s.cyc)) ∧
      (∀ j lid x, s.hbm.lost = [j] → j ≠ k → SMap.find s.launches lid = some x → (s.launches.map Prod.fst).Nodup → x.phase ≠ .complete →
        ∃ u y, exec (.stackLost k) s = .next u ∧ u.hbm.lost = [j, k] ∧ SMap.find u.launches lid = some y ∧ y.phase = .complete ∧
          y.status = 7 ∧ ∀ q, q < 64 → (u.queue q).state = .faulted)) ∧
    (∀ k, let st := s.hbm.rebuilt; s.hbm.lost = [k] → s.fl.rebuild = true → s.hbm.flight = [] → st + 1 < 0x00B400000000 / 7680 →
      ∃ u, exec (.stackRebuildStripe st) s = .next u ∧ u.hbm.rebuilt = st + 1 ∧ u.hbm.data = s.hbm.data ∧
        (k = st % 16 → ∀ j, j < 512 → u.byte (0x03F400000000 + 512 * st + j) =
          (List.range 15).foldl (fun b i => b ^^^ data s (15 * st + i) j) 0) ∧
        ∀ q, (q < 0x03F400000000 + 512 * st ∨ 0x03F400000000 + 512 * st + 512 ≤ q) → u.byte q = s.byte q) ∧
    (∀ bank row, row < 2 ^ 32 → let key := bank * 2 ^ 32 + row
      (due key → ∃ u, exec (.refresh bank row) s = .next u ∧ u.mem = s.mem ∧ u.cores = s.cores ∧ SMap.get 0 u.hbm.refreshed key = s.cyc) ∧
      (¬ due key → exec (.refresh bank row) s = .refused .notEnabled)) ∧
    (∀ bank rows, rows.length = 8 → rows.Pairwise (· < ·) → (∀ r ∈ rows, r < 2 ^ 32 ∧ due (bank * 2 ^ 32 + r)) →
      let held (o : CopyOp) : Prop := o.stage = .running ∧ ∃ c ∈ o.chunks, ∃ i, i < 8 ∧ rowOf (512 * c + 64 * i) / 2 ^ 32 = bank
      (∃ k o, ∃ sl : CSlot, o ∈ (s.core k).cq sl ∧ held o) → ∃ u n, exec (.refreshInterrupt ⟨bank, rows⟩) s = .next u ∧ n ≤ 720 ∧
        u.mem = s.mem ∧ (∀ r ∈ rows, SMap.get 0 u.hbm.refreshed (bank * 2 ^ 32 + r) = s.cyc) ∧
        ∀ k (sl : CSlot) o, o ∈ (s.core k).cq sl →
          (held o ∧ o.dm = false → { o with due := o.due + n } ∈ (u.core k).cq sl) ∧
          (¬(held o ∧ o.dm = false) → o ∈ (u.core k).cq sl)) ∧
    (∀ a w, (∀ p, (s.ring p).size = 0) → (a < 0x00B400000000 ∨ 0x7F0000000000 ≤ a ∧ a < 0x7F0000000000 + 4 * 2 ^ 28) →
      ∃ u, exec (.patrolScrub a w) s = .next u ∧ u.mem = s.mem ∧ u.cores = s.cores ∧ (a < 0x00B400000000 → ∀ r,
        u.rowClass r = if r = rowOf a then Nat.min (s.rowClass r + 1) 2 else s.rowClass r)) ∧
    (∀ ws : List Word, ws.length = 21 → (∀ w ∈ ws, w.toNat / 2 ^ 63 = 1 ∧ w.toNat / 2 ^ 48 % 2 ^ 15 = 0 ∧ w.toNat / 2 ^ 40 % 2 ^ 8 ≤ 100 ∧
      w.toNat / 2 ^ 32 % 2 ^ 8 ≤ 2) → exec (.wearRefresh ws) s = .next { s with fl := { s.fl with wear := ws } }) ∧
    (∀ k t r b, (s.core k).task = some t → 0 < r → r < 64 → b < 64 → ∃ u v, exec (.softError (.scalar k r b)) s = .next u ∧
      (u.core k).task = some v ∧ v.regs.sreg r = t.regs.sreg r ^^^ BitVec.ofNat 64 (2 ^ b) ∧
      (∀ j, j ≠ r → v.regs.sreg j = t.regs.sreg j) ∧ v.pc = t.pc ∧ u.mem = s.mem) ∧
    (∀ a, a < 0x00B400000000 → ∃ u, exec (.softError (.uncorrectable a)) s = .next u ∧ u.mem = s.mem ∧
      if a / 512 ∈ s.hbm.dirty ∨ ∃ w ∈ s.hbm.flight, w.chunk = a / 512 then a / 8 * 8 ∈ u.hbm.errs
      else stackOf (a / 512) ∉ s.hbm.lost → a / 64 * 64 ∈ u.err) ∧
    (∀ st, st < 0x00B400000000 / 7680 → ∃ u, exec (.softError (.parity st)) s = .next u ∧ st ∈ u.hbm.parErr ∧ u.mem = s.mem) ∧
    (∀ k off, off < 0x40000 → ∃ u, exec (.softError (.instrMem k off)) s = .next u ∧ off / 8 * 8 ∈ (u.core k).imemErr ∧
      (u.core k).imem = (s.core k).imem ∧ u.mem = s.mem)

/-- Management and power (R205, R301, R353, R363, R364, R370 to R375). Power-on holds the Cuffs whose ROM parity fails, and brings the
module up or reports the step that fails; a command is carried out or refused, and a refused one changes nothing else; an attestation
report holds the identity, the two hashes, the reset count and the nonce; a reset partition's launches end with TASK_FAULT and its
counters are zero; a reset of the module is followed by power-on, and puts the boot configuration's power cap in force; the controller
samples every 180,000 cycles and acts by one step of R374, in the reverse order once demand is within the cap; a lost chiplet,
interposer or base die ends the module. The model's choices in it: the form of the reports of a failed step and of a loss (log 58);
the layout of an attestation report (log 18); the actions undone in reverse order, a sample before its cycle refused, and the wear
words behind the telemetry record (log 46); a new event ring begins at record 0 (logs 31, 46); memory after RESET_MODULE (log 2). -/
def Obligations.Management : Prop :=
  ∀ (s : State), s.settledWatches →
    let told (v : State) (ok : Bool) (bs : List Byte) : State := { v with fl := { v.fl with replies := v.fl.replies ++ [(ok, bs)] } }
    let done (i : Instr) (v : State) : Prop := exec i s = .next (told v true [])
    let refused (i : Instr) : Prop := exec i s = .next (told s false [])
    let running : Prop := ∃ e ∈ s.launches, e.2.phase = .running
    let idle (x : Launch) : Prop := x.phase = .complete ∨ x.phase = .waiting
    let still : Prop := ∀ e ∈ s.launches, idle e.2
    (s.up = false → s.lost = false → let b := s.fl.boot
      let signed := b.rsa = true ∧ b.slh = true
      let begun (u : State) : Prop := exec .powerOn s = .next u ∧ u.fl.cuffs = b.roms ∧ u.fl.booting = false ∧
        (∀ q, q < 64 → (u.queue q).home ∈ b.roms → (u.queue q).state = .held) ∧ ∀ k, u.core k = s.core k
      let stays (u : State) (bs : List Byte) : Prop := begun u ∧ u.up = false ∧ u.fl.replies = s.fl.replies ++ [(false, bs)]
      (signed → b.fails = none → ∃ u, begun u ∧ u.up = true ∧ (∀ p, p < 32 → (u.port p).state = 2) ∧
        u.fl.flit68 = b.flit68 ∧ u.fl.refused = b.asks ∧ u.fl.cap = s.fl.bootCap) ∧
      (∀ k c, signed → b.fails = some (k, c) → ∃ u, stays u (leBytes 1 (k.val + 1) ++ leBytes 1 c)) ∧
      (¬ signed → b.fails = none → ∃ u c, stays u (leBytes 1 2 ++ c))) ∧
    exec .identify s = .next (told s true ((List.range 32).map Config.identityByte)) ∧
    (∀ nonce, nonce.length = 32 → ∃ rom boot rest sig, rom.length = 48 ∧ boot.length = 48 ∧ rest.length = 344 ∧ exec (.attest nonce) s =
      .next (told s true ((List.range 32).map Config.identityByte ++ rom ++ boot ++ leBytes 8 s.fl.resets ++ nonce ++ rest ++ sig))) ∧
    (∀ nonce, nonce.length ≠ 32 → refused (.attest nonce)) ∧
    (∀ n, n ≤ 511 → still → done (.setDevnum n) { s with devnum := n }) ∧
    (∀ n, 511 < n ∨ running → refused (.setDevnum n)) ∧
    (∀ p b z, b % 2 ^ 30 = 0 → z % 2 ^ 30 = 0 → z ≤ 64 * 2 ^ 30 → b + z ≤ 0x00B400000000 → (∀ e ∈ s.launches, e.2.part = p → idle e.2) →
      done (.setWindow ⟨p, b⟩ z) { s with fl := { s.fl with window := (b, z) } }) ∧
    (∀ p b z, b % 2 ^ 30 ≠ 0 ∨ z % 2 ^ 30 ≠ 0 ∨ 64 * 2 ^ 30 < z ∨ 0x00B400000000 < b + z ∨
      (∃ e ∈ s.launches, e.2.part = p ∧ e.2.phase = .running) → refused (.setWindow ⟨p, b⟩ z)) ∧
    (∀ p a z, (s.ring p).held = [] → done (.setEventRing ⟨p, a⟩ z) (s.setRing p { s.ring p with addr := a, size := z, eseq := 0 })) ∧
    (∀ ks, done (.setIdeKeys ks) { s with fl := { s.fl with keys := ks } }) ∧
    (∀ w, 1500 ≤ w → w ≤ 4400 → done (.setCap w) { s with fl := { s.fl with cap := w } }) ∧
    (∀ w, w < 1500 ∨ 4400 < w → refused (.setCap w)) ∧
    exec .telemetry s = .next (told s true (s.fl.telemetry ++ s.fl.wear.flatMap fun w => leBytes 8 w.toNat)) ∧
    (s.cyc < s.fl.sampleAt → ∀ bs ts, exec (.powerSample bs ts) s = .refused .notEnabled) ∧
    (∀ bs ts : List (BitVec 16), bs.length = 5 → ts.length = 4 → s.up = true → s.fl.sampleAt ≤ s.cyc → s.fl.cap < 65536 →
      ∃ u, exec (.powerSample bs ts) s = .next u ∧ u.mem = s.mem ∧ u.cores = s.cores ∧ u.fl.sampleAt = s.cyc + 180000 ∧
      u.fl.telemetry.length = 64 ∧ let total := bs.foldl (fun n b => n + b.toNat) 0
        let at2 (i : Nat) : Nat := leNat ((u.fl.telemetry.drop i).take 2)
        at2 0 ≤ s.fl.cap ∧ at2 20 = u.fl.duty % 256 ∧ (∀ k t, ts[k]? = some t → at2 (12 + 2 * k) = t.toNat) ∧
        (total ≤ s.fl.cap → at2 0 = total ∧ ∀ k b, bs[k]? = some b → at2 (2 + 2 * k) = b.toNat) ∧
        (s.fl.cap < total → ∀ k b, bs[k]? = some b → at2 (2 + 2 * k) ≤ b.toNat) ∧
        (s.fl.cap < total → 4 < s.fl.duty → u.fl.duty = s.fl.duty - 1 ∧ u.fl.spaced = s.fl.spaced ∧ u.fl.halved = s.fl.halved) ∧
        (s.fl.cap < total → s.fl.duty ≤ 4 → s.fl.spaced = false → u.fl.duty = s.fl.duty ∧ u.fl.spaced = true) ∧
        (s.fl.cap < total → s.fl.duty ≤ 4 → s.fl.spaced = true → s.fl.halved = false → u.fl.halved = true ∧ u.fl.holdD = s.fl.holdD) ∧
        (s.fl.cap < total → s.fl.duty ≤ 4 → s.fl.spaced = true → s.fl.halved = true → u.fl.holdD = true) ∧
        (total ≤ s.fl.cap → s.fl.holdD = true → u.fl.holdD = false ∧ u.fl.halved = s.fl.halved ∧ u.fl.duty = s.fl.duty) ∧
        (total ≤ s.fl.cap → s.fl.holdD = false → s.fl.halved = true → u.fl.halved = false ∧ u.fl.duty = s.fl.duty) ∧
        (total ≤ s.fl.cap → s.fl.holdD = false → s.fl.halved = false → s.fl.spaced = false → u.fl.duty = Nat.min 16 (s.fl.duty + 1))) ∧
    (∀ part lo hi, lo ≤ hi → hi ≤ 65535 → ∃ u, exec (.resetPartition part lo hi) s = .next u ∧
      (∀ i, u.ctr i = if lo ≤ i ∧ i ≤ hi then 0 else s.ctr i) ∧ ((s.launches.map Prod.fst).Nodup → ∀ l x, SMap.find s.launches l = some x →
        (x.part ≠ part → SMap.find u.launches l = some x) ∧
        (x.part = part → x.phase ≠ .complete → ∃ y, SMap.find u.launches l = some y ∧ y.phase = .complete ∧ y.status = 7)) ∧
      ∀ k t, (u.core k).task = some t → ∀ x, SMap.find s.launches t.lid = some x → x.part = part → x.phase = .complete) ∧
    (∀ part lo hi, hi < lo ∨ 65535 < hi → refused (.resetPartition part lo hi)) ∧
    (∃ u, exec .resetModule s = .next u ∧ u.up = false ∧ u.mem = State.reset.mem ∧ (∀ k, (u.core k).task = none) ∧ (∀ i, u.ctr i = 0) ∧
      u.fl.cap = s.fl.bootCap ∧ u.fl.resets = s.fl.resets + 1 ∧ (s.lost = false → s.agenda = [] → step u = exec .powerOn u)) ∧
    (∀ what, (match what with
        | .chiplet c => c < 4
        | .interposer => True
        | .baseDie k => k < 16) → (s.launches.map Prod.fst).Nodup →
      ∃ u bs, exec (.chipletLost what) s = .next u ∧ u.lost = true ∧ step u = .fault .moduleLost ∧ u.fl.replies = s.fl.replies ++ [(false, bs)] ∧
      ∀ l x, SMap.find s.launches l = some x → x.phase ≠ .complete → ∃ y, SMap.find u.launches l = some y ∧ y.phase = .complete ∧
        y.status = 7) ∧
    (∀ h temp, h < 4 → ∃ u, exec (.dieTemperatureChange h temp) s = .next u ∧ (u.veil h).temp = temp ∧
      (∀ j, j ≠ h → u.veil j = s.veil j) ∧ u.mem = s.mem ∧ u.cores = s.cores)

/-! ## Bundles of several operations (R6, R26, R28 to R31) -/

/-- The operations of a bundle act together (R6, R25, R28 to R31): an ADD and a KALU both read the registers as they were
before the bundle; one whose guard is false has no effect; a repeated bundle stays at its pc for its next iteration, one cycle
later; where one operation traps none has an effect; a bundle of one operation is that operation. A nop (R26) does nothing but take its
slot, and a sticky slot remembers it, so that later bundles that omit the slot re-issue nothing. A sticky slot whose previous operation
is an element-wise one re-issues it with its rows stepped, under its guard read anew, where the bundle omits the slot and in every
iteration after the first, in which an S operation does not act; the slot remembers the stepped operation. A QUIET bit, or X.STATUS.STE
at 0, makes an omitted slot quiet. -/
def Obligations.BundlesActTogether : Prop :=
  let nop : Word := 0x0180000000000000
  let sticky (m : Mach) (x : StickySet) : Mach := (m.onC Core.issued).onT fun t => { t with sticky := x }
  (∀ (s : State) (m : Mach) (h : Header) (w v : Word) (d a b e f g : SReg),
     (s.mach s.cur).map Mach.view = some m → m.t.iter = 0 → m.t.flow = Flow.none → m.t.sticky = StickySet.quiet → m.t.pend = [] →
     m.t.loops.straight m.t.pc → s.settledWatches → m.t.budget.s = 64 → (∀ r, m.t.regs.spoison r = none) →
     h.present = 0x101 → h.y = false → h.b = false →
     decSyl .s w.toNat = .ok (.add d a b) → decSyl .k v.toNat = .ok (.kalu e f (.reg .add g)) →
     let S (r : SReg) : Word := m.t.regs.sreg r.toNat
     let on (x : Word) : Bool := m.t.regs.guard (guardOf x.toNat)
     let fly (c : Bool) (r : Result) (n : Mach) : Mach := if c then n.onT fun t => t.fly r else n
     let both (n : Mach) : Mach := fly (on v) (inFlight m 1 e.toNat (S f + S g)) (fly (on w) (inFlight m 1 d.toNat (S a + S b)) n)
     (h.rep = 0 → exec (.bundleIssue h [w, v]) s = .next ((both (m.onC Core.issued)).leave (m.t.pc + 24) 1)) ∧
     (h.rep ≠ 0 → exec (.bundleIssue h [w, v]) s = .next (((both (m.onC Core.issued)).onC fun c =>
       { c with ready := Nat.max c.ready (s.cyc + 1) }).onT fun t => { t with iter := 1 }).put) ∧
     ∀ x n, decSyl .s x.toNat = .ok (.trap n) → m.t.regs.guard (guardOf x.toNat) = true → s.catches →
       Delivers (.bundleIssue h [x, v]) s 0x1B (BitVec.ofNat 64 (n.toNat + 3 * 2 ^ 16))) ∧
  (∀ (s : State) (sl : Slot) (i : Instr) (w : Word), decSyl sl w.toNat = .ok i → slotOf i = some sl → guardOf w.toNat = ⟨false, 0⟩ →
     exec (.bundleIssue (oneSlot sl) [w]) s = exec i s) ∧
  (∀ (s : State) (m : Mach) (sl : Slot), Ready sl (.nop sl) s m → exec (.nop sl) s =
     .next (sticky m (StickySet.only sl ⟨⟨true, 0⟩, .nop sl, capture0 m.t.regs (.nop sl)⟩)).retire) ∧
  (∀ (s : State) (m : Mach) (h : Header) (p : Sticky), (s.mach s.cur).map Mach.view = some m → m.t.flow = Flow.none →
     m.t.loops.straight m.t.pc → s.settledWatches → m.t.loadCount < 128 → m.c.storeCount < 128 → h.y = false → h.b = false →
     (∀ sl, Slot.sticky sl = true → p.g = ⟨true, 0⟩ → p.op = .nop sl → m.t.sticky = StickySet.only sl p → m.t.x.ste = true →
        m.t.iter = 0 → h.present = 1 → h.quiet = 0 → h.rep = 0 →
        exec (.bundleIssue h [nop]) s = .next (sticky m (StickySet.only sl p)).retire) ∧
     (∀ (v : VSlot) (c : VCom) (lat : Nat) (d : RowRef) (srcs : List RowRef) (f : List Nat → Nat),
        vectorElem p.op = some (v, c, lat, d, srcs, f) → p.op.wellFormed = true → m.t.sticky = StickySet.only (VSlot.slot v) p →
        let sl := VSlot.slot v
        let i := stepRows p.op
        let nx (r : RowRef) : RowRef := { r with r := r.r + c.step }
        let a : Acting := ⟨sl, p.g, i, p.cap, false⟩
        let again (b : Instr) (after : Mach → State) : Prop := ∃ x mask,
          exec b s = .next (after ((sticky m (StickySet.only sl ⟨p.g, i, p.cap⟩)).onT fun t =>
            if m.t.regs.guard p.g then t.fly (rowInFlight m lat (nx d) x mask (rowTaint m (nx d) mask (vecTaint m c (srcs.map nx))))
            else t)) ∧
          (∀ e, e < 2048 / c.ty.bits → elemOf c.ty.bits x e = f (srcs.map fun r => elemOf c.ty.bits (rowRead m (nx r)).data e)) ∧
          ∀ k, k < 256 → mask.getLsbD k = laneOn m c k
        (staticCheck m.t.budget i = none → a.pends m.t = false → a.meetsBusy m.c = false → a.poison m.t.regs = none →
          (m.t.iter = 0 → m.t.x.ste = true → h.present = 1 → h.quiet.getLsbD sl.ix = false → h.rep = 0 →
            again (.bundleIssue h [nop]) Mach.retire) ∧
          (∀ w u j e g k, 0 < m.t.iter → m.t.iter ≤ h.rep.toNat → h.present = 1 ||| (1 <<< sl.ix) → decSyl .s w.toNat = .ok (.add e g k) →
            decSyl sl u.toNat = .ok j → (vectorElem j).isSome = true → staticCheck m.t.budget (.add e g k) = none →
            again (.bundleIssue h [w, u]) fun n =>
              if m.t.iter < h.rep.toNat then ((n.onC fun c => { c with ready := Nat.max c.ready (s.cyc + 1) }).onT fun t =>
                { t with iter := m.t.iter + 1 }).put
              else n.leave (m.t.pc + 24) 1)) ∧
        (m.t.x.ste = false ∨ h.quiet.getLsbD sl.ix = true → m.t.iter = 0 → h.present = 1 → h.rep = 0 →
          exec (.bundleIssue h [nop]) s = .next (sticky m StickySet.quiet).retire)))


/-- The frame of every slot operation but SPAWN (R6, R16, R21): whatever becomes of it, a trap, a stall or its effect, with
nothing of the core under way to memory, no dirty line in its cluster's cache, which a fork would write back, and no bank waiting to go
back to that cache, no byte of memory and no counter changes in the cycle of issue, and no other core's state does. Stores, engine
operations and additions take effect by events of their own. User mode with a handler, a task that is no sub-task and is not traced, no
dirty line in the core's L1. -/
def Obligations.IssueChangesNoMemory : Prop :=
  ∀ (i : Instr) (s u : State) (m : Mach) (sl : Slot), slotOf i = some sl → (∀ o e c, i ≠ .spawn o e c) → Ready sl i s m → Calm m →
    m.t.x.sv = false → m.t.x.tvec ≠ 0 → (∀ x ∈ s.cc (s.cur / 8), x.since = none) → (∀ e ∈ m.c.l1, e.2.since = none) → (∀ b, (s.bank b).back = false) → m.t.parent = none → m.t.traced = false → exec i s = .next u →
    u.mem = s.mem ∧ u.ctrs = s.ctrs ∧ u.cyc = s.cyc ∧ ∀ k, k ≠ s.cur → u.core k = s.core k
end

