-- ==== Sys2Proof/Laws/SMap.lean ====
section
/-! SUPPORT. The laws of sparse maps: what is read after a write, and that the canonical form is kept. -/

namespace Sys2Proof.Machine

variable {α : Type}

/-! ## Reading after a write -/

@[simp] theorem SMap.find_nil (k : Nat) : SMap.find ([] : SMap α) k = none := rfl

@[simp] theorem SMap.get_nil (d : α) (k : Nat) : SMap.get d [] k = d := rfl

@[simp] theorem SMap.find_put_same (m : SMap α) (k : Nat) (v : α) : SMap.find (SMap.put m k v) k = some v := by
  induction m with
  | nil => simp [SMap.put, SMap.find]
  | cons e m ih =>
    simp only [SMap.put]
    split
    · simp [SMap.find]
    · split <;> simp_all [SMap.find]

theorem SMap.find_put_ne (m : SMap α) {j k : Nat} (v : α) (h : j ≠ k) : SMap.find (SMap.put m k v) j = SMap.find m j := by
  induction m with
  | nil => simp [SMap.put, SMap.find, h.symm]
  | cons e m ih =>
    simp only [SMap.put]
    split
    · simp [SMap.find, h.symm]
    · split <;> simp_all [SMap.find, eq_comm]

@[simp] theorem SMap.find_del_same (m : SMap α) (k : Nat) : SMap.find (SMap.del m k) k = none := by
  induction m with
  | nil => rfl
  | cons e m ih =>
    simp only [SMap.del]
    split <;> simp_all [SMap.find]

theorem SMap.find_del_ne (m : SMap α) {j k : Nat} (h : j ≠ k) : SMap.find (SMap.del m k) j = SMap.find m j := by
  induction m with
  | nil => rfl
  | cons e m ih =>
    simp only [SMap.del]
    split <;> simp_all [SMap.find, eq_comm]

@[simp] theorem SMap.get_put_same (d : α) (m : SMap α) (k : Nat) (v : α) : SMap.get d (SMap.put m k v) k = v := by
  simp [SMap.get]

theorem SMap.get_put_ne (d : α) (m : SMap α) {j k : Nat} (v : α) (h : j ≠ k) : SMap.get d (SMap.put m k v) j = SMap.get d m j := by
  simp [SMap.get, SMap.find_put_ne m v h]

@[simp] theorem SMap.get_set_same [DecidableEq α] (d : α) (m : SMap α) (k : Nat) (v : α) : SMap.get d (SMap.set d m k v) k = v := by
  unfold SMap.set
  split
  · next h => simp [SMap.get, h]
  · simp

theorem SMap.get_set_ne [DecidableEq α] (d : α) (m : SMap α) {j k : Nat} (v : α) (h : j ≠ k) :
    SMap.get d (SMap.set d m k v) j = SMap.get d m j := by
  unfold SMap.set
  split
  · simp [SMap.get, SMap.find_del_ne m h]
  · exact SMap.get_put_ne d m v h

/-! ## The canonical form -/

theorem SMap.sortedFrom_le {m : SMap α} {a b : Nat} (h : a ≤ b) (hm : SMap.sortedFrom b m = true) : SMap.sortedFrom a m = true := by
  cases m with
  | nil => rfl
  | cons e m => simp_all [SMap.sortedFrom]; omega

theorem SMap.sortedFrom_put {m : SMap α} {lo k : Nat} (v : α) (hk : lo ≤ k) (hm : SMap.sortedFrom lo m = true) :
    SMap.sortedFrom lo (SMap.put m k v) = true := by
  induction m generalizing lo with
  | nil => simp [SMap.put, SMap.sortedFrom, hk]
  | cons e m ih =>
    obtain ⟨i, x⟩ := e
    simp only [SMap.sortedFrom, Bool.and_eq_true, decide_eq_true_eq] at hm
    simp only [SMap.put]
    split
    · next h => simp [SMap.sortedFrom, hk, hm.2]; omega
    · split
      · next h => simp only [SMap.sortedFrom, ← h, hm.1, hm.2, decide_true, Bool.and_self]
      · simp only [SMap.sortedFrom, Bool.and_eq_true, decide_eq_true_eq]
        exact ⟨hm.1, ih (by omega) hm.2⟩

theorem SMap.sortedFrom_del {m : SMap α} {lo : Nat} (k : Nat) (hm : SMap.sortedFrom lo m = true) :
    SMap.sortedFrom lo (SMap.del m k) = true := by
  induction m generalizing lo with
  | nil => rfl
  | cons e m ih =>
    obtain ⟨i, x⟩ := e
    simp only [SMap.sortedFrom, Bool.and_eq_true, decide_eq_true_eq] at hm
    simp only [SMap.del]
    split
    · exact ih (SMap.sortedFrom_le (by omega) hm.2)
    · simp only [SMap.sortedFrom, Bool.and_eq_true, decide_eq_true_eq]
      exact ⟨hm.1, ih hm.2⟩

theorem SMap.all_put {m : SMap α} {p : Nat × α → Bool} {k : Nat} {v : α} (hv : p (k, v) = true) (hm : m.all p = true) :
    (SMap.put m k v).all p = true := by
  induction m with
  | nil => simp [SMap.put, hv]
  | cons e m ih =>
    simp only [List.all_cons, Bool.and_eq_true] at hm
    simp only [SMap.put]
    split
    · simp [hv, hm.1, hm.2]
    · split
      · simp [hv, hm.2]
      · simp [hm.1, ih hm.2]

theorem SMap.all_del {m : SMap α} {p : Nat × α → Bool} (k : Nat) (hm : m.all p = true) : (SMap.del m k).all p = true := by
  induction m with
  | nil => rfl
  | cons e m ih =>
    simp only [List.all_cons, Bool.and_eq_true] at hm
    simp only [SMap.del]
    split
    · exact ih hm.2
    · simp [hm.1, ih hm.2]

/-- Nothing listed is canonical. -/
theorem SMap.wf_nil [DecidableEq α] (d : α) : SMap.wf d [] = true := rfl

/-- A write keeps the canonical form. -/
theorem SMap.wf_set [DecidableEq α] {d : α} {m : SMap α} (k : Nat) (v : α) (h : SMap.wf d m = true) : SMap.wf d (SMap.set d m k v) = true := by
  simp only [SMap.wf, Bool.and_eq_true] at h ⊢
  unfold SMap.set
  split
  · exact ⟨SMap.sortedFrom_del k h.1, SMap.all_del k h.2⟩
  · next hv => exact ⟨SMap.sortedFrom_put v (Nat.zero_le k) h.1, SMap.all_put (by simpa using hv) h.2⟩

end Sys2Proof.Machine
end

