-- ==== Sys2Proof/Laws/Memory.lean ====
section
/-! SUPPORT. The laws of memory: a read after a write, and that every operation that writes memory keeps its canonical form
(log 2). -/

namespace Sys2Proof.Machine

/-! ## Bytes written -/

@[simp] theorem memSet_same (m : SMap Byte) (a : Nat) (b : Byte) : SMap.get blank (memSet m a b) a = b := SMap.get_set_same ..

theorem memSet_ne (m : SMap Byte) {a c : Nat} (b : Byte) (h : c ≠ a) : SMap.get blank (memSet m a b) c = SMap.get blank m c :=
  SMap.get_set_ne _ _ _ h

/-- Below a run that is written nothing changes. -/
theorem memPut_below (bs : List (Option Byte)) (m : SMap Byte) {a c : Nat} (h : c < a) :
    SMap.get blank (memPut m a bs) c = SMap.get blank m c := by
  induction bs generalizing m a with
  | nil => rfl
  | cons o bs ih =>
    cases o with
    | none => exact ih m (by omega)
    | some b => exact (ih _ (by omega)).trans (memSet_ne m b (by omega))

/-- A byte after a run is written: the run's, where it has one there, else the old one. -/
theorem memPut_get (bs : List (Option Byte)) (m : SMap Byte) (a i : Nat) :
    SMap.get blank (memPut m a bs) (a + i) = (bs.getD i none).getD (SMap.get blank m (a + i)) := by
  induction bs generalizing m a i with
  | nil => simp [memPut]
  | cons o bs ih =>
    cases i with
    | zero =>
      cases o with
      | none => simpa [memPut] using memPut_below bs m (c := a) (a := a + 1) (by omega)
      | some b => simpa [memPut] using memPut_below bs (memSet m a b) (c := a) (a := a + 1) (by omega)
    | succ i =>
      have e : a + (i + 1) = a + 1 + i := by omega
      cases o with
      | none => simpa [memPut, e] using ih m (a + 1) i
      | some b =>
        have := ih (memSet m a b) (a + 1) i
        rw [memSet_ne m b (by omega)] at this
        simpa [memPut, e] using this

/-- Beyond a run that is written nothing changes. -/
theorem memPut_above (bs : List (Option Byte)) (m : SMap Byte) {a c : Nat} (h : a + bs.length ≤ c) :
    SMap.get blank (memPut m a bs) c = SMap.get blank m c := by
  have := memPut_get bs m a (c - a)
  rw [show a + (c - a) = c by omega] at this
  rw [this, List.getD_eq_getElem?_getD, List.getElem?_eq_none (by omega)]
  rfl

/-! ## What keeps memory in form -/

/-- A fold of a step that keeps memory's canonical form keeps it. -/
theorem foldl_wf {β : Type} {f : State → β → State} (hf : ∀ s b, Memory.wf s.mem → Memory.wf (f s b).mem) (l : List β) {s : State}
    (h : Memory.wf s.mem) : Memory.wf (l.foldl f s).mem := by
  induction l generalizing s with
  | nil => exact h
  | cons b l ih => exact ih (hf s b h)

/-- A fold of a step that leaves the byte at `c` leaves it. -/
theorem foldl_byte {β : Type} {f : State → β → State} {c : Nat} (hf : ∀ s b, (f s b).byte c = s.byte c) (l : List β) (s : State) :
    (l.foldl f s).byte c = s.byte c := by
  induction l generalizing s with
  | nil => rfl
  | cons b l ih => exact (ih (f s b)).trans (hf s b)

theorem reset_wf : Memory.wf State.reset.mem := SMap.wf_nil _

theorem memSet_wf {m : SMap Byte} (a : Nat) (b : Byte) (h : Memory.wf m) : Memory.wf (memSet m a b) := SMap.wf_set a b h

theorem memPut_wf {m : SMap Byte} (a : Nat) (bs : List (Option Byte)) (h : Memory.wf m) : Memory.wf (memPut m a bs) := by
  induction bs generalizing m a with
  | nil => exact h
  | cons o bs ih =>
    cases o with
    | none => exact ih _ h
    | some b => exact ih _ (memSet_wf a b h)

/-! ## Stored data, parity and copies (R180 to R182, R356) -/

theorem State.heal_mem (s : State) (pa n : Nat) : (s.heal pa n).mem = s.mem := by
  unfold State.heal
  split <;> rfl

theorem putCopy_wf {s : State} (st : Nat) (bs : List Byte) (h : Memory.wf s.mem) : Memory.wf (putCopy s st bs).mem := memPut_wf _ _ h

theorem putChunk_wf {s : State} (c : Nat) (bs : List Byte) (h : Memory.wf s.mem) : Memory.wf (putChunk s c bs).mem := by
  unfold putChunk
  split
  · split
    · exact putCopy_wf _ _ h
    · exact h
  · exact h

theorem addParity_wf {s : State} (st : Nat) (delta : List Byte) (h : Memory.wf s.mem) : Memory.wf (addParity s st delta).mem := by
  unfold addParity
  simp only
  split
  · split
    · exact putCopy_wf _ _ h
    · exact h
  · exact h

theorem State.writeDown_wf {s : State} (c : Nat) (h : Memory.wf s.mem) : Memory.wf (s.writeDown c).mem :=
  putChunk_wf _ _ (addParity_wf _ _ h)

theorem State.makeRoom_wf {s : State} (c : Nat) (h : Memory.wf s.mem) : Memory.wf (s.makeRoom c).mem := by
  unfold State.makeRoom
  simp only
  split
  · exact h
  · split
    · exact State.writeDown_wf _ h
    · exact h

theorem State.openChunk_wf (s : State) (c : Nat) (h : Memory.wf s.mem) : Memory.wf (s.openChunk c).mem := by
  unfold State.openChunk
  split
  · exact h
  · simp only [State.heal_mem]
    exact State.makeRoom_wf c h

/-- A copy of a lost chunk lies in the range for rebuilding. -/
theorem copy_region {st i : Nat} (hs : st < stripeCount) (hi : i < 512) : regionOf (512 * copyChunk st + i) = .rebuild := by
  unfold stripeCount at hs
  unfold copyChunk regionOf
  repeat' split
  all_goals first | rfl | (exfalso; omega)

/-- A copy of a lost chunk touches no byte outside the range for rebuilding. -/
theorem putCopy_byte {s : State} {st c : Nat} (bs : List Byte) (hl : bs.length ≤ 512) (hs : st < stripeCount)
    (hc : regionOf c ≠ .rebuild) : (putCopy s st bs).byte c = s.byte c := by
  by_cases h1 : c < 512 * copyChunk st
  · exact memPut_below _ s.mem h1
  · by_cases h2 : 512 * copyChunk st + 512 ≤ c
    · exact memPut_above _ s.mem (by simp only [List.length_map]; omega)
    · refine absurd ?_ hc
      have := copy_region (st := st) (i := c - 512 * copyChunk st) hs (by omega)
      rwa [show 512 * copyChunk st + (c - 512 * copyChunk st) = c by omega] at this

theorem tabulate_length {α : Type} (f : Nat → α) (i n : Nat) : (tabulate f i n).length = n := by
  induction n generalizing i with
  | zero => rfl
  | succ n ih => simp [tabulate, ih]

theorem copied_lt {h : Hbm} {st : Nat} (hc : h.copied st = true) : st < stripeCount := by
  simp only [Hbm.copied, Bool.and_eq_true, decide_eq_true_eq] at hc
  exact hc.2

theorem storedParity_length (s : State) (st : Nat) : (storedParity s st).length = 512 := by
  unfold storedParity storedAt
  split <;> exact tabulate_length ..

theorem putChunk_byte {s : State} (k : Nat) {c : Nat} (bs : List Byte) (hl : bs.length ≤ 512) (hc : regionOf c ≠ .rebuild) :
    (putChunk s k bs).byte c = s.byte c := by
  unfold putChunk
  split
  · split
    · next h => exact putCopy_byte bs hl (copied_lt h) hc
    · rfl
  · rfl

theorem addParity_byte {s : State} (st : Nat) {c : Nat} (delta : List Byte) (hc : regionOf c ≠ .rebuild) :
    (addParity s st delta).byte c = s.byte c := by
  unfold addParity
  simp only
  split
  · split
    · next h =>
      refine putCopy_byte _ ?_ (copied_lt h) hc
      simp only [xorBytes, List.length_zipWith, storedParity_length]
      omega
    · rfl
  · rfl

/-- A chunk taken into its slice touches no byte outside the range for rebuilding. -/
theorem State.openChunk_byte (s : State) (k : Nat) {c : Nat} (hc : regionOf c ≠ .rebuild) : (s.openChunk k).byte c = s.byte c := by
  have heal (s : State) : (s.heal (512 * k) 1).byte c = s.byte c := congrArg (SMap.get blank · c) (s.heal_mem _ _)
  have down (s : State) (d : Nat) : (s.writeDown d).byte c = s.byte c :=
    (putChunk_byte d _ (Nat.le_of_eq (tabulate_length ..)) hc).trans (addParity_byte _ _ hc)
  unfold State.openChunk
  split
  · rfl
  · refine (heal _).trans ?_
    unfold State.makeRoom
    simp only
    split
    · rfl
    · split
      · exact down s _
      · rfl

/-! ## A read after a write -/

/-- Outside the bytes of a write and the range for rebuilding, memory reads as before. -/
theorem State.write_outside (s : State) (tag : Option Nat) (bs : List (Option Byte)) {a c : Nat} (hr : regionOf c ≠ .rebuild)
    (h : c < a ∨ a + bs.length ≤ c) : (s.write tag a bs).byte c = s.byte c := by
  unfold State.write
  split
  · rfl
  · split
    · rfl
    · refine (h.elim (memPut_below bs _) (memPut_above bs _)).trans ?_
      split
      · exact foldl_byte (fun s k => s.openChunk_byte k hr) _ s
      · rfl

/-- A write to another device's memory leaves every byte of this one. -/
theorem State.write_peer (s : State) (tag : Option Nat) {a : Nat} (bs : List (Option Byte)) (h : regionOf a = .peer) :
    (s.write tag a bs).mem = s.mem := by
  unfold State.write
  split
  · rfl
  · rfl

/-- The bytes of a write read as written. -/
theorem State.write_inside (s : State) (tag : Option Nat) (bs : List (Option Byte)) (a i : Nat) (hr : regionOf (a + i) ≠ .rebuild)
    (hp : regionOf a ≠ .peer) :
    (s.write tag a bs).byte (a + i) = (bs.getD i none).getD (s.byte (a + i)) := by
  unfold State.write
  split
  · next h =>
    have : bs.getD i none = none := by
      rw [List.getD_eq_getElem?_getD]
      rcases hb : bs[i]? with _ | o
      · rfl
      · have := List.all_eq_true.mp h o (List.mem_of_getElem? hb)
        simpa using this
    rw [this]; rfl
  · refine (memPut_get bs _ a i).trans (congrArg _ ?_)
    split
    · exact foldl_byte (fun s k => s.openChunk_byte k hr) _ s
    · rfl

/-! ## The canonical form -/

theorem State.write_wf {s : State} (tag : Option Nat) (a : Nat) (bs : List (Option Byte)) (h : Memory.wf s.mem) :
    Memory.wf (s.write tag a bs).mem := by
  unfold State.write
  split
  · exact h
  · split
    · exact h
    · refine memPut_wf a bs ?_
      split
      · exact foldl_wf State.openChunk_wf _ h
      · exact h

theorem State.mend_mem (f : Nat → Nat → Bool) (s : State) : (s.mend f).mem = s.mem := rfl

theorem State.mendRuns_mem (rs : List (Nat × Nat)) (s : State) : (s.mendRuns rs).mem = s.mem := by
  unfold State.mendRuns
  split <;> rfl

theorem State.writeTaint_wf {s : State} (tag : Option Nat) (a : Nat) (bs : List (Option Byte)) (t : Bool) (h : Memory.wf s.mem) :
    Memory.wf (s.writeTaint tag a bs t).mem := by
  unfold State.writeTaint
  split <;> exact State.write_wf tag a bs h

theorem performStore_wf {s : State} (tag : Option Nat) (st : Store) (h : Memory.wf s.mem) : Memory.wf (performStore s tag st).mem := by
  unfold performStore
  split
  · exact State.writeTaint_wf _ _ _ _ h
  · exact State.write_wf _ _ _ h

theorem performStores_wf {s : State} (tag : Option Nat) (l : List Store) (h : Memory.wf s.mem) :
    Memory.wf (performStores tag l s).mem := by
  induction l generalizing s with
  | nil => exact h
  | cons st l ih => exact ih (performStore_wf tag st h)

theorem State.spoil_mem (s : State) (a : Nat) : (s.spoil a).mem = s.mem := by
  unfold State.spoil
  split
  · split
    · rfl
    · split <;> rfl
  all_goals rfl

theorem State.writeBack_wf {s : State} (x : SLine) (h : Memory.wf s.mem) : Memory.wf (s.writeBack x).mem := by
  unfold State.writeBack
  split
  · exact foldl_wf (fun s a h => (s.spoil_mem a).symm ▸ h) _ (State.write_wf _ _ _ h)
  · exact h

/-- The lines that a filter picks written back. -/
theorem foldl_writeBack_wf {s : State} (f : SLine → Bool) (l : List SLine) (h : Memory.wf s.mem) :
    Memory.wf (l.foldl (fun s x => if f x then s.writeBack x else s) s).mem :=
  foldl_wf (f := fun s x => if f x then s.writeBack x else s) (fun s x h => by split <;> first | exact State.writeBack_wf x h | exact h) l h

theorem State.ccClean_wf {s : State} (cl : Nat) (f : SLine → Bool) (h : Memory.wf s.mem) : Memory.wf (s.ccClean cl f).mem := by
  unfold State.ccClean
  split
  · exact h
  · exact foldl_writeBack_wf f _ h

theorem State.ccDrop_wf {s : State} (cl : Nat) (f : SLine → Bool) (h : Memory.wf s.mem) : Memory.wf (s.ccDrop cl f).mem := by
  unfold State.ccDrop
  split
  · exact h
  · exact foldl_writeBack_wf f _ h

theorem State.ccFill_mem (s : State) (cl line : Nat) : (s.ccFill cl line).mem = s.mem := by
  unfold State.ccFill
  simp only
  split
  · rfl
  · split
    · exact s.heal_mem _ _
    · split
      · exact s.heal_mem _ _
      · split <;> exact s.heal_mem _ _

theorem State.ccStore_wf {s : State} (k lid : Nat) (st : Store) (line : Nat) (h : Memory.wf s.mem) :
    Memory.wf (s.ccStore k lid st line).mem := by
  have hf : Memory.wf (s.ccFill (clusterOf k) line).mem := (s.ccFill_mem _ _).symm ▸ h
  unfold State.ccStore
  simp only
  split
  · exact State.write_wf _ _ _ hf
  · show Memory.wf (State.mem (if _ then _ else _))
    split
    · exact State.ccClean_wf _ _ hf
    · exact hf

theorem State.ccSpoil_mem (s : State) (cl w : Nat) : (s.ccSpoil cl w).mem = s.mem := by
  unfold State.ccSpoil
  split
  · rfl
  · exact s.spoil_mem w

theorem State.engineWrite_wf {s : State} (cl lid a : Nat) (bs : List Byte) (h : Memory.wf s.mem) :
    Memory.wf (s.engineWrite cl lid a bs).mem := State.write_wf _ _ _ (State.ccDrop_wf _ _ h)

theorem State.l1Down_wf {s : State} (k lid : Nat) (x : L1Line) (h : Memory.wf s.mem) : Memory.wf (s.l1Down k lid x).mem := by
  unfold State.l1Down
  split
  · exact foldl_wf (fun s w h => (s.ccSpoil_mem _ w).symm ▸ h) _ (State.ccStore_wf _ _ _ _ h)
  · exact h

theorem Mach.l1Back_wf {m : Mach} (f : L1Line → Bool) (h : Memory.wf m.s.mem) : Memory.wf (m.l1Back f).s.mem :=
  foldl_wf (f := fun s (e : Nat × L1Line) => if f e.2 then s.l1Down m.s.cur m.t.lid e.2 else s)
    (fun _ e h => by split <;> first | exact State.l1Down_wf _ _ _ h | exact h) _ h

theorem Mach.l1Leave_wf {m : Mach} (f : L1Line → Bool) (h : Memory.wf m.s.mem) : Memory.wf (m.l1Leave f).s.mem := Mach.l1Back_wf f h

theorem Mach.performLine_wf {m : Mach} (st : Store) (line : Nat) (h : Memory.wf m.s.mem) : Memory.wf (m.performLine st line).s.mem := by
  unfold Mach.performLine
  split
  · exact h
  · exact State.ccStore_wf _ _ _ _ h

theorem Mach.perform_wf {m : Mach} (st : Store) (h : Memory.wf m.s.mem) : Memory.wf (m.perform st).s.mem := by
  have lines (l : List Nat) {m : Mach} (h : Memory.wf m.s.mem) : Memory.wf (l.foldl (Mach.performLine st) m).s.mem := by
    induction l generalizing m with
    | nil => exact h
    | cons x l ih => exact ih (Mach.performLine_wf st x h)
  unfold Mach.perform
  simp only
  split
  · exact lines _ h
  · exact performStore_wf _ st h

theorem Mach.foldl_perform_wf {m : Mach} (l : List Store) (h : Memory.wf m.s.mem) : Memory.wf (l.foldl Mach.perform m).s.mem := by
  induction l generalizing m with
  | nil => exact h
  | cons st l ih => exact ih (Mach.perform_wf st h)

theorem Mach.flush_wf {m : Mach} (h : Memory.wf m.s.mem) : Memory.wf m.flush.s.mem :=
  Mach.l1Back_wf _ (Mach.foldl_perform_wf _ h)

theorem Mach.flushOld_wf {m : Mach} (h : Memory.wf m.s.mem) : Memory.wf m.flushOld.s.mem :=
  State.ccClean_wf _ _ (Mach.l1Back_wf _ (Mach.foldl_perform_wf _ h))

end Sys2Proof.Machine
end

