-- ==== Sys2Proof/Laws/Caches.lean ====
section
/-! SUPPORT. The laws of the cluster caches (R176): every operation over them keeps their lines whole. -/

namespace Sys2Proof.Machine

/-! ## What leaves the caches as they are -/

theorem State.heal_ccache (s : State) (pa n : Nat) : (s.heal pa n).ccache = s.ccache := by
  unfold State.heal
  split <;> rfl

theorem putChunk_ccache (s : State) (c : Nat) (bs : List Byte) : (putChunk s c bs).ccache = s.ccache := by
  unfold putChunk
  split
  · split <;> rfl
  · rfl

theorem addParity_ccache (s : State) (st : Nat) (delta : List Byte) : (addParity s st delta).ccache = s.ccache := by
  unfold addParity
  simp only
  split
  · split <;> rfl
  · rfl

theorem State.makeRoom_ccache (s : State) (c : Nat) : (s.makeRoom c).ccache = s.ccache := by
  unfold State.makeRoom
  simp only
  split
  · rfl
  · split
    · exact (putChunk_ccache _ _ _).trans (addParity_ccache _ _ _)
    · rfl

theorem State.openChunk_ccache (s : State) (c : Nat) : (s.openChunk c).ccache = s.ccache := by
  unfold State.openChunk
  split
  · rfl
  · exact (State.heal_ccache _ _ _).trans (State.makeRoom_ccache s c)

theorem foldl_ccache {β : Type} {f : State → β → State} (hf : ∀ s b, (f s b).ccache = s.ccache) (l : List β) (s : State) :
    (l.foldl f s).ccache = s.ccache := by
  induction l generalizing s with
  | nil => rfl
  | cons b l ih => exact (ih (f s b)).trans (hf s b)

/-- A write at its home leaves the cluster caches. -/
theorem State.write_ccache (s : State) (tag : Option Nat) (pa : Nat) (bs : List (Option Byte)) : (s.write tag pa bs).ccache = s.ccache := by
  unfold State.write
  split
  · rfl
  · split
    · rfl
    · simp only
      split
      · exact foldl_ccache State.openChunk_ccache _ s
      · rfl

theorem State.spoil_ccache (s : State) (a : Nat) : (s.spoil a).ccache = s.ccache := by
  unfold State.spoil
  split
  · split
    · rfl
    · split <;> rfl
  all_goals rfl

theorem State.writeBack_ccache (s : State) (x : SLine) : (s.writeBack x).ccache = s.ccache := by
  unfold State.writeBack
  split
  · exact (foldl_ccache State.spoil_ccache _ _).trans (State.write_ccache s _ _ _)
  · rfl

/-! ## Whole lines -/

/-- A line has 64 bytes, and of newer ones none or 64. -/
def SLine.whole (x : SLine) : Prop := x.data.length = 64 ∧ (x.new = [] ∨ x.new.length = 64)

theorem State.wholeLines_of_ccache {s t : State} (h : s.wholeLines) (e : t.ccache = s.ccache) : t.wholeLines := by
  unfold State.wholeLines
  rw [e]
  exact h

theorem SMap.mem_put {α : Type} {m : SMap α} {k : Nat} {v : α} {e : Nat × α} (h : e ∈ SMap.put m k v) : e = (k, v) ∨ e ∈ m := by
  induction m with
  | nil => exact .inl (by simpa [SMap.put] using h)
  | cons a m ih =>
    obtain ⟨i, x⟩ := a
    unfold SMap.put at h
    split at h
    · simpa using h
    · split at h
      · rcases List.mem_cons.1 h with h | h
        · exact .inl h
        · exact .inr (List.mem_cons_of_mem _ h)
      · rcases List.mem_cons.1 h with h | h
        · exact .inr (by simp [h])
        · exact (ih h).imp_right (List.mem_cons_of_mem _)

theorem SMap.mem_del {α : Type} {m : SMap α} {k : Nat} {e : Nat × α} (h : e ∈ SMap.del m k) : e ∈ m := by
  induction m with
  | nil => exact h
  | cons a m ih =>
    obtain ⟨i, x⟩ := a
    unfold SMap.del at h
    split at h
    · exact List.mem_cons_of_mem _ (ih h)
    · rcases List.mem_cons.1 h with h | h
      · simp [h]
      · exact List.mem_cons_of_mem _ (ih h)

theorem SMap.find_mem {α : Type} {m : SMap α} {k : Nat} {v : α} (h : SMap.find m k = some v) : (k, v) ∈ m := by
  induction m with
  | nil => exact absurd h (by simp)
  | cons a m ih =>
    obtain ⟨i, x⟩ := a
    unfold SMap.find at h
    split at h
    · cases h; rename_i e; simp [e]
    · exact List.mem_cons_of_mem _ (ih h)

/-- The lines of a cluster's cache are whole. -/
theorem State.wholeLines.cc {s : State} (h : s.wholeLines) (cl : Nat) : ∀ x ∈ s.cc cl, x.whole := by
  intro x hx
  unfold State.cc SMap.get at hx
  cases hf : SMap.find s.ccache cl with
  | none => simp [hf] at hx
  | some ls => exact h _ (SMap.find_mem hf) x (by simpa [hf] using hx)

theorem State.wholeLines.setCc {s : State} (h : s.wholeLines) (cl : Nat) {ls : List SLine} (hl : ∀ x ∈ ls, x.whole) :
    (s.setCc cl ls).wholeLines := by
  intro e he x hx
  change e ∈ SMap.set [] s.ccache cl ls at he
  unfold SMap.set at he
  split at he
  · exact h e (SMap.mem_del he) x hx
  · rcases SMap.mem_put he with he | he
    · subst he; exact hl x hx
    · exact h e he x hx

theorem State.wholeLines.foldBack {s : State} (h : s.wholeLines) (f : SLine → Bool) (l : List SLine) :
    (l.foldl (fun s x => if f x then s.writeBack x else s) s).wholeLines :=
  State.wholeLines_of_ccache h (foldl_ccache (fun s x => by
    split
    · exact State.writeBack_ccache s x
    · rfl) l s)

theorem State.wholeLines.ccClean {s : State} (h : s.wholeLines) (cl : Nat) (f : SLine → Bool) : (s.ccClean cl f).wholeLines := by
  unfold State.ccClean
  split
  · exact h
  · refine (h.foldBack f _).setCc cl fun x hx => ?_
    obtain ⟨y, hy, rfl⟩ := List.mem_map.1 hx
    have := h.cc cl y hy
    split
    · exact ⟨this.1, .inl rfl⟩
    · exact this

theorem State.wholeLines.ccDrop {s : State} (h : s.wholeLines) (cl : Nat) (f : SLine → Bool) : (s.ccDrop cl f).wholeLines := by
  unfold State.ccDrop
  split
  · exact h
  · exact (h.foldBack f _).setCc cl fun x hx => h.cc cl x (List.mem_filter.1 hx).1

theorem overlay_length {new : List (Option Byte)} {old : List Byte} (hn : new = [] ∨ new.length = 64) (ho : old.length = 64) :
    (overlay new old).length = 64 := by
  rcases hn with rfl | hn
  · exact ho
  · unfold overlay
    split
    · exact ho
    · simp [hn, ho]

theorem State.bytes_length (s : State) (pa n : Nat) : (s.bytes pa n).length = n := tabulate_length _ _ _

theorem State.wholeLines.ccAcquire {s : State} (h : s.wholeLines) (cl : Nat) : (s.ccAcquire cl).wholeLines := by
  unfold State.ccAcquire
  split
  · exact h
  · refine h.setCc cl fun x hx => ?_
    obtain ⟨y, hy, rfl⟩ := List.mem_map.1 hx
    have hw := h.cc cl y (List.mem_filter.1 hy).1
    exact ⟨overlay_length hw.2 (State.bytes_length _ _ _), hw.2⟩

theorem State.wholeLines.ccFill {s : State} (h : s.wholeLines) (cl line : Nat) : (s.ccFill cl line).wholeLines := by
  have hn (t : State) (bank : Nat) : (⟨line, bank, t.bytes (64 * line) 64, [], 0, none, 0, []⟩ : SLine).whole :=
    ⟨State.bytes_length _ _ _, .inl rfl⟩
  have ht : (s.heal (64 * line) 64).wholeLines := State.wholeLines_of_ccache h (s.heal_ccache _ _)
  unfold State.ccFill
  simp only
  split
  · exact h
  · split
    · exact ht
    · split
      · refine ht.setCc cl fun x hx => ?_
        rcases List.mem_append.1 hx with hx | hx
        · exact h.cc cl x hx
        · exact List.mem_singleton.1 hx ▸ hn _ _
      · split
        · rename_i ls hv
          refine State.wholeLines.setCc (s := { s.heal (64 * line) 64 with fresh := (s.heal (64 * line) 64).fresh + 1 }) ht cl fun x hx => ?_
          rcases List.mem_append.1 hx with hx | hx
          · unfold ccVictim at hv
            obtain ⟨v, -, rfl⟩ := Option.map_eq_some_iff.1 hv
            exact h.cc cl x (List.mem_filter.1 hx).1
          · exact List.mem_singleton.1 hx ▸ hn _ _
        · exact ht

theorem lineBytes_length (pa : Nat) (bs : List (Option Byte)) (line : Nat) : (lineBytes pa bs line).length = 64 := tabulate_length _ _ _

theorem SLine.whole.put {x : SLine} (h : x.whole) (lid issue due pa : Nat) (bs : List (Option Byte)) : (x.put lid issue due pa bs).whole := by
  refine ⟨overlay_length (.inr (lineBytes_length _ _ _)) h.1, .inr ?_⟩
  unfold SLine.put
  simp only
  split
  · exact lineBytes_length _ _ _
  · rename_i hx
    rcases h.2 with e | e
    · simp [e] at hx
    · simp [lineBytes_length, e]

theorem State.wholeLines.ccStore {s : State} (h : s.wholeLines) (k lid : Nat) (st : Store) (line : Nat) :
    (s.ccStore k lid st line).wholeLines := by
  unfold State.ccStore
  have hf := h.ccFill (clusterOf k) line
  simp only
  split
  · exact State.wholeLines_of_ccache hf (State.write_ccache _ _ _ _)
  · have hc : ∀ b : Bool, (if b then (s.ccFill (clusterOf k) line).ccClean (clusterOf k) fun y => y.line == line
        else s.ccFill (clusterOf k) line).wholeLines := by
      intro b
      cases b
      · exact hf
      · exact hf.ccClean _ _
    refine State.wholeLines.setCc (s := State.mk ..) (hc _) _ fun x hx => ?_
    obtain ⟨y, hy, rfl⟩ := List.mem_map.1 hx
    split
    · exact ((hc _).cc _ y hy).put _ _ _ _ _
    · exact (hc _).cc _ y hy

theorem State.wholeLines.ccSpoil {s : State} (h : s.wholeLines) (cl w : Nat) : (s.ccSpoil cl w).wholeLines := by
  unfold State.ccSpoil
  split
  · refine h.setCc cl fun x hx => ?_
    obtain ⟨y, hy, rfl⟩ := List.mem_map.1 hx
    have := h.cc cl y hy
    split <;> exact this
  · exact State.wholeLines_of_ccache h (State.spoil_ccache _ _)

end Sys2Proof.Machine
end

