-- ==== Sys2Proof/Laws/Landing.lean ====
section
/-! SUPPORT. What landing results changes: the register files, X.QTROUB, the errors told and to log; nothing else of the
task, and of the machine only what is in flight. -/

namespace Sys2Proof.Machine

/-- `u` is `t` with some results landed. -/
def Task.Landed (t u : Task) : Prop :=
  ∃ regs q told logs flight pend,
    u = { t with regs := regs, x := { t.x with qtroub := q }, told := told, logs := logs, flight := flight, pend := pend }

theorem Task.Landed.refl (t : Task) : t.Landed t :=
  ⟨t.regs, t.x.qtroub, t.told, t.logs, t.flight, t.pend, rfl⟩

theorem Task.Landed.trans {t u v : Task} (h : t.Landed u) (k : u.Landed v) : t.Landed v := by
  obtain ⟨_, _, _, _, _, _, rfl⟩ := h
  obtain ⟨r, q, a, b, f, p, rfl⟩ := k
  exact ⟨r, q, a, b, f, p, rfl⟩

theorem Task.Landed.pended {t u : Task} (h : t.Landed u) (f : List Result) (p : List Pend) :
    t.Landed { u with flight := f, pend := p } := h.trans ⟨_, _, _, _, f, p, rfl⟩

theorem Task.clears_landed (t : Task) (p : Option Nat) : t.Landed (t.clears p) := by
  cases p <;> exact ⟨_, _, _, _, _, _, rfl⟩

theorem Task.writeRow_landed (t : Task) (i : Nat) (c : RowCell) (whole : Bool) : t.Landed (t.writeRow i c whole) := by
  obtain ⟨_, _, _, _, _, _, h⟩ := t.clears_landed (if !whole && c.poison == (t.regs.row i).poison then none else (t.regs.row i).poison)
  unfold Task.writeRow
  simp only
  rw [h]
  exact ⟨_, _, _, _, _, _, rfl⟩

theorem Task.overScalar_landed (t : Task) (n : Nat) : t.Landed (t.overScalar n) := by
  obtain ⟨_, _, _, _, _, _, h⟩ := t.clears_landed (if t.told.contains n then none else t.regs.spoison n)
  unfold Task.overScalar
  rw [h]
  exact ⟨_, _, _, _, _, _, rfl⟩

theorem Task.land_landed (t : Task) (r : Result) : t.Landed (t.land r) := by
  unfold Task.land
  split
  · obtain ⟨_, _, _, _, _, _, h⟩ := t.overScalar_landed _
    rw [h]
    exact ⟨_, _, _, _, _, _, rfl⟩
  · exact ⟨_, _, _, _, _, _, rfl⟩
  · exact ⟨_, _, _, _, _, _, rfl⟩
  · exact ⟨_, _, _, _, _, _, rfl⟩
  · exact t.writeRow_landed _ _ _
  · exact ⟨_, _, _, _, _, _, rfl⟩

/-- A fold of steps that only land results. -/
theorem Task.foldl_landed {β : Type} {f : Task → β → Task} (hf : ∀ (t : Task) b, t.Landed (f t b)) (l : List β) (t : Task) :
    t.Landed (l.foldl f t) := by
  induction l generalizing t with
  | nil => exact .refl t
  | cons b l ih => exact (hf t b).trans (ih _)

theorem Task.landIf_landed (f : Result → Bool) (t : Task) : t.Landed (t.landIf f) :=
  (Task.foldl_landed Task.land_landed (t.flight.filter f) t).trans ⟨_, _, _, _, _, _, rfl⟩

theorem Task.landFlight_landed (lim : Nat) (t : Task) : t.Landed (t.landFlight lim) := t.landIf_landed _

theorem Task.landPendRows_landed (t : Task) (p : Pend) : t.Landed (t.landPendRows p) :=
  (t.landIf_landed _).trans (Task.foldl_landed Task.land_landed _ _)

theorem Task.landRows_landed (d q : Nat) (t : Task) : t.Landed (t.landRows d q) :=
  ((Task.Landed.refl t).pended t.flight _).trans
    ((Task.foldl_landed Task.landPendRows_landed _ _).trans (Task.landIf_landed _ _))

theorem MOp.land_landed (o : MOp) (t : Task) : t.Landed (o.land t) :=
  ((t.landRows_landed o.due o.seq).trans
    (Task.foldl_landed (fun t (e : Nat × RowCell) => t.writeRow_landed e.1 e.2 true) o.rows _)).trans ⟨_, _, _, _, _, _, rfl⟩

/-- `d` is `c` but for its M operations in flight and the tasks that it holds. -/
def Core.SameUnits (c d : Core) : Prop := ∃ mops task saved, d = { c with mops := mops, task := task, saved := saved }

theorem Core.landMops_units (lim : Nat) (c : Core) : c.SameUnits (c.landMops lim) := by
  have step (l : List MOp) (d : Core) (h : c.SameUnits d) : c.SameUnits (l.foldl (fun c o => c.onUid o.uid o.land) d) := by
    induction l generalizing d with
    | nil => exact h
    | cons o l ih =>
      obtain ⟨_, _, _, rfl⟩ := h
      exact ih _ ⟨_, _, _, rfl⟩
  exact step _ _ ⟨_, _, _, rfl⟩

/-- `n` is `m` with some results landed. -/
def Mach.Landed (m n : Mach) : Prop := n.s = m.s ∧ m.c.SameUnits n.c ∧ m.t.Landed n.t

theorem Mach.Landed.refl (m : Mach) : m.Landed m := ⟨rfl, ⟨_, _, _, rfl⟩, .refl _⟩

theorem Mach.Landed.trans {a b c : Mach} (h : a.Landed b) (k : b.Landed c) : a.Landed c := by
  obtain ⟨h1, ⟨_, _, _, h2⟩, h3⟩ := h
  obtain ⟨k1, ⟨x, y, z, k2⟩, k3⟩ := k
  exact ⟨k1.trans h1, ⟨x, y, z, by rw [k2, h2]⟩, h3.trans k3⟩

/-- A machine view whose task alone has landed results. -/
theorem Mach.Landed.task {m : Mach} {t : Task} (h : m.t.Landed t) : m.Landed { m with t := t } := ⟨rfl, ⟨_, _, _, rfl⟩, h⟩

/-- Taking the word of a pending result keeps everything of it but the word (R36). -/
theorem Mach.taken_kept (f : State → Core → Task → PendSrc → Option Word) (m : Mach) (p : Pend) :
    (m.taken f p).src = p.src ∧ (m.taken f p).issue = p.issue ∧ (m.taken f p).due = p.due ∧ (m.taken f p).seq = p.seq ∧
      (m.taken f p).read = none ∧ (m.taken f p).res.map Result.dest = p.res.map Result.dest := by
  unfold Mach.taken
  split
  · simp [Function.comp_def]
  · simp
  · simp_all

theorem Mach.landPend_landed (f : State → Core → Task → PendSrc → Option Word) (m : Mach) (p : Pend) : m.Landed (m.landPend f p) :=
  .task (Task.foldl_landed Task.land_landed _ _)

theorem Mach.landNext_landed (f : State → Core → Task → PendSrc → Option Word) (m : Mach) (p : Pend) : m.Landed (m.landNext f p) :=
  (Mach.Landed.task (m.t.landIf_landed _)).trans (Mach.landPend_landed f _ p)

theorem Mach.landAll_landed (f : State → Core → Task → PendSrc → Option Word) (lim : Nat) (m : Mach) : m.Landed (m.landAll f lim) := by
  have step (ps : List Pend) (n : Mach) (h : m.Landed n) : m.Landed (ps.foldl (Mach.landNext f) n) := by
    induction ps generalizing n with
    | nil => exact h
    | cons p ps ih => exact ih _ (h.trans (n.landNext_landed f p))
  have out := step (sortPends (m.t.pend.partition (Pend.lands lim)).1) { m with t := { m.t with pend := (m.t.pend.partition (Pend.lands lim)).2 } }
    (.task ⟨_, _, _, _, _, _, rfl⟩)
  exact out.trans (.task (Task.landFlight_landed lim _))

/-- What a bundle sees at issue is the machine with some results landed (R33, R36). -/
theorem Mach.view_landed (m : Mach) : m.Landed m.view := by
  have h : m.Landed (m.landMops (m.s.cyc + 1)) :=
    ⟨rfl, m.c.landMops_units _, Task.foldl_landed (fun t (o : MOp) => o.land_landed t) _ _⟩
  exact h.trans (Mach.landAll_landed valOf _ _)

end Sys2Proof.Machine
end

