-- ==== Sys2Proof/Laws/State.lean ====
section
/-! SUPPORT. What each named update of the state, of a core's working view and of a task leaves of each field. -/

namespace Sys2Proof.Machine

/-! ## The working view -/

@[simp] theorem Mach.onT_s (m : Mach) (f : Task → Task) : (m.onT f).s = m.s := rfl
@[simp] theorem Mach.onT_c (m : Mach) (f : Task → Task) : (m.onT f).c = m.c := rfl
@[simp] theorem Mach.onT_t (m : Mach) (f : Task → Task) : (m.onT f).t = f m.t := rfl
@[simp] theorem Mach.onC_s (m : Mach) (f : Core → Core) : (m.onC f).s = m.s := rfl
@[simp] theorem Mach.onC_c (m : Mach) (f : Core → Core) : (m.onC f).c = f m.c := rfl
@[simp] theorem Mach.onC_t (m : Mach) (f : Core → Core) : (m.onC f).t = m.t := rfl
@[simp] theorem Mach.onS_s (m : Mach) (f : State → State) : (m.onS f).s = f m.s := rfl
@[simp] theorem Mach.onS_c (m : Mach) (f : State → State) : (m.onS f).c = m.c := rfl
@[simp] theorem Mach.onS_t (m : Mach) (f : State → State) : (m.onS f).t = m.t := rfl
@[simp] theorem Mach.onX_s (m : Mach) (f : XRegs → XRegs) : (m.onX f).s = m.s := rfl
@[simp] theorem Mach.onX_c (m : Mach) (f : XRegs → XRegs) : (m.onX f).c = m.c := rfl
@[simp] theorem Mach.onX_t_uid (m : Mach) (f : XRegs → XRegs) : (m.onX f).t.uid = m.t.uid := rfl
@[simp] theorem Mach.onX_t_lid (m : Mach) (f : XRegs → XRegs) : (m.onX f).t.lid = m.t.lid := rfl
@[simp] theorem Mach.onX_t_parent (m : Mach) (f : XRegs → XRegs) : (m.onX f).t.parent = m.t.parent := rfl
@[simp] theorem Mach.onX_t_spawnCtr (m : Mach) (f : XRegs → XRegs) : (m.onX f).t.spawnCtr = m.t.spawnCtr := rfl
@[simp] theorem Mach.onX_t_budget (m : Mach) (f : XRegs → XRegs) : (m.onX f).t.budget = m.t.budget := rfl
@[simp] theorem Mach.onX_t_regs (m : Mach) (f : XRegs → XRegs) : (m.onX f).t.regs = m.t.regs := rfl
@[simp] theorem Mach.onX_t_x (m : Mach) (f : XRegs → XRegs) : (m.onX f).t.x = f m.t.x := rfl
@[simp] theorem Mach.onX_t_mat (m : Mach) (f : XRegs → XRegs) : (m.onX f).t.mat = m.t.mat := rfl
@[simp] theorem Mach.onX_t_bind (m : Mach) (f : XRegs → XRegs) : (m.onX f).t.bind = m.t.bind := rfl
@[simp] theorem Mach.onX_t_loops (m : Mach) (f : XRegs → XRegs) : (m.onX f).t.loops = m.t.loops := rfl
@[simp] theorem Mach.onX_t_sticky (m : Mach) (f : XRegs → XRegs) : (m.onX f).t.sticky = m.t.sticky := rfl
@[simp] theorem Mach.onX_t_flow (m : Mach) (f : XRegs → XRegs) : (m.onX f).t.flow = m.t.flow := rfl
@[simp] theorem Mach.onX_t_pc (m : Mach) (f : XRegs → XRegs) : (m.onX f).t.pc = m.t.pc := rfl
@[simp] theorem Mach.onX_t_iter (m : Mach) (f : XRegs → XRegs) : (m.onX f).t.iter = m.t.iter := rfl
@[simp] theorem Mach.onX_t_flight (m : Mach) (f : XRegs → XRegs) : (m.onX f).t.flight = m.t.flight := rfl
@[simp] theorem Mach.onX_t_pend (m : Mach) (f : XRegs → XRegs) : (m.onX f).t.pend = m.t.pend := rfl
@[simp] theorem Mach.onX_t_shadow (m : Mach) (f : XRegs → XRegs) : (m.onX f).t.shadow = m.t.shadow := rfl
@[simp] theorem Mach.onX_t_trapped (m : Mach) (f : XRegs → XRegs) : (m.onX f).t.trapped = m.t.trapped := rfl
@[simp] theorem Mach.onX_t_faults (m : Mach) (f : XRegs → XRegs) : (m.onX f).t.faults = m.t.faults := rfl
@[simp] theorem Mach.onX_t_ninth (m : Mach) (f : XRegs → XRegs) : (m.onX f).t.ninth = m.t.ninth := rfl
@[simp] theorem Mach.onX_t_aperture (m : Mach) (f : XRegs → XRegs) : (m.onX f).t.aperture = m.t.aperture := rfl
@[simp] theorem Mach.onX_t_recovery (m : Mach) (f : XRegs → XRegs) : (m.onX f).t.recovery = m.t.recovery := rfl
@[simp] theorem Mach.onX_t_wins0 (m : Mach) (f : XRegs → XRegs) : (m.onX f).t.wins0 = m.t.wins0 := rfl
@[simp] theorem Mach.onX_t_wins1 (m : Mach) (f : XRegs → XRegs) : (m.onX f).t.wins1 = m.t.wins1 := rfl
@[simp] theorem Mach.onX_t_stated (m : Mach) (f : XRegs → XRegs) : (m.onX f).t.stated = m.t.stated := rfl
@[simp] theorem Mach.onX_t_runStart (m : Mach) (f : XRegs → XRegs) : (m.onX f).t.runStart = m.t.runStart := rfl
@[simp] theorem Mach.onX_t_arrived (m : Mach) (f : XRegs → XRegs) : (m.onX f).t.arrived = m.t.arrived := rfl
@[simp] theorem Mach.onX_t_bars (m : Mach) (f : XRegs → XRegs) : (m.onX f).t.bars = m.t.bars := rfl
@[simp] theorem Mach.onX_t_held (m : Mach) (f : XRegs → XRegs) : (m.onX f).t.held = m.t.held := rfl
@[simp] theorem Mach.onX_t_traced (m : Mach) (f : XRegs → XRegs) : (m.onX f).t.traced = m.t.traced := rfl
@[simp] theorem Mach.onX_t_recs (m : Mach) (f : XRegs → XRegs) : (m.onX f).t.recs = m.t.recs := rfl
@[simp] theorem Mach.onX_t_recAll (m : Mach) (f : XRegs → XRegs) : (m.onX f).t.recAll = m.t.recAll := rfl
@[simp] theorem Mach.onX_t_rerun (m : Mach) (f : XRegs → XRegs) : (m.onX f).t.rerun = m.t.rerun := rfl
@[simp] theorem Mach.onX_t_flags (m : Mach) (f : XRegs → XRegs) : (m.onX f).t.flags = m.t.flags := rfl
@[simp] theorem Mach.onX_t_told (m : Mach) (f : XRegs → XRegs) : (m.onX f).t.told = m.t.told := rfl
@[simp] theorem Mach.onX_t_logs (m : Mach) (f : XRegs → XRegs) : (m.onX f).t.logs = m.t.logs := rfl
@[simp] theorem Mach.onX_t_seq (m : Mach) (f : XRegs → XRegs) : (m.onX f).t.seq = m.t.seq := rfl
@[simp] theorem Mach.onX_t_joined (m : Mach) (f : XRegs → XRegs) : (m.onX f).t.joined = m.t.joined := rfl
@[simp] theorem Mach.onR_s (m : Mach) (f : Regs → Regs) : (m.onR f).s = m.s := rfl
@[simp] theorem Mach.onR_c (m : Mach) (f : Regs → Regs) : (m.onR f).c = m.c := rfl
@[simp] theorem Mach.onR_t_uid (m : Mach) (f : Regs → Regs) : (m.onR f).t.uid = m.t.uid := rfl
@[simp] theorem Mach.onR_t_lid (m : Mach) (f : Regs → Regs) : (m.onR f).t.lid = m.t.lid := rfl
@[simp] theorem Mach.onR_t_parent (m : Mach) (f : Regs → Regs) : (m.onR f).t.parent = m.t.parent := rfl
@[simp] theorem Mach.onR_t_spawnCtr (m : Mach) (f : Regs → Regs) : (m.onR f).t.spawnCtr = m.t.spawnCtr := rfl
@[simp] theorem Mach.onR_t_budget (m : Mach) (f : Regs → Regs) : (m.onR f).t.budget = m.t.budget := rfl
@[simp] theorem Mach.onR_t_regs (m : Mach) (f : Regs → Regs) : (m.onR f).t.regs = f m.t.regs := rfl
@[simp] theorem Mach.onR_t_x (m : Mach) (f : Regs → Regs) : (m.onR f).t.x = m.t.x := rfl
@[simp] theorem Mach.onR_t_mat (m : Mach) (f : Regs → Regs) : (m.onR f).t.mat = m.t.mat := rfl
@[simp] theorem Mach.onR_t_bind (m : Mach) (f : Regs → Regs) : (m.onR f).t.bind = m.t.bind := rfl
@[simp] theorem Mach.onR_t_loops (m : Mach) (f : Regs → Regs) : (m.onR f).t.loops = m.t.loops := rfl
@[simp] theorem Mach.onR_t_sticky (m : Mach) (f : Regs → Regs) : (m.onR f).t.sticky = m.t.sticky := rfl
@[simp] theorem Mach.onR_t_flow (m : Mach) (f : Regs → Regs) : (m.onR f).t.flow = m.t.flow := rfl
@[simp] theorem Mach.onR_t_pc (m : Mach) (f : Regs → Regs) : (m.onR f).t.pc = m.t.pc := rfl
@[simp] theorem Mach.onR_t_iter (m : Mach) (f : Regs → Regs) : (m.onR f).t.iter = m.t.iter := rfl
@[simp] theorem Mach.onR_t_flight (m : Mach) (f : Regs → Regs) : (m.onR f).t.flight = m.t.flight := rfl
@[simp] theorem Mach.onR_t_pend (m : Mach) (f : Regs → Regs) : (m.onR f).t.pend = m.t.pend := rfl
@[simp] theorem Mach.onR_t_shadow (m : Mach) (f : Regs → Regs) : (m.onR f).t.shadow = m.t.shadow := rfl
@[simp] theorem Mach.onR_t_trapped (m : Mach) (f : Regs → Regs) : (m.onR f).t.trapped = m.t.trapped := rfl
@[simp] theorem Mach.onR_t_faults (m : Mach) (f : Regs → Regs) : (m.onR f).t.faults = m.t.faults := rfl
@[simp] theorem Mach.onR_t_ninth (m : Mach) (f : Regs → Regs) : (m.onR f).t.ninth = m.t.ninth := rfl
@[simp] theorem Mach.onR_t_aperture (m : Mach) (f : Regs → Regs) : (m.onR f).t.aperture = m.t.aperture := rfl
@[simp] theorem Mach.onR_t_recovery (m : Mach) (f : Regs → Regs) : (m.onR f).t.recovery = m.t.recovery := rfl
@[simp] theorem Mach.onR_t_wins0 (m : Mach) (f : Regs → Regs) : (m.onR f).t.wins0 = m.t.wins0 := rfl
@[simp] theorem Mach.onR_t_wins1 (m : Mach) (f : Regs → Regs) : (m.onR f).t.wins1 = m.t.wins1 := rfl
@[simp] theorem Mach.onR_t_stated (m : Mach) (f : Regs → Regs) : (m.onR f).t.stated = m.t.stated := rfl
@[simp] theorem Mach.onR_t_runStart (m : Mach) (f : Regs → Regs) : (m.onR f).t.runStart = m.t.runStart := rfl
@[simp] theorem Mach.onR_t_arrived (m : Mach) (f : Regs → Regs) : (m.onR f).t.arrived = m.t.arrived := rfl
@[simp] theorem Mach.onR_t_bars (m : Mach) (f : Regs → Regs) : (m.onR f).t.bars = m.t.bars := rfl
@[simp] theorem Mach.onR_t_held (m : Mach) (f : Regs → Regs) : (m.onR f).t.held = m.t.held := rfl
@[simp] theorem Mach.onR_t_traced (m : Mach) (f : Regs → Regs) : (m.onR f).t.traced = m.t.traced := rfl
@[simp] theorem Mach.onR_t_recs (m : Mach) (f : Regs → Regs) : (m.onR f).t.recs = m.t.recs := rfl
@[simp] theorem Mach.onR_t_recAll (m : Mach) (f : Regs → Regs) : (m.onR f).t.recAll = m.t.recAll := rfl
@[simp] theorem Mach.onR_t_rerun (m : Mach) (f : Regs → Regs) : (m.onR f).t.rerun = m.t.rerun := rfl
@[simp] theorem Mach.onR_t_flags (m : Mach) (f : Regs → Regs) : (m.onR f).t.flags = m.t.flags := rfl
@[simp] theorem Mach.onR_t_told (m : Mach) (f : Regs → Regs) : (m.onR f).t.told = m.t.told := rfl
@[simp] theorem Mach.onR_t_logs (m : Mach) (f : Regs → Regs) : (m.onR f).t.logs = m.t.logs := rfl
@[simp] theorem Mach.onR_t_seq (m : Mach) (f : Regs → Regs) : (m.onR f).t.seq = m.t.seq := rfl
@[simp] theorem Mach.onR_t_joined (m : Mach) (f : Regs → Regs) : (m.onR f).t.joined = m.t.joined := rfl

/-! ## The device -/

@[simp] theorem State.setCore_up (s : State) (k : Nat) (c : Core) : (s.setCore k c).up = s.up := rfl
@[simp] theorem State.setCore_lost (s : State) (k : Nat) (c : Core) : (s.setCore k c).lost = s.lost := rfl
@[simp] theorem State.setCore_cyc (s : State) (k : Nat) (c : Core) : (s.setCore k c).cyc = s.cyc := rfl
@[simp] theorem State.setCore_fresh (s : State) (k : Nat) (c : Core) : (s.setCore k c).fresh = s.fresh := rfl
@[simp] theorem State.setCore_cur (s : State) (k : Nat) (c : Core) : (s.setCore k c).cur = s.cur := rfl
@[simp] theorem State.setCore_uids (s : State) (k : Nat) (c : Core) : (s.setCore k c).uids = s.uids := rfl
@[simp] theorem State.setCore_agenda (s : State) (k : Nat) (c : Core) : (s.setCore k c).agenda = s.agenda := rfl
@[simp] theorem State.setCore_devnum (s : State) (k : Nat) (c : Core) : (s.setCore k c).devnum = s.devnum := rfl
@[simp] theorem State.setCore_cores (s : State) (k : Nat) (c : Core) : (s.setCore k c).cores = SMap.put s.cores k c := rfl
@[simp] theorem State.setCore_mem (s : State) (k : Nat) (c : Core) : (s.setCore k c).mem = s.mem := rfl
@[simp] theorem State.setCore_peers (s : State) (k : Nat) (c : Core) : (s.setCore k c).peers = s.peers := rfl
@[simp] theorem State.setCore_gtaint (s : State) (k : Nat) (c : Core) : (s.setCore k c).gtaint = s.gtaint := rfl
@[simp] theorem State.setCore_err (s : State) (k : Nat) (c : Core) : (s.setCore k c).err = s.err := rfl
@[simp] theorem State.setCore_ctrs (s : State) (k : Nat) (c : Core) : (s.setCore k c).ctrs = s.ctrs := rfl
@[simp] theorem State.setCore_adds (s : State) (k : Nat) (c : Core) : (s.setCore k c).adds = s.adds := rfl
@[simp] theorem State.setCore_tables (s : State) (k : Nat) (c : Core) : (s.setCore k c).tables = s.tables := rfl
@[simp] theorem State.setCore_banks (s : State) (k : Nat) (c : Core) : (s.setCore k c).banks = s.banks := rfl
@[simp] theorem State.setCore_ccache (s : State) (k : Nat) (c : Core) : (s.setCore k c).ccache = s.ccache := rfl
@[simp] theorem State.setCore_ctlb (s : State) (k : Nat) (c : Core) : (s.setCore k c).ctlb = s.ctlb := rfl
@[simp] theorem State.setCore_discard (s : State) (k : Nat) (c : Core) : (s.setCore k c).discard = s.discard := rfl
@[simp] theorem State.setCore_relief (s : State) (k : Nat) (c : Core) : (s.setCore k c).relief = s.relief := rfl
@[simp] theorem State.setCore_hbm (s : State) (k : Nat) (c : Core) : (s.setCore k c).hbm = s.hbm := rfl
@[simp] theorem State.setCore_watches (s : State) (k : Nat) (c : Core) : (s.setCore k c).watches = s.watches := rfl
@[simp] theorem State.setCore_launches (s : State) (k : Nat) (c : Core) : (s.setCore k c).launches = s.launches := rfl
@[simp] theorem State.setCore_lreqs (s : State) (k : Nat) (c : Core) : (s.setCore k c).lreqs = s.lreqs := rfl
@[simp] theorem State.setCore_veils (s : State) (k : Nat) (c : Core) : (s.setCore k c).veils = s.veils := rfl
@[simp] theorem State.setCore_links (s : State) (k : Nat) (c : Core) : (s.setCore k c).links = s.links := rfl
@[simp] theorem State.setCore_msgs (s : State) (k : Nat) (c : Core) : (s.setCore k c).msgs = s.msgs := rfl
@[simp] theorem State.setCore_outbox (s : State) (k : Nat) (c : Core) : (s.setCore k c).outbox = s.outbox := rfl
@[simp] theorem State.setCore_lcounts (s : State) (k : Nat) (c : Core) : (s.setCore k c).lcounts = s.lcounts := rfl
@[simp] theorem State.setCore_images (s : State) (k : Nat) (c : Core) : (s.setCore k c).images = s.images := rfl
@[simp] theorem State.setCore_stops (s : State) (k : Nat) (c : Core) : (s.setCore k c).stops = s.stops := rfl
@[simp] theorem State.setCore_reports (s : State) (k : Nat) (c : Core) : (s.setCore k c).reports = s.reports := rfl
@[simp] theorem State.setCore_fl (s : State) (k : Nat) (c : Core) : (s.setCore k c).fl = s.fl := rfl
@[simp] theorem State.setCore_ports (s : State) (k : Nat) (c : Core) : (s.setCore k c).ports = s.ports := rfl
@[simp] theorem State.setCore_ioNext (s : State) (k : Nat) (c : Core) : (s.setCore k c).ioNext = s.ioNext := rfl
@[simp] theorem State.setCore_ioEarly (s : State) (k : Nat) (c : Core) : (s.setCore k c).ioEarly = s.ioEarly := rfl

@[simp] theorem State.setBank_up (s : State) (b : Nat) (x : Bank) : (s.setBank b x).up = s.up := rfl
@[simp] theorem State.setBank_lost (s : State) (b : Nat) (x : Bank) : (s.setBank b x).lost = s.lost := rfl
@[simp] theorem State.setBank_cyc (s : State) (b : Nat) (x : Bank) : (s.setBank b x).cyc = s.cyc := rfl
@[simp] theorem State.setBank_fresh (s : State) (b : Nat) (x : Bank) : (s.setBank b x).fresh = s.fresh := rfl
@[simp] theorem State.setBank_cur (s : State) (b : Nat) (x : Bank) : (s.setBank b x).cur = s.cur := rfl
@[simp] theorem State.setBank_uids (s : State) (b : Nat) (x : Bank) : (s.setBank b x).uids = s.uids := rfl
@[simp] theorem State.setBank_agenda (s : State) (b : Nat) (x : Bank) : (s.setBank b x).agenda = s.agenda := rfl
@[simp] theorem State.setBank_devnum (s : State) (b : Nat) (x : Bank) : (s.setBank b x).devnum = s.devnum := rfl
@[simp] theorem State.setBank_cores (s : State) (b : Nat) (x : Bank) : (s.setBank b x).cores = s.cores := rfl
@[simp] theorem State.setBank_mem (s : State) (b : Nat) (x : Bank) : (s.setBank b x).mem = s.mem := rfl
@[simp] theorem State.setBank_peers (s : State) (b : Nat) (x : Bank) : (s.setBank b x).peers = s.peers := rfl
@[simp] theorem State.setBank_gtaint (s : State) (b : Nat) (x : Bank) : (s.setBank b x).gtaint = s.gtaint := rfl
@[simp] theorem State.setBank_err (s : State) (b : Nat) (x : Bank) : (s.setBank b x).err = s.err := rfl
@[simp] theorem State.setBank_ctrs (s : State) (b : Nat) (x : Bank) : (s.setBank b x).ctrs = s.ctrs := rfl
@[simp] theorem State.setBank_adds (s : State) (b : Nat) (x : Bank) : (s.setBank b x).adds = s.adds := rfl
@[simp] theorem State.setBank_tables (s : State) (b : Nat) (x : Bank) : (s.setBank b x).tables = s.tables := rfl
@[simp] theorem State.setBank_banks (s : State) (b : Nat) (x : Bank) : (s.setBank b x).banks = SMap.put s.banks b x := rfl
@[simp] theorem State.setBank_ccache (s : State) (b : Nat) (x : Bank) : (s.setBank b x).ccache = s.ccache := rfl
@[simp] theorem State.setBank_ctlb (s : State) (b : Nat) (x : Bank) : (s.setBank b x).ctlb = s.ctlb := rfl
@[simp] theorem State.setBank_discard (s : State) (b : Nat) (x : Bank) : (s.setBank b x).discard = s.discard := rfl
@[simp] theorem State.setBank_relief (s : State) (b : Nat) (x : Bank) : (s.setBank b x).relief = s.relief := rfl
@[simp] theorem State.setBank_hbm (s : State) (b : Nat) (x : Bank) : (s.setBank b x).hbm = s.hbm := rfl
@[simp] theorem State.setBank_watches (s : State) (b : Nat) (x : Bank) : (s.setBank b x).watches = s.watches := rfl
@[simp] theorem State.setBank_launches (s : State) (b : Nat) (x : Bank) : (s.setBank b x).launches = s.launches := rfl
@[simp] theorem State.setBank_lreqs (s : State) (b : Nat) (x : Bank) : (s.setBank b x).lreqs = s.lreqs := rfl
@[simp] theorem State.setBank_veils (s : State) (b : Nat) (x : Bank) : (s.setBank b x).veils = s.veils := rfl
@[simp] theorem State.setBank_links (s : State) (b : Nat) (x : Bank) : (s.setBank b x).links = s.links := rfl
@[simp] theorem State.setBank_msgs (s : State) (b : Nat) (x : Bank) : (s.setBank b x).msgs = s.msgs := rfl
@[simp] theorem State.setBank_outbox (s : State) (b : Nat) (x : Bank) : (s.setBank b x).outbox = s.outbox := rfl
@[simp] theorem State.setBank_lcounts (s : State) (b : Nat) (x : Bank) : (s.setBank b x).lcounts = s.lcounts := rfl
@[simp] theorem State.setBank_images (s : State) (b : Nat) (x : Bank) : (s.setBank b x).images = s.images := rfl
@[simp] theorem State.setBank_stops (s : State) (b : Nat) (x : Bank) : (s.setBank b x).stops = s.stops := rfl
@[simp] theorem State.setBank_reports (s : State) (b : Nat) (x : Bank) : (s.setBank b x).reports = s.reports := rfl
@[simp] theorem State.setBank_fl (s : State) (b : Nat) (x : Bank) : (s.setBank b x).fl = s.fl := rfl
@[simp] theorem State.setBank_ports (s : State) (b : Nat) (x : Bank) : (s.setBank b x).ports = s.ports := rfl
@[simp] theorem State.setBank_ioNext (s : State) (b : Nat) (x : Bank) : (s.setBank b x).ioNext = s.ioNext := rfl
@[simp] theorem State.setBank_ioEarly (s : State) (b : Nat) (x : Bank) : (s.setBank b x).ioEarly = s.ioEarly := rfl

@[simp] theorem State.onHbm_up (s : State) (f : Hbm → Hbm) : (s.onHbm f).up = s.up := rfl
@[simp] theorem State.onHbm_lost (s : State) (f : Hbm → Hbm) : (s.onHbm f).lost = s.lost := rfl
@[simp] theorem State.onHbm_cyc (s : State) (f : Hbm → Hbm) : (s.onHbm f).cyc = s.cyc := rfl
@[simp] theorem State.onHbm_fresh (s : State) (f : Hbm → Hbm) : (s.onHbm f).fresh = s.fresh := rfl
@[simp] theorem State.onHbm_cur (s : State) (f : Hbm → Hbm) : (s.onHbm f).cur = s.cur := rfl
@[simp] theorem State.onHbm_uids (s : State) (f : Hbm → Hbm) : (s.onHbm f).uids = s.uids := rfl
@[simp] theorem State.onHbm_agenda (s : State) (f : Hbm → Hbm) : (s.onHbm f).agenda = s.agenda := rfl
@[simp] theorem State.onHbm_devnum (s : State) (f : Hbm → Hbm) : (s.onHbm f).devnum = s.devnum := rfl
@[simp] theorem State.onHbm_cores (s : State) (f : Hbm → Hbm) : (s.onHbm f).cores = s.cores := rfl
@[simp] theorem State.onHbm_mem (s : State) (f : Hbm → Hbm) : (s.onHbm f).mem = s.mem := rfl
@[simp] theorem State.onHbm_peers (s : State) (f : Hbm → Hbm) : (s.onHbm f).peers = s.peers := rfl
@[simp] theorem State.onHbm_gtaint (s : State) (f : Hbm → Hbm) : (s.onHbm f).gtaint = s.gtaint := rfl
@[simp] theorem State.onHbm_err (s : State) (f : Hbm → Hbm) : (s.onHbm f).err = s.err := rfl
@[simp] theorem State.onHbm_ctrs (s : State) (f : Hbm → Hbm) : (s.onHbm f).ctrs = s.ctrs := rfl
@[simp] theorem State.onHbm_adds (s : State) (f : Hbm → Hbm) : (s.onHbm f).adds = s.adds := rfl
@[simp] theorem State.onHbm_tables (s : State) (f : Hbm → Hbm) : (s.onHbm f).tables = s.tables := rfl
@[simp] theorem State.onHbm_banks (s : State) (f : Hbm → Hbm) : (s.onHbm f).banks = s.banks := rfl
@[simp] theorem State.onHbm_ccache (s : State) (f : Hbm → Hbm) : (s.onHbm f).ccache = s.ccache := rfl
@[simp] theorem State.onHbm_ctlb (s : State) (f : Hbm → Hbm) : (s.onHbm f).ctlb = s.ctlb := rfl
@[simp] theorem State.onHbm_discard (s : State) (f : Hbm → Hbm) : (s.onHbm f).discard = s.discard := rfl
@[simp] theorem State.onHbm_relief (s : State) (f : Hbm → Hbm) : (s.onHbm f).relief = s.relief := rfl
@[simp] theorem State.onHbm_hbm (s : State) (f : Hbm → Hbm) : (s.onHbm f).hbm = f s.hbm := rfl
@[simp] theorem State.onHbm_watches (s : State) (f : Hbm → Hbm) : (s.onHbm f).watches = s.watches := rfl
@[simp] theorem State.onHbm_launches (s : State) (f : Hbm → Hbm) : (s.onHbm f).launches = s.launches := rfl
@[simp] theorem State.onHbm_lreqs (s : State) (f : Hbm → Hbm) : (s.onHbm f).lreqs = s.lreqs := rfl
@[simp] theorem State.onHbm_veils (s : State) (f : Hbm → Hbm) : (s.onHbm f).veils = s.veils := rfl
@[simp] theorem State.onHbm_links (s : State) (f : Hbm → Hbm) : (s.onHbm f).links = s.links := rfl
@[simp] theorem State.onHbm_msgs (s : State) (f : Hbm → Hbm) : (s.onHbm f).msgs = s.msgs := rfl
@[simp] theorem State.onHbm_outbox (s : State) (f : Hbm → Hbm) : (s.onHbm f).outbox = s.outbox := rfl
@[simp] theorem State.onHbm_lcounts (s : State) (f : Hbm → Hbm) : (s.onHbm f).lcounts = s.lcounts := rfl
@[simp] theorem State.onHbm_images (s : State) (f : Hbm → Hbm) : (s.onHbm f).images = s.images := rfl
@[simp] theorem State.onHbm_stops (s : State) (f : Hbm → Hbm) : (s.onHbm f).stops = s.stops := rfl
@[simp] theorem State.onHbm_reports (s : State) (f : Hbm → Hbm) : (s.onHbm f).reports = s.reports := rfl
@[simp] theorem State.onHbm_fl (s : State) (f : Hbm → Hbm) : (s.onHbm f).fl = s.fl := rfl
@[simp] theorem State.onHbm_ports (s : State) (f : Hbm → Hbm) : (s.onHbm f).ports = s.ports := rfl
@[simp] theorem State.onHbm_ioNext (s : State) (f : Hbm → Hbm) : (s.onHbm f).ioNext = s.ioNext := rfl
@[simp] theorem State.onHbm_ioEarly (s : State) (f : Hbm → Hbm) : (s.onHbm f).ioEarly = s.ioEarly := rfl

@[simp] theorem State.report_up (s : State) (k u a : Nat) (w : Word) : (s.report k u a w).up = s.up := rfl
@[simp] theorem State.report_lost (s : State) (k u a : Nat) (w : Word) : (s.report k u a w).lost = s.lost := rfl
@[simp] theorem State.report_cyc (s : State) (k u a : Nat) (w : Word) : (s.report k u a w).cyc = s.cyc := rfl
@[simp] theorem State.report_fresh (s : State) (k u a : Nat) (w : Word) : (s.report k u a w).fresh = s.fresh := rfl
@[simp] theorem State.report_cur (s : State) (k u a : Nat) (w : Word) : (s.report k u a w).cur = s.cur := rfl
@[simp] theorem State.report_uids (s : State) (k u a : Nat) (w : Word) : (s.report k u a w).uids = s.uids := rfl
@[simp] theorem State.report_agenda (s : State) (k u a : Nat) (w : Word) : (s.report k u a w).agenda = s.agenda := rfl
@[simp] theorem State.report_devnum (s : State) (k u a : Nat) (w : Word) : (s.report k u a w).devnum = s.devnum := rfl
@[simp] theorem State.report_cores (s : State) (k u a : Nat) (w : Word) : (s.report k u a w).cores = s.cores := rfl
@[simp] theorem State.report_mem (s : State) (k u a : Nat) (w : Word) : (s.report k u a w).mem = s.mem := rfl
@[simp] theorem State.report_peers (s : State) (k u a : Nat) (w : Word) : (s.report k u a w).peers = s.peers := rfl
@[simp] theorem State.report_gtaint (s : State) (k u a : Nat) (w : Word) : (s.report k u a w).gtaint = s.gtaint := rfl
@[simp] theorem State.report_err (s : State) (k u a : Nat) (w : Word) : (s.report k u a w).err = s.err := rfl
@[simp] theorem State.report_ctrs (s : State) (k u a : Nat) (w : Word) : (s.report k u a w).ctrs = s.ctrs := rfl
@[simp] theorem State.report_adds (s : State) (k u a : Nat) (w : Word) : (s.report k u a w).adds = s.adds := rfl
@[simp] theorem State.report_tables (s : State) (k u a : Nat) (w : Word) : (s.report k u a w).tables = s.tables := rfl
@[simp] theorem State.report_banks (s : State) (k u a : Nat) (w : Word) : (s.report k u a w).banks = s.banks := rfl
@[simp] theorem State.report_ccache (s : State) (k u a : Nat) (w : Word) : (s.report k u a w).ccache = s.ccache := rfl
@[simp] theorem State.report_ctlb (s : State) (k u a : Nat) (w : Word) : (s.report k u a w).ctlb = s.ctlb := rfl
@[simp] theorem State.report_discard (s : State) (k u a : Nat) (w : Word) : (s.report k u a w).discard = s.discard := rfl
@[simp] theorem State.report_relief (s : State) (k u a : Nat) (w : Word) : (s.report k u a w).relief = s.relief := rfl
@[simp] theorem State.report_hbm (s : State) (k u a : Nat) (w : Word) : (s.report k u a w).hbm = s.hbm := rfl
@[simp] theorem State.report_watches (s : State) (k u a : Nat) (w : Word) : (s.report k u a w).watches = s.watches := rfl
@[simp] theorem State.report_launches (s : State) (k u a : Nat) (w : Word) : (s.report k u a w).launches = s.launches := rfl
@[simp] theorem State.report_lreqs (s : State) (k u a : Nat) (w : Word) : (s.report k u a w).lreqs = s.lreqs := rfl
@[simp] theorem State.report_veils (s : State) (k u a : Nat) (w : Word) : (s.report k u a w).veils = s.veils := rfl
@[simp] theorem State.report_links (s : State) (k u a : Nat) (w : Word) : (s.report k u a w).links = s.links := rfl
@[simp] theorem State.report_msgs (s : State) (k u a : Nat) (w : Word) : (s.report k u a w).msgs = s.msgs := rfl
@[simp] theorem State.report_outbox (s : State) (k u a : Nat) (w : Word) : (s.report k u a w).outbox = s.outbox := rfl
@[simp] theorem State.report_lcounts (s : State) (k u a : Nat) (w : Word) : (s.report k u a w).lcounts = s.lcounts := rfl
@[simp] theorem State.report_images (s : State) (k u a : Nat) (w : Word) : (s.report k u a w).images = s.images := rfl
@[simp] theorem State.report_stops (s : State) (k u a : Nat) (w : Word) : (s.report k u a w).stops = s.stops := rfl
@[simp] theorem State.report_reports (s : State) (k u a : Nat) (w : Word) : (s.report k u a w).reports = s.reports ++ [⟨k, u, a, w⟩] := rfl
@[simp] theorem State.report_fl (s : State) (k u a : Nat) (w : Word) : (s.report k u a w).fl = s.fl := rfl
@[simp] theorem State.report_ports (s : State) (k u a : Nat) (w : Word) : (s.report k u a w).ports = s.ports := rfl
@[simp] theorem State.report_ioNext (s : State) (k u a : Nat) (w : Word) : (s.report k u a w).ioNext = s.ioNext := rfl
@[simp] theorem State.report_ioEarly (s : State) (k u a : Nat) (w : Word) : (s.report k u a w).ioEarly = s.ioEarly := rfl

@[simp] theorem Mach.put_up (m : Mach) : (m.put).up = m.s.up := rfl
@[simp] theorem Mach.put_lost (m : Mach) : (m.put).lost = m.s.lost := rfl
@[simp] theorem Mach.put_cyc (m : Mach) : (m.put).cyc = m.s.cyc := rfl
@[simp] theorem Mach.put_fresh (m : Mach) : (m.put).fresh = m.s.fresh := rfl
@[simp] theorem Mach.put_cur (m : Mach) : (m.put).cur = m.s.cur := rfl
@[simp] theorem Mach.put_uids (m : Mach) : (m.put).uids = m.s.uids := rfl
@[simp] theorem Mach.put_agenda (m : Mach) : (m.put).agenda = m.s.agenda := rfl
@[simp] theorem Mach.put_devnum (m : Mach) : (m.put).devnum = m.s.devnum := rfl
@[simp] theorem Mach.put_cores (m : Mach) : (m.put).cores = SMap.put m.s.cores m.s.cur { m.c with task := some m.t } := rfl
@[simp] theorem Mach.put_mem (m : Mach) : (m.put).mem = m.s.mem := rfl
@[simp] theorem Mach.put_peers (m : Mach) : (m.put).peers = m.s.peers := rfl
@[simp] theorem Mach.put_gtaint (m : Mach) : (m.put).gtaint = m.s.gtaint := rfl
@[simp] theorem Mach.put_err (m : Mach) : (m.put).err = m.s.err := rfl
@[simp] theorem Mach.put_ctrs (m : Mach) : (m.put).ctrs = m.s.ctrs := rfl
@[simp] theorem Mach.put_adds (m : Mach) : (m.put).adds = m.s.adds := rfl
@[simp] theorem Mach.put_tables (m : Mach) : (m.put).tables = m.s.tables := rfl
@[simp] theorem Mach.put_banks (m : Mach) : (m.put).banks = m.s.banks := rfl
@[simp] theorem Mach.put_ccache (m : Mach) : (m.put).ccache = m.s.ccache := rfl
@[simp] theorem Mach.put_ctlb (m : Mach) : (m.put).ctlb = m.s.ctlb := rfl
@[simp] theorem Mach.put_discard (m : Mach) : (m.put).discard = m.s.discard := rfl
@[simp] theorem Mach.put_relief (m : Mach) : (m.put).relief = m.s.relief := rfl
@[simp] theorem Mach.put_hbm (m : Mach) : (m.put).hbm = m.s.hbm := rfl
@[simp] theorem Mach.put_watches (m : Mach) : (m.put).watches = m.s.watches := rfl
@[simp] theorem Mach.put_launches (m : Mach) : (m.put).launches = m.s.launches := rfl
@[simp] theorem Mach.put_lreqs (m : Mach) : (m.put).lreqs = m.s.lreqs := rfl
@[simp] theorem Mach.put_veils (m : Mach) : (m.put).veils = m.s.veils := rfl
@[simp] theorem Mach.put_links (m : Mach) : (m.put).links = m.s.links := rfl
@[simp] theorem Mach.put_msgs (m : Mach) : (m.put).msgs = m.s.msgs := rfl
@[simp] theorem Mach.put_outbox (m : Mach) : (m.put).outbox = m.s.outbox := rfl
@[simp] theorem Mach.put_lcounts (m : Mach) : (m.put).lcounts = m.s.lcounts := rfl
@[simp] theorem Mach.put_images (m : Mach) : (m.put).images = m.s.images := rfl
@[simp] theorem Mach.put_stops (m : Mach) : (m.put).stops = m.s.stops := rfl
@[simp] theorem Mach.put_reports (m : Mach) : (m.put).reports = m.s.reports := rfl
@[simp] theorem Mach.put_fl (m : Mach) : (m.put).fl = m.s.fl := rfl
@[simp] theorem Mach.put_ports (m : Mach) : (m.put).ports = m.s.ports := rfl
@[simp] theorem Mach.put_ioNext (m : Mach) : (m.put).ioNext = m.s.ioNext := rfl
@[simp] theorem Mach.put_ioEarly (m : Mach) : (m.put).ioEarly = m.s.ioEarly := rfl

@[simp] theorem Mach.putIdle_up (m : Mach) : (m.putIdle).up = m.s.up := rfl
@[simp] theorem Mach.putIdle_lost (m : Mach) : (m.putIdle).lost = m.s.lost := rfl
@[simp] theorem Mach.putIdle_cyc (m : Mach) : (m.putIdle).cyc = m.s.cyc := rfl
@[simp] theorem Mach.putIdle_fresh (m : Mach) : (m.putIdle).fresh = m.s.fresh := rfl
@[simp] theorem Mach.putIdle_cur (m : Mach) : (m.putIdle).cur = m.s.cur := rfl
@[simp] theorem Mach.putIdle_uids (m : Mach) : (m.putIdle).uids = m.s.uids := rfl
@[simp] theorem Mach.putIdle_agenda (m : Mach) : (m.putIdle).agenda = m.s.agenda := rfl
@[simp] theorem Mach.putIdle_devnum (m : Mach) : (m.putIdle).devnum = m.s.devnum := rfl
@[simp] theorem Mach.putIdle_cores (m : Mach) : (m.putIdle).cores = SMap.put m.s.cores m.s.cur { m.c with task := none } := rfl
@[simp] theorem Mach.putIdle_mem (m : Mach) : (m.putIdle).mem = m.s.mem := rfl
@[simp] theorem Mach.putIdle_peers (m : Mach) : (m.putIdle).peers = m.s.peers := rfl
@[simp] theorem Mach.putIdle_gtaint (m : Mach) : (m.putIdle).gtaint = m.s.gtaint := rfl
@[simp] theorem Mach.putIdle_err (m : Mach) : (m.putIdle).err = m.s.err := rfl
@[simp] theorem Mach.putIdle_ctrs (m : Mach) : (m.putIdle).ctrs = m.s.ctrs := rfl
@[simp] theorem Mach.putIdle_adds (m : Mach) : (m.putIdle).adds = m.s.adds := rfl
@[simp] theorem Mach.putIdle_tables (m : Mach) : (m.putIdle).tables = m.s.tables := rfl
@[simp] theorem Mach.putIdle_banks (m : Mach) : (m.putIdle).banks = m.s.banks := rfl
@[simp] theorem Mach.putIdle_ccache (m : Mach) : (m.putIdle).ccache = m.s.ccache := rfl
@[simp] theorem Mach.putIdle_ctlb (m : Mach) : (m.putIdle).ctlb = m.s.ctlb := rfl
@[simp] theorem Mach.putIdle_discard (m : Mach) : (m.putIdle).discard = m.s.discard := rfl
@[simp] theorem Mach.putIdle_relief (m : Mach) : (m.putIdle).relief = m.s.relief := rfl
@[simp] theorem Mach.putIdle_hbm (m : Mach) : (m.putIdle).hbm = m.s.hbm := rfl
@[simp] theorem Mach.putIdle_watches (m : Mach) : (m.putIdle).watches = m.s.watches := rfl
@[simp] theorem Mach.putIdle_launches (m : Mach) : (m.putIdle).launches = m.s.launches := rfl
@[simp] theorem Mach.putIdle_lreqs (m : Mach) : (m.putIdle).lreqs = m.s.lreqs := rfl
@[simp] theorem Mach.putIdle_veils (m : Mach) : (m.putIdle).veils = m.s.veils := rfl
@[simp] theorem Mach.putIdle_links (m : Mach) : (m.putIdle).links = m.s.links := rfl
@[simp] theorem Mach.putIdle_msgs (m : Mach) : (m.putIdle).msgs = m.s.msgs := rfl
@[simp] theorem Mach.putIdle_outbox (m : Mach) : (m.putIdle).outbox = m.s.outbox := rfl
@[simp] theorem Mach.putIdle_lcounts (m : Mach) : (m.putIdle).lcounts = m.s.lcounts := rfl
@[simp] theorem Mach.putIdle_images (m : Mach) : (m.putIdle).images = m.s.images := rfl
@[simp] theorem Mach.putIdle_stops (m : Mach) : (m.putIdle).stops = m.s.stops := rfl
@[simp] theorem Mach.putIdle_reports (m : Mach) : (m.putIdle).reports = m.s.reports := rfl
@[simp] theorem Mach.putIdle_fl (m : Mach) : (m.putIdle).fl = m.s.fl := rfl
@[simp] theorem Mach.putIdle_ports (m : Mach) : (m.putIdle).ports = m.s.ports := rfl
@[simp] theorem Mach.putIdle_ioNext (m : Mach) : (m.putIdle).ioNext = m.s.ioNext := rfl
@[simp] theorem Mach.putIdle_ioEarly (m : Mach) : (m.putIdle).ioEarly = m.s.ioEarly := rfl

@[simp] theorem State.core_setCore_same (s : State) (k : Nat) (c : Core) : (s.setCore k c).core k = c := SMap.get_put_same ..

theorem State.core_setCore_ne (s : State) {j k : Nat} (c : Core) (h : j ≠ k) : (s.setCore k c).core j = s.core j :=
  SMap.get_put_ne _ _ _ h

@[simp] theorem State.bank_setBank_same (s : State) (b : Nat) (x : Bank) : (s.setBank b x).bank b = x := by
  simp [State.bank, State.setBank]

theorem State.bank_setBank_ne (s : State) {a b : Nat} (x : Bank) (h : a ≠ b) : (s.setBank b x).bank a = s.bank a := by
  simp [State.bank, State.setBank, SMap.find_put_ne _ _ h]

@[simp] theorem Mach.core_put (m : Mach) : m.put.core m.s.cur = { m.c with task := some m.t } := SMap.get_put_same ..

theorem Mach.core_put_ne (m : Mach) {k : Nat} (h : k ≠ m.s.cur) : m.put.core k = m.s.core k := SMap.get_put_ne _ _ _ h

@[simp] theorem Mach.core_putIdle (m : Mach) : m.putIdle.core m.s.cur = { m.c with task := none } := SMap.get_put_same ..

theorem Mach.core_putIdle_ne (m : Mach) {k : Nat} (h : k ≠ m.s.cur) : m.putIdle.core k = m.s.core k := SMap.get_put_ne _ _ _ h

/-- The working view of a core that holds a task is the core and its task. -/
theorem State.mach_put (m : Mach) : m.put.mach m.s.cur = some ⟨{ m.put with cur := m.s.cur }, { m.c with task := some m.t }, m.t⟩ := by
  simp [State.mach]

/-! ## A task -/

@[simp] theorem Task.fly_uid (t : Task) (r : Result) : (t.fly r).uid = t.uid := rfl
@[simp] theorem Task.fly_lid (t : Task) (r : Result) : (t.fly r).lid = t.lid := rfl
@[simp] theorem Task.fly_parent (t : Task) (r : Result) : (t.fly r).parent = t.parent := rfl
@[simp] theorem Task.fly_spawnCtr (t : Task) (r : Result) : (t.fly r).spawnCtr = t.spawnCtr := rfl
@[simp] theorem Task.fly_budget (t : Task) (r : Result) : (t.fly r).budget = t.budget := rfl
@[simp] theorem Task.fly_regs (t : Task) (r : Result) : (t.fly r).regs = t.regs := rfl
@[simp] theorem Task.fly_x (t : Task) (r : Result) : (t.fly r).x = t.x := rfl
@[simp] theorem Task.fly_mat (t : Task) (r : Result) : (t.fly r).mat = t.mat := rfl
@[simp] theorem Task.fly_bind (t : Task) (r : Result) : (t.fly r).bind = t.bind := rfl
@[simp] theorem Task.fly_loops (t : Task) (r : Result) : (t.fly r).loops = t.loops := rfl
@[simp] theorem Task.fly_sticky (t : Task) (r : Result) : (t.fly r).sticky = t.sticky := rfl
@[simp] theorem Task.fly_flow (t : Task) (r : Result) : (t.fly r).flow = t.flow := rfl
@[simp] theorem Task.fly_pc (t : Task) (r : Result) : (t.fly r).pc = t.pc := rfl
@[simp] theorem Task.fly_iter (t : Task) (r : Result) : (t.fly r).iter = t.iter := rfl
@[simp] theorem Task.fly_flight (t : Task) (r : Result) : (t.fly r).flight = insertDue { r with seq := t.seq } t.flight := rfl
@[simp] theorem Task.fly_pend (t : Task) (r : Result) : (t.fly r).pend = t.pend := rfl
@[simp] theorem Task.fly_shadow (t : Task) (r : Result) : (t.fly r).shadow = t.shadow := rfl
@[simp] theorem Task.fly_trapped (t : Task) (r : Result) : (t.fly r).trapped = t.trapped := rfl
@[simp] theorem Task.fly_faults (t : Task) (r : Result) : (t.fly r).faults = t.faults := rfl
@[simp] theorem Task.fly_ninth (t : Task) (r : Result) : (t.fly r).ninth = t.ninth := rfl
@[simp] theorem Task.fly_aperture (t : Task) (r : Result) : (t.fly r).aperture = t.aperture := rfl
@[simp] theorem Task.fly_recovery (t : Task) (r : Result) : (t.fly r).recovery = t.recovery := rfl
@[simp] theorem Task.fly_wins0 (t : Task) (r : Result) : (t.fly r).wins0 = t.wins0 := rfl
@[simp] theorem Task.fly_wins1 (t : Task) (r : Result) : (t.fly r).wins1 = t.wins1 := rfl
@[simp] theorem Task.fly_stated (t : Task) (r : Result) : (t.fly r).stated = t.stated := rfl
@[simp] theorem Task.fly_runStart (t : Task) (r : Result) : (t.fly r).runStart = t.runStart := rfl
@[simp] theorem Task.fly_arrived (t : Task) (r : Result) : (t.fly r).arrived = t.arrived := rfl
@[simp] theorem Task.fly_bars (t : Task) (r : Result) : (t.fly r).bars = t.bars := rfl
@[simp] theorem Task.fly_held (t : Task) (r : Result) : (t.fly r).held = t.held := rfl
@[simp] theorem Task.fly_traced (t : Task) (r : Result) : (t.fly r).traced = t.traced := rfl
@[simp] theorem Task.fly_recs (t : Task) (r : Result) : (t.fly r).recs = t.recs := rfl
@[simp] theorem Task.fly_recAll (t : Task) (r : Result) : (t.fly r).recAll = t.recAll := rfl
@[simp] theorem Task.fly_rerun (t : Task) (r : Result) : (t.fly r).rerun = t.rerun := rfl
@[simp] theorem Task.fly_flags (t : Task) (r : Result) : (t.fly r).flags = t.flags := rfl
@[simp] theorem Task.fly_told (t : Task) (r : Result) : (t.fly r).told = t.told := rfl
@[simp] theorem Task.fly_logs (t : Task) (r : Result) : (t.fly r).logs = t.logs := rfl
@[simp] theorem Task.fly_seq (t : Task) (r : Result) : (t.fly r).seq = t.seq + 1 := rfl
@[simp] theorem Task.fly_joined (t : Task) (r : Result) : (t.fly r).joined = t.joined := rfl

@[simp] theorem Task.pendOn_uid (t : Task) (p : Pend) : (t.pendOn p).uid = t.uid := rfl
@[simp] theorem Task.pendOn_lid (t : Task) (p : Pend) : (t.pendOn p).lid = t.lid := rfl
@[simp] theorem Task.pendOn_parent (t : Task) (p : Pend) : (t.pendOn p).parent = t.parent := rfl
@[simp] theorem Task.pendOn_spawnCtr (t : Task) (p : Pend) : (t.pendOn p).spawnCtr = t.spawnCtr := rfl
@[simp] theorem Task.pendOn_budget (t : Task) (p : Pend) : (t.pendOn p).budget = t.budget := rfl
@[simp] theorem Task.pendOn_regs (t : Task) (p : Pend) : (t.pendOn p).regs = t.regs := rfl
@[simp] theorem Task.pendOn_x (t : Task) (p : Pend) : (t.pendOn p).x = t.x := rfl
@[simp] theorem Task.pendOn_mat (t : Task) (p : Pend) : (t.pendOn p).mat = t.mat := rfl
@[simp] theorem Task.pendOn_bind (t : Task) (p : Pend) : (t.pendOn p).bind = t.bind := rfl
@[simp] theorem Task.pendOn_loops (t : Task) (p : Pend) : (t.pendOn p).loops = t.loops := rfl
@[simp] theorem Task.pendOn_sticky (t : Task) (p : Pend) : (t.pendOn p).sticky = t.sticky := rfl
@[simp] theorem Task.pendOn_flow (t : Task) (p : Pend) : (t.pendOn p).flow = t.flow := rfl
@[simp] theorem Task.pendOn_pc (t : Task) (p : Pend) : (t.pendOn p).pc = t.pc := rfl
@[simp] theorem Task.pendOn_iter (t : Task) (p : Pend) : (t.pendOn p).iter = t.iter := rfl
@[simp] theorem Task.pendOn_flight (t : Task) (p : Pend) : (t.pendOn p).flight = t.flight := rfl
@[simp] theorem Task.pendOn_pend (t : Task) (p : Pend) : (t.pendOn p).pend = t.pend ++ [{ p with seq := t.seq }] := rfl
@[simp] theorem Task.pendOn_shadow (t : Task) (p : Pend) : (t.pendOn p).shadow = t.shadow := rfl
@[simp] theorem Task.pendOn_trapped (t : Task) (p : Pend) : (t.pendOn p).trapped = t.trapped := rfl
@[simp] theorem Task.pendOn_faults (t : Task) (p : Pend) : (t.pendOn p).faults = t.faults := rfl
@[simp] theorem Task.pendOn_ninth (t : Task) (p : Pend) : (t.pendOn p).ninth = t.ninth := rfl
@[simp] theorem Task.pendOn_aperture (t : Task) (p : Pend) : (t.pendOn p).aperture = t.aperture := rfl
@[simp] theorem Task.pendOn_recovery (t : Task) (p : Pend) : (t.pendOn p).recovery = t.recovery := rfl
@[simp] theorem Task.pendOn_wins0 (t : Task) (p : Pend) : (t.pendOn p).wins0 = t.wins0 := rfl
@[simp] theorem Task.pendOn_wins1 (t : Task) (p : Pend) : (t.pendOn p).wins1 = t.wins1 := rfl
@[simp] theorem Task.pendOn_stated (t : Task) (p : Pend) : (t.pendOn p).stated = t.stated := rfl
@[simp] theorem Task.pendOn_runStart (t : Task) (p : Pend) : (t.pendOn p).runStart = t.runStart := rfl
@[simp] theorem Task.pendOn_arrived (t : Task) (p : Pend) : (t.pendOn p).arrived = t.arrived := rfl
@[simp] theorem Task.pendOn_bars (t : Task) (p : Pend) : (t.pendOn p).bars = t.bars := rfl
@[simp] theorem Task.pendOn_held (t : Task) (p : Pend) : (t.pendOn p).held = t.held := rfl
@[simp] theorem Task.pendOn_traced (t : Task) (p : Pend) : (t.pendOn p).traced = t.traced := rfl
@[simp] theorem Task.pendOn_recs (t : Task) (p : Pend) : (t.pendOn p).recs = t.recs := rfl
@[simp] theorem Task.pendOn_recAll (t : Task) (p : Pend) : (t.pendOn p).recAll = t.recAll := rfl
@[simp] theorem Task.pendOn_rerun (t : Task) (p : Pend) : (t.pendOn p).rerun = t.rerun := rfl
@[simp] theorem Task.pendOn_flags (t : Task) (p : Pend) : (t.pendOn p).flags = t.flags := rfl
@[simp] theorem Task.pendOn_told (t : Task) (p : Pend) : (t.pendOn p).told = t.told := rfl
@[simp] theorem Task.pendOn_logs (t : Task) (p : Pend) : (t.pendOn p).logs = t.logs := rfl
@[simp] theorem Task.pendOn_seq (t : Task) (p : Pend) : (t.pendOn p).seq = t.seq + 1 := rfl
@[simp] theorem Task.pendOn_joined (t : Task) (p : Pend) : (t.pendOn p).joined = t.joined := rfl

/-! ## Register files -/

@[simp] theorem Regs.setHreg_s (r : Regs) (n : Nat) (v : Handle) : (r.setHreg n v).s = r.s := rfl
@[simp] theorem Regs.setHreg_sp (r : Regs) (n : Nat) (v : Handle) : (r.setHreg n v).sp = r.sp := rfl
@[simp] theorem Regs.setHreg_p (r : Regs) (n : Nat) (v : Handle) : (r.setHreg n v).p = r.p := rfl
@[simp] theorem Regs.setHreg_q (r : Regs) (n : Nat) (v : Handle) : (r.setHreg n v).q = r.q := rfl
@[simp] theorem Regs.setHreg_qt (r : Regs) (n : Nat) (v : Handle) : (r.setHreg n v).qt = r.qt := rfl
@[simp] theorem Regs.setHreg_h (r : Regs) (n : Nat) (v : Handle) : (r.setHreg n v).h = SMap.set 0 r.h n v := rfl
@[simp] theorem Regs.setHreg_rows (r : Regs) (n : Nat) (v : Handle) : (r.setHreg n v).rows = r.rows := rfl
@[simp] theorem Regs.setHreg_ts (r : Regs) (n : Nat) (v : Handle) : (r.setHreg n v).ts = r.ts := rfl
@[simp] theorem Regs.setRow_s (r : Regs) (n : Nat) (v : RowCell) : (r.setRow n v).s = r.s := rfl
@[simp] theorem Regs.setRow_sp (r : Regs) (n : Nat) (v : RowCell) : (r.setRow n v).sp = r.sp := rfl
@[simp] theorem Regs.setRow_p (r : Regs) (n : Nat) (v : RowCell) : (r.setRow n v).p = r.p := rfl
@[simp] theorem Regs.setRow_q (r : Regs) (n : Nat) (v : RowCell) : (r.setRow n v).q = r.q := rfl
@[simp] theorem Regs.setRow_qt (r : Regs) (n : Nat) (v : RowCell) : (r.setRow n v).qt = r.qt := rfl
@[simp] theorem Regs.setRow_h (r : Regs) (n : Nat) (v : RowCell) : (r.setRow n v).h = r.h := rfl
@[simp] theorem Regs.setRow_rows (r : Regs) (n : Nat) (v : RowCell) : (r.setRow n v).rows = SMap.set RowCell.zero r.rows n v := rfl
@[simp] theorem Regs.setRow_ts (r : Regs) (n : Nat) (v : RowCell) : (r.setRow n v).ts = r.ts := rfl
@[simp] theorem Regs.setShape_s (r : Regs) (n : Nat) (v : Word) : (r.setShape n v).s = r.s := rfl
@[simp] theorem Regs.setShape_sp (r : Regs) (n : Nat) (v : Word) : (r.setShape n v).sp = r.sp := rfl
@[simp] theorem Regs.setShape_p (r : Regs) (n : Nat) (v : Word) : (r.setShape n v).p = r.p := rfl
@[simp] theorem Regs.setShape_q (r : Regs) (n : Nat) (v : Word) : (r.setShape n v).q = r.q := rfl
@[simp] theorem Regs.setShape_qt (r : Regs) (n : Nat) (v : Word) : (r.setShape n v).qt = r.qt := rfl
@[simp] theorem Regs.setShape_h (r : Regs) (n : Nat) (v : Word) : (r.setShape n v).h = r.h := rfl
@[simp] theorem Regs.setShape_rows (r : Regs) (n : Nat) (v : Word) : (r.setShape n v).rows = r.rows := rfl
@[simp] theorem Regs.setShape_ts (r : Regs) (n : Nat) (v : Word) : (r.setShape n v).ts = SMap.set 0 r.ts n v := rfl

@[simp] theorem Regs.setSreg_p (r : Regs) (n : Nat) (v : Word) (a : Option Nat) : (r.setSreg n v a).p = r.p := by unfold Regs.setSreg; split <;> rfl
@[simp] theorem Regs.setSreg_q (r : Regs) (n : Nat) (v : Word) (a : Option Nat) : (r.setSreg n v a).q = r.q := by unfold Regs.setSreg; split <;> rfl
@[simp] theorem Regs.setSreg_qt (r : Regs) (n : Nat) (v : Word) (a : Option Nat) : (r.setSreg n v a).qt = r.qt := by unfold Regs.setSreg; split <;> rfl
@[simp] theorem Regs.setSreg_h (r : Regs) (n : Nat) (v : Word) (a : Option Nat) : (r.setSreg n v a).h = r.h := by unfold Regs.setSreg; split <;> rfl
@[simp] theorem Regs.setSreg_rows (r : Regs) (n : Nat) (v : Word) (a : Option Nat) : (r.setSreg n v a).rows = r.rows := by unfold Regs.setSreg; split <;> rfl
@[simp] theorem Regs.setSreg_ts (r : Regs) (n : Nat) (v : Word) (a : Option Nat) : (r.setSreg n v a).ts = r.ts := by unfold Regs.setSreg; split <;> rfl
@[simp] theorem Regs.setPreg_s (r : Regs) (n : Nat) (b : Bool) : (r.setPreg n b).s = r.s := by unfold Regs.setPreg; split <;> rfl
@[simp] theorem Regs.setPreg_sp (r : Regs) (n : Nat) (b : Bool) : (r.setPreg n b).sp = r.sp := by unfold Regs.setPreg; split <;> rfl
@[simp] theorem Regs.setPreg_q (r : Regs) (n : Nat) (b : Bool) : (r.setPreg n b).q = r.q := by unfold Regs.setPreg; split <;> rfl
@[simp] theorem Regs.setPreg_qt (r : Regs) (n : Nat) (b : Bool) : (r.setPreg n b).qt = r.qt := by unfold Regs.setPreg; split <;> rfl
@[simp] theorem Regs.setPreg_h (r : Regs) (n : Nat) (b : Bool) : (r.setPreg n b).h = r.h := by unfold Regs.setPreg; split <;> rfl
@[simp] theorem Regs.setPreg_rows (r : Regs) (n : Nat) (b : Bool) : (r.setPreg n b).rows = r.rows := by unfold Regs.setPreg; split <;> rfl
@[simp] theorem Regs.setPreg_ts (r : Regs) (n : Nat) (b : Bool) : (r.setPreg n b).ts = r.ts := by unfold Regs.setPreg; split <;> rfl
@[simp] theorem Regs.setQreg_s (r : Regs) (n : Nat) (v : VMask) (b : Bool) : (r.setQreg n v b).s = r.s := by unfold Regs.setQreg; split <;> rfl
@[simp] theorem Regs.setQreg_sp (r : Regs) (n : Nat) (v : VMask) (b : Bool) : (r.setQreg n v b).sp = r.sp := by unfold Regs.setQreg; split <;> rfl
@[simp] theorem Regs.setQreg_p (r : Regs) (n : Nat) (v : VMask) (b : Bool) : (r.setQreg n v b).p = r.p := by unfold Regs.setQreg; split <;> rfl
@[simp] theorem Regs.setQreg_h (r : Regs) (n : Nat) (v : VMask) (b : Bool) : (r.setQreg n v b).h = r.h := by unfold Regs.setQreg; split <;> rfl
@[simp] theorem Regs.setQreg_rows (r : Regs) (n : Nat) (v : VMask) (b : Bool) : (r.setQreg n v b).rows = r.rows := by unfold Regs.setQreg; split <;> rfl
@[simp] theorem Regs.setQreg_ts (r : Regs) (n : Nat) (v : VMask) (b : Bool) : (r.setQreg n v b).ts = r.ts := by unfold Regs.setQreg; split <;> rfl

/-- S0 reads as zero (R7). -/
@[simp] theorem Regs.sreg_zero (r : Regs) : r.sreg 0 = 0 := rfl
/-- P0 reads as true (R9). -/
@[simp] theorem Regs.preg_zero (r : Regs) : r.preg 0 = true := rfl
/-- Q0 reads all ones (R100). -/
@[simp] theorem Regs.qreg_zero (r : Regs) : r.qreg 0 = BitVec.allOnes 256 := rfl
/-- Writes to S0, P0 and Q0 are discarded. -/
@[simp] theorem Regs.setSreg_zero (r : Regs) (v : Word) (a : Option Nat) : r.setSreg 0 v a = r := rfl
@[simp] theorem Regs.setPreg_zero (r : Regs) (b : Bool) : r.setPreg 0 b = r := rfl
@[simp] theorem Regs.setQreg_zero (r : Regs) (v : VMask) (b : Bool) : r.setQreg 0 v b = r := rfl

theorem Regs.sreg_setSreg_same (r : Regs) {n : Nat} (v : Word) (a : Option Nat) (h : n ≠ 0) : (r.setSreg n v a).sreg n = v := by
  simp [Regs.sreg, Regs.setSreg, h]

theorem Regs.sreg_setSreg_ne (r : Regs) {j n : Nat} (v : Word) (a : Option Nat) (h : j ≠ n) : (r.setSreg n v a).sreg j = r.sreg j := by
  unfold Regs.sreg Regs.setSreg
  split
  · rfl
  · split
    · rfl
    · exact SMap.get_set_ne 0 r.s v h

theorem Regs.qreg_setQreg_same (r : Regs) {n : Nat} (v : VMask) (b : Bool) (h : n ≠ 0) : (r.setQreg n v b).qreg n = v := by
  simp [Regs.qreg, Regs.setQreg, h]

theorem Regs.qreg_setQreg_ne (r : Regs) {j n : Nat} (v : VMask) (b : Bool) (h : j ≠ n) : (r.setQreg n v b).qreg j = r.qreg j := by
  unfold Regs.qreg Regs.setQreg
  split
  · rfl
  · split
    · rfl
    · exact SMap.get_set_ne 0 r.q v h

@[simp] theorem Regs.hreg_setHreg_same (r : Regs) (n : Nat) (v : Handle) : (r.setHreg n v).hreg n = v := SMap.get_set_same ..

theorem Regs.hreg_setHreg_ne (r : Regs) {j n : Nat} (v : Handle) (h : j ≠ n) : (r.setHreg n v).hreg j = r.hreg j :=
  SMap.get_set_ne _ _ _ h

@[simp] theorem Regs.row_setRow_same (r : Regs) (n : Nat) (v : RowCell) : (r.setRow n v).row n = v := SMap.get_set_same ..

theorem Regs.row_setRow_ne (r : Regs) {j n : Nat} (v : RowCell) (h : j ≠ n) : (r.setRow n v).row j = r.row j := SMap.get_set_ne _ _ _ h

@[simp] theorem Regs.shape_setShape_same (r : Regs) (n : Nat) (v : Word) : (r.setShape n v).shape n = v := SMap.get_set_same ..

theorem Regs.shape_setShape_ne (r : Regs) {j n : Nat} (v : Word) (h : j ≠ n) : (r.setShape n v).shape j = r.shape j :=
  SMap.get_set_ne _ _ _ h

end Sys2Proof.Machine
end

