-- ==== Sys2Proof/Laws/Issue.lean ====
section
/-! SUPPORT. What issuing a bundle that presents one operation does: the lemmas that a claim about an operation cites in place of
unfolding the issue. -/

namespace Sys2Proof.Machine

/-- Without a relaunch in progress nothing completes at the end of a step. -/
theorem finishRelaunches_settled {s : State} (h : s.settledWatches) : finishRelaunches s = s := by
  have : (s.watches.any fun (x : Nat × Watch) => x.2.run.isSome) = false := by
    rw [List.any_eq_false]
    intro e he
    have := List.all_eq_true.mp h e he
    simpa using this
  unfold finishRelaunches
  split
  · simp_all
  · rfl

/-- A slot without a syllable that has no previous operation, or may not re-issue, does not act. -/
theorem actOf_absent {h : Header} {ys : List Syl} {t : Task} {sl : Slot}
    (hy : (ys.find? fun y => y.slot == sl) = none) (ha : t.sticky = StickySet.quiet ∨ t.x.ste = false) :
    actOf h ys t sl = none := by
  unfold actOf
  rw [hy]
  rcases ha with hq | hs
  · simp only [hq]
    split
    · rfl
    · cases sl <;> rfl
  · simp [hs]

/-- In a bundle that presents one operation only that operation acts. -/
theorem acting_sole {sl : Slot} {i : Instr} {m : Mach} (h1 : m.t.iter = 0)
    (ha : m.t.sticky = StickySet.quiet ∨ m.t.x.ste = false) :
    acting (oneSlot sl) [⟨sl, ⟨false, 0⟩, i⟩] m.t = [sole sl i m] := by
  have hs : actOf (oneSlot sl) [⟨sl, ⟨false, 0⟩, i⟩] m.t sl = some (sole sl i m) := by
    simp [actOf, h1, sole]
  have hn : ∀ x, x ≠ sl → actOf (oneSlot sl) [⟨sl, ⟨false, 0⟩, i⟩] m.t x = none := by
    intro x hx
    refine actOf_absent ?_ ha
    simp [Ne.symm hx]
  unfold acting slots
  cases sl <;> simp only [List.filterMap_cons, List.filterMap_nil, hs, hn, ne_eq, reduceCtorEq, not_false_eq_true]

theorem guard_always (r : Regs) : r.guard ⟨false, 0⟩ = true := rfl

/-- What the operation of a bundle that may issue at once does is its own meaning. -/
theorem result_sole {sl : Slot} {i : Instr} {s : State} {m : Mach} (h : Ready sl i s m) :
    (sole sl i m).result m m.t.pc 2 = opSem ⟨m, m.t.pc, 2, true, capture0 m.t.regs i⟩ i := by
  unfold Acting.result
  rw [show (sole sl i m).op = i from rfl, h.fits, h.landed, h.free, h.clean]
  rfl

/-- The previous operations after a bundle that presented one operation. -/
theorem stickyAfter_sole (sl : Slot) (i : Instr) (m : Mach) (t : Task) :
    stickyAfter [sole sl i m] t false = StickySet.only sl ⟨⟨false, 0⟩, i, capture0 m.t.regs i⟩ := by
  cases sl <;> rfl

/-- Control after a bundle at whose end nothing is decided and no level ends. -/
theorem after_retire {m : Mach} {sl : Slot} (hf : m.t.flow = Flow.none) (hl : m.t.loops.straight m.t.pc) :
    m.after (oneSlot sl) 2 = m.retire := by
  have e0 : (m.t.loops.l0.active && m.t.loops.l0.le.toNat == m.t.pc) = false := by
    cases ha : m.t.loops.l0.active
    · rfl
    · have := hl.1 ha; simp [this]
  have e1 : (m.t.loops.l1.active && m.t.loops.l1.le.toNat == m.t.pc) = false := by
    cases ha : m.t.loops.l1.active
    · rfl
    · have := hl.2 ha; simp [this]
  have hb : m.t.loops.backEdge m.t.pc = (m.t.loops, none) := by
    unfold Loops.backEdge Loops.testOne
    cases m.t.loops.last1 <;> simp [Loops.level, e0, e1]
  unfold Mach.after Mach.retire Mach.leave
  simp [oneSlot, Mach.onC, Mach.onT, hf, Flow.none, Mach.transfer, hb]

/-- Control after a bundle that took a branch to `a`. -/
theorem after_jump {m : Mach} {sl : Slot} {a : Nat} (hf : m.t.flow = { Flow.none with jump := some a }) :
    m.after (oneSlot sl) 2 = m.leave a 3 := by
  unfold Mach.after Mach.leave
  simp [oneSlot, Mach.onC, Mach.onT, hf, Flow.none, Mach.transfer]

/-- A bundle's only effect. -/
theorem effects_sole (a : Acting) (f : Act) : effects [a] [.ok f] = [f] := by
  unfold effects
  cases h : isMovxw a.op <;> simp [List.filter, h, OpRes.act]

/-- What the core reads at issue of a bundle that may issue at once: the machine view before it, with results landed. -/
theorem Ready.before {sl : Slot} {i : Instr} {s : State} {m : Mach} (h : Ready sl i s m) :
    ∃ m0, s.mach s.cur = some m0 ∧ m0.view = m ∧ m0.Landed m := by
  obtain ⟨m0, hm0, rfl⟩ := Option.map_eq_some_iff.mp h.mach
  exact ⟨m0, hm0, rfl, m0.view_landed⟩

theorem Mach.Landed.pc {m n : Mach} (h : m.Landed n) : n.t.pc = m.t.pc := by
  obtain ⟨_, _, _, _, _, _, _, _, h⟩ := h
  rw [h]

/-- A bundle whose effect adds at most one load and one store stays within the limits of a core that has room (R242). -/
theorem overLimit_of_room {v done : Mach} (hr : v.t.loadCount < 128 ∧ v.c.storeCount < 128)
    (hl : done.t.loadCount ≤ v.t.loadCount + 1) (hs : done.c.storeCount ≤ v.c.storeCount + 1) : overLimit v done = false := by
  unfold overLimit
  have h1 : ¬ 128 < done.t.loadCount := by omega
  have h2 : ¬ 128 < done.c.storeCount := by omega
  simp [h1, h2]

/-- A bundle that presents one operation, neither a wait nor ERET, that may issue at once: it takes effect. -/
theorem issueOne_go {sl : Slot} {i : Instr} {s : State} {m : Mach} {f : Act} (h : Ready sl i s m)
    (hw : isWait i = false) (he : isEret i = false)
    (hok : opSem ⟨m, m.t.pc, 2, true, capture0 m.t.regs i⟩ i = .ok f) (hn : overLimit m (f (m.present sl i)) = false) :
    issueOne sl i s = .next (finishRelaunches ((f (m.present sl i)).after (oneSlot sl) 2)) := by
  obtain ⟨m0, hm0, hv, hl⟩ := h.before
  have ha : acting (oneSlot sl) [⟨sl, ⟨false, 0⟩, i⟩] m.t = [sole sl i m] := acting_sole h.first h.alone
  have hr := result_sole h
  unfold issueOne issue answer
  rw [hm0]
  simp only [Option.map_some]
  unfold issueMach
  simp only [hv, ha, ← hl.pc]
  have hq : acquired m m.t.pc 2 [sole sl i m] = m := by simp [acquired, sole, hw]
  have hs : results m m m.t.pc 2 [sole sl i m] = [.ok f] := by
    have hw' : isWait (sole sl i m).op = false := hw
    simp only [results, List.map]
    rw [hr, hok]
    simp [hw']
  have hb : (staticCheck m.t.budget (sole sl i m).op).isSome = false := by
    have : staticCheck m.t.budget (sole sl i m).op = none := h.fits
    rw [this]; rfl
  have he1 : ([⟨sl, ⟨false, 0⟩, i⟩] : List Syl).any (fun y => isEret y.op) = false := by simp [he]
  have he2 : returns [sole sl i m] m.t = false := by simp [returns, sole, he]
  have hv2 : verdict ([sole sl i m].any fun a => (staticCheck m.t.budget a.op).isSome) [.ok f] = .go := by
    simp [verdict, hb, OpRes.hold?, OpRes.last?, OpRes.illInfo?, OpRes.trap?]
  have hc : commit [sole sl i m] [.ok f] false m = f (m.present sl i) := by
    unfold commit Mach.present
    rw [stickyAfter_sole, effects_sole]
    rfl
  have hlen : 1 + ([⟨sl, ⟨false, 0⟩, i⟩] : List Syl).length = 2 := rfl
  rw [hlen, hq, hs, hv2, he1, he2, hc]
  simp only [hn]
  rfl

/-- The same, of an operation that leaves control alone and no relaunch running: it completes. -/
theorem issueOne_completes {sl : Slot} {i : Instr} {s : State} {m : Mach} {f : Act} (h : Ready sl i s m)
    (hw : isWait i = false) (he : isEret i = false)
    (hok : opSem ⟨m, m.t.pc, 2, true, capture0 m.t.regs i⟩ i = .ok f) (hn : overLimit m (f (m.present sl i)) = false)
    (hf : (f (m.present sl i)).t.flow = Flow.none)
    (hp : (f (m.present sl i)).t.loops.straight (f (m.present sl i)).t.pc)
    (hr : ((f (m.present sl i)).retire).settledWatches) :
    issueOne sl i s = .next (f (m.present sl i)).retire := by
  rw [issueOne_go h hw he hok hn, after_retire hf hp, finishRelaunches_settled hr]

/-- No relaunch runs in what the bundle reads either. -/
theorem Ready.watches {sl : Slot} {i : Instr} {s : State} {m : Mach} (h : Ready sl i s m) : m.s.settledWatches := by
  obtain ⟨m0, hm0, rfl, ha, _⟩ := h.before
  unfold State.mach at hm0
  obtain ⟨t, _, rfl⟩ := Option.map_eq_some_iff.mp hm0
  rw [ha]
  exact h.settled

/-- An operation whose effect is on the registers and tables of its own task alone completes. -/
theorem issueOne_task {sl : Slot} {i : Instr} {s : State} {m : Mach} {g : Task → Task} (h : Ready sl i s m)
    (hw : isWait i = false) (he : isEret i = false)
    (hok : opSem ⟨m, m.t.pc, 2, true, capture0 m.t.regs i⟩ i = .ok fun n => n.onT g)
    (hg : ∀ t, (g t).flow = t.flow ∧ (g t).loops = t.loops ∧ (g t).pc = t.pc ∧ (g t).loadCount ≤ t.loadCount + 1) :
    issueOne sl i s = .next ((m.present sl i).onT g).retire := by
  refine issueOne_completes h hw he hok (overLimit_of_room h.room (hg _).2.2.2 (Nat.le_succ _)) ?_ ?_ ?_
  · exact (hg _).1.trans h.fresh
  · have := hg (m.present sl i).t
    show Loops.straight (g (m.present sl i).t).loops (g (m.present sl i).t).pc
    rw [this.2.1, this.2.2.1]
    exact h.straight
  · exact h.watches

/-! ## Traps -/

/-- What the entry of a delivered trap does to the task (R321). -/
theorem Task.enter_entered (u : Task) (cyc cause : Nat) (info : Word) (pc iter : Nat) (hp : pc = (u.landFlight cyc).pc)
    (hi : iter = (u.landFlight cyc).iter) (held : Option (Nat × WaitRec)) :
    (u.landFlight cyc).Entered { u.enter cyc cause info TrapKind.precise pc iter with held := held } cyc cause info := by
  have hc : capture cyc (u.landFlight cyc).flight = (u.landFlight cyc).flight.map fun r => { r with due := r.due - cyc } := by
    unfold capture
    congr 1
    unfold Task.landFlight Task.landIf
    rw [List.filter_filter]
    congr 1
    funext r
    by_cases h : cyc ≤ r.due
    · simp [h, Nat.not_lt.mpr h]
    · simp [h, Nat.lt_of_not_le h]
  subst hp hi
  constructor <;> first | rfl | exact ⟨rfl, rfl⟩ | exact ⟨rfl, rfl, rfl, rfl⟩ | exact ⟨rfl, hc⟩ | skip
  exact ⟨rfl, rfl, rfl, rfl, rfl, rfl⟩

theorem Task.Landed.iter {t u : Task} (h : t.Landed u) : u.iter = t.iter := by
  obtain ⟨_, _, _, _, _, _, rfl⟩ := h
  rfl
theorem Task.Landed.pc {t u : Task} (h : t.Landed u) : u.pc = t.pc := by
  obtain ⟨_, _, _, _, _, _, rfl⟩ := h
  rfl

/-- A trap that is neither ECC_UNCORR nor DIGEST_MISMATCH, raised by the bundle, is delivered. -/
theorem takeTrap_delivers {m : Mach} {cause : Nat} {info : Word} (h1 : m.t.x.sv = false) (h2 : m.t.x.tvec ≠ 0)
    (hd : cause ≠ Cause.digestMismatch) :
    ∃ c t, takeTrap m cause info TrapKind.precise m.t.pc m.t.iter =
        { m.s with cores := SMap.put m.s.cores m.s.cur c } ∧ c.task = some t ∧
      (m.t.landFlight m.s.cyc).Entered t m.s.cyc cause info ∧ c.ready = m.s.cyc + 3 ∧ c.stores = m.c.stores ∧
      c.steps = m.c.steps ∧ c.mops = m.c.mops ∧ c.cq0 = m.c.cq0 ∧ c.cq1 = m.c.cq1 := by
  refine ⟨{ m.c with
      fence := m.c.fence.filter Fence.isTlbi, ready := m.s.cyc + 3, reach := none, mdup := none, fifoWait := none, wait := none, walk := none
      walkBad := none, ended := false, task := some _ },
    { m.t.enter m.s.cyc cause info TrapKind.precise m.t.pc m.t.iter with
      held := match m.c.wait with
        | some w => if w.isBarg then some (m.t.pc, w) else none
        | none => none }, ?_, rfl,
    Task.enter_entered _ _ _ _ _ _ (m.t.landFlight_landed m.s.cyc).pc.symm (m.t.landFlight_landed m.s.cyc).iter.symm _,
    rfl, rfl, rfl, rfl, rfl, rfl⟩
  unfold takeTrap
  rw [if_neg (fun h => h.elim h2 (fun h => by simp [h1] at h)), if_neg hd]
  rfl

/-- The one that moves is core `s.cur`, of the same machine. -/
theorem mach_cur {s : State} {m : Mach} (h : s.mach s.cur = some m) : m.s = s ∧ m.c = s.core s.cur ∧ (s.core s.cur).task = some m.t := by
  unfold State.mach at h
  obtain ⟨t, ht, rfl⟩ := Option.map_eq_some_iff.mp h
  exact ⟨rfl, rfl, ht⟩

/-- A bundle whose verdict is a trap that is delivered: the trap is delivered. -/
theorem issueOne_verdict {sl : Slot} {i : Instr} {s : State} {m0 : Mach} {cause : Nat} {info : Word}
    (hm : s.mach s.cur = some m0) (hs : s.settledWatches) (hc : s.catches) (he : exec i s = issueOne sl i s)
    (hd : cause ≠ Cause.digestMismatch) (hx : cause ≠ Cause.eccUncorr)
    (hv : verdict ((acting (oneSlot sl) [⟨sl, ⟨false, 0⟩, i⟩] m0.view.t).any fun a => (staticCheck m0.view.t.budget a.op).isSome)
      (results m0.view (acquired m0.view m0.t.pc 2 (acting (oneSlot sl) [⟨sl, ⟨false, 0⟩, i⟩] m0.view.t)) m0.t.pc 2
        (acting (oneSlot sl) [⟨sl, ⟨false, 0⟩, i⟩] m0.view.t)) = .trap cause info) : Delivers i s cause info := by
  obtain ⟨hms, hmc, hmt⟩ := mach_cur hm
  obtain ⟨t, ht, h1, h2⟩ := hc
  rw [hmt] at ht
  cases ht
  obtain ⟨c, t, hk, rest⟩ := takeTrap_delivers (cause := cause) (info := info) h1 h2 hd
  rw [hms] at hk rest
  refine ⟨m0, c, t, hm, ?_, rest⟩
  rw [he]
  unfold issueOne issue answer
  rw [hm]
  simp only [Option.map_some]
  unfold issueMach
  simp only [show 1 + ([⟨sl, ⟨false, 0⟩, i⟩] : List Syl).length = 2 from rfl, hv, if_neg hx, hk]
  rw [finishRelaunches_settled]
  exact hs

/-- An operation that may issue at once and traps: the trap is delivered. -/
theorem issueOne_delivers {sl : Slot} {i : Instr} {s : State} {m : Mach} {cause : Nat} {info : Word} (h : Ready sl i s m)
    (hc : s.catches) (he : exec i s = issueOne sl i s) (hd : cause ≠ Cause.digestMismatch) (hx : cause ≠ Cause.eccUncorr)
    (hok : opSem ⟨m, m.t.pc, 2, true, capture0 m.t.regs i⟩ i = .trap cause info) : Delivers i s cause info := by
  obtain ⟨m0, hm0, hv, hl⟩ := h.before
  have ha : acting (oneSlot sl) [⟨sl, ⟨false, 0⟩, i⟩] m.t = [sole sl i m] := acting_sole h.first h.alone
  have hr := result_sole h
  have hb : (staticCheck m.t.budget (sole sl i m).op).isSome = false := by
    have : staticCheck m.t.budget (sole sl i m).op = none := h.fits
    rw [this]; rfl
  refine issueOne_verdict hm0 h.settled hc he hd hx ?_
  rw [hv, ha, ← hl.pc]
  have hq : acquired m m.t.pc 2 [sole sl i m] = m := by
    simp only [acquired, List.find?]
    cases hw : isWait (sole sl i m).op
    · rfl
    · simp only [hr, hok]
      rfl
  have hs : results m m m.t.pc 2 [sole sl i m] = [.trap cause info] := by
    simp only [results, List.map]
    rw [hr, hok]
    simp
  rw [hq, hs]
  by_cases hi : cause = Cause.illOperand
  · subst hi
    simp [verdict, hb, OpRes.hold?, OpRes.last?, OpRes.illInfo?]
  · simp [verdict, hb, OpRes.hold?, OpRes.last?, OpRes.illInfo?, OpRes.trap?, hi]

/-- An operation whose registers fail a check: ILL_OPERAND is delivered, whatever the registers hold. -/
theorem issueOne_illOperand {sl : Slot} {i : Instr} {s : State} {m : Mach} {w : Word}
    (hm : (s.mach s.cur).map Mach.view = some m) (h1 : m.t.iter = 0) (ha : m.t.sticky = StickySet.quiet ∨ m.t.x.ste = false)
    (hs : s.settledWatches) (hc : s.catches) (he : exec i s = issueOne sl i s) (hk : staticCheck m.t.budget i = some w) :
    Delivers i s Cause.illOperand w := by
  obtain ⟨m0, hm0, rfl⟩ := Option.map_eq_some_iff.mp hm
  refine issueOne_verdict hm0 hs hc he (by decide) (by decide) ?_
  rw [acting_sole h1 ha]
  have hr : ∀ n : Nat, (sole sl i m0.view).result m0.view n 2 = .trap Cause.illOperand w := by
    intro n
    unfold Acting.result
    rw [show (sole sl i m0.view).op = i from rfl, hk]
  have hq : acquired m0.view m0.t.pc 2 [sole sl i m0.view] = m0.view := by
    simp only [acquired, List.find?]
    cases hw : isWait (sole sl i m0.view).op
    · rfl
    · simp only [hr]
      rfl
  have hz : results m0.view m0.view m0.t.pc 2 [sole sl i m0.view] = [.trap Cause.illOperand w] := by
    simp only [results, List.map]
    rw [hr]
    simp
  rw [hq, hz]
  have hb : (staticCheck m0.view.t.budget (sole sl i m0.view).op).isSome = true := by
    have : staticCheck m0.view.t.budget (sole sl i m0.view).op = some w := hk
    rw [this]; rfl
  simp [verdict, hb, OpRes.illInfo?]

/-! ## Completion -/

/-- What a bundle reads at issue is of the same machine in the same cycle. -/
theorem Ready.cyc {sl : Slot} {i : Instr} {s : State} {m : Mach} (h : Ready sl i s m) : m.s.cyc = s.cyc := by
  obtain ⟨m0, hm, _, ha, _⟩ := h.before
  rw [ha, (mach_cur hm).1]

theorem Ready.cur {sl : Slot} {i : Instr} {s : State} {m : Mach} (h : Ready sl i s m) : m.s.cur = s.cur := by
  obtain ⟨m0, hm, _, ha, _⟩ := h.before
  rw [ha, (mach_cur hm).1]

/-- A task that catches traps runs in user mode. -/
theorem Ready.user {sl : Slot} {i : Instr} {s : State} {m : Mach} (hc : s.catches) (h : Ready sl i s m) : m.t.x.sv = false := by
  obtain ⟨m0, hm, _, _, _, _, _, _, _, _, _, hl⟩ := h.before
  obtain ⟨t, ht, h1, _⟩ := hc
  rw [(mach_cur hm).2.2] at ht
  cases ht
  rw [hl]
  exact h1

/-- An effect leaves control to the end of the bundle: it decides no transfer, moves no pc and no level, starts no relaunch, and
adds at most one load and one store. -/
def Act.calm (f : Act) (m : Mach) : Prop :=
  (f m).t.flow = m.t.flow ∧ (f m).t.loops = m.t.loops ∧ (f m).t.pc = m.t.pc ∧
    (m.s.settledWatches → (f m).s.settledWatches) ∧ (f m).s.cur = m.s.cur ∧
    (f m).t.loadCount ≤ m.t.loadCount + 1 ∧ (f m).c.storeCount ≤ m.c.storeCount + 1

/-- An operation that may issue, does not wait and does not return, and leaves control to the end of the bundle: it
completes. -/
theorem Ready.completes {sl : Slot} {i : Instr} {s : State} {m : Mach} {f : Act} (h : Ready sl i s m)
    (hx : exec i s = issueOne sl i s) (hw : isWait i = false) (he : isEret i = false)
    (hok : opSem ⟨m, m.t.pc, 2, true, capture0 m.t.regs i⟩ i = .ok f) (hf : f.calm (m.present sl i)) : Completes sl i s m f := by
  unfold Completes
  rw [hx]
  refine issueOne_completes h hw he hok (overLimit_of_room h.room hf.2.2.2.2.2.1 hf.2.2.2.2.2.2) (hf.1.trans h.fresh) ?_ ?_
  · rw [hf.2.1, hf.2.2.1]
    exact h.straight
  · exact hf.2.2.2.1 h.watches

/-- The same, said of what holds when its effect is made. -/
theorem Ready.finishes {sl : Slot} {i : Instr} {s : State} {m : Mach} {f : Act} {P : Mach → Prop} (h : Ready sl i s m)
    (hx : exec i s = issueOne sl i s) (hw : isWait i = false) (he : isEret i = false)
    (hok : opSem ⟨m, m.t.pc, 2, true, capture0 m.t.regs i⟩ i = .ok f) (hf : f.calm (m.present sl i)) (hp : P (f (m.present sl i))) :
    Finishes i s m P :=
  ⟨_, h.completes hx hw he hok hf, hf.2.2.1, by rw [hf.2.2.2.2.1]; exact h.cur, hp⟩

/-- An event that may happen, with no relaunch running after it, happens. -/
theorem answer_some {t : State} (h : t.settledWatches) : answer (some t) = .next t := by
  show Host.Outcome.next (finishRelaunches t) = _
  rw [finishRelaunches_settled h]

end Sys2Proof.Machine
end

