-- ==== Sys2Proof/Laws/OpSem.lean ====
section
/-! SUPPORT. The meaning of each slot operation, and the slot in which its execution issues it, one equation each: what a claim
about an operation cites in place of unfolding the choice among all of them. -/

namespace Sys2Proof.Machine

@[simp] theorem opSem_add {d a b} (x : Ctx) : opSem x (.add d a b) = semAdd x d a b := rfl
theorem exec_add {d a b} (s : State) : exec (.add d a b) s = issueOne .s (.add d a b) s := rfl
@[simp] theorem opSem_sub {d a b} (x : Ctx) : opSem x (.sub d a b) = semSub x d a b := rfl
theorem exec_sub {d a b} (s : State) : exec (.sub d a b) s = issueOne .s (.sub d a b) s := rfl
@[simp] theorem opSem_and {d a b} (x : Ctx) : opSem x (.and d a b) = semAnd x d a b := rfl
theorem exec_and {d a b} (s : State) : exec (.and d a b) s = issueOne .s (.and d a b) s := rfl
@[simp] theorem opSem_or {d a b} (x : Ctx) : opSem x (.or d a b) = semOr x d a b := rfl
theorem exec_or {d a b} (s : State) : exec (.or d a b) s = issueOne .s (.or d a b) s := rfl
@[simp] theorem opSem_xor {d a b} (x : Ctx) : opSem x (.xor d a b) = semXor x d a b := rfl
theorem exec_xor {d a b} (s : State) : exec (.xor d a b) s = issueOne .s (.xor d a b) s := rfl
@[simp] theorem opSem_shl {d a b} (x : Ctx) : opSem x (.shl d a b) = semShl x d a b := rfl
theorem exec_shl {d a b} (s : State) : exec (.shl d a b) s = issueOne .s (.shl d a b) s := rfl
@[simp] theorem opSem_shr {d a b} (x : Ctx) : opSem x (.shr d a b) = semShr x d a b := rfl
theorem exec_shr {d a b} (s : State) : exec (.shr d a b) s = issueOne .s (.shr d a b) s := rfl
@[simp] theorem opSem_sra {d a b} (x : Ctx) : opSem x (.sra d a b) = semSra x d a b := rfl
theorem exec_sra {d a b} (s : State) : exec (.sra d a b) s = issueOne .s (.sra d a b) s := rfl
@[simp] theorem opSem_mul {d a b} (x : Ctx) : opSem x (.mul d a b) = semMul x d a b := rfl
theorem exec_mul {d a b} (s : State) : exec (.mul d a b) s = issueOne .s (.mul d a b) s := rfl
@[simp] theorem opSem_mulh {u d a b} (x : Ctx) : opSem x (.mulh u d a b) = semMulh x u d a b := rfl
theorem exec_mulh {u d a b} (s : State) : exec (.mulh u d a b) s = issueOne .s (.mulh u d a b) s := rfl
@[simp] theorem opSem_div {u d a b} (x : Ctx) : opSem x (.div u d a b) = semDiv x u d a b := rfl
theorem exec_div {u d a b} (s : State) : exec (.div u d a b) s = issueOne .s (.div u d a b) s := rfl
@[simp] theorem opSem_rem {u d a b} (x : Ctx) : opSem x (.rem u d a b) = semRem x u d a b := rfl
theorem exec_rem {u d a b} (s : State) : exec (.rem u d a b) s = issueOne .s (.rem u d a b) s := rfl
@[simp] theorem opSem_min {u d a b} (x : Ctx) : opSem x (.min u d a b) = semMin x u d a b := rfl
theorem exec_min {u d a b} (s : State) : exec (.min u d a b) s = issueOne .s (.min u d a b) s := rfl
@[simp] theorem opSem_max {u d a b} (x : Ctx) : opSem x (.max u d a b) = semMax x u d a b := rfl
theorem exec_max {u d a b} (s : State) : exec (.max u d a b) s = issueOne .s (.max u d a b) s := rfl
@[simp] theorem opSem_clz {d a} (x : Ctx) : opSem x (.clz d a) = semClz x d a := rfl
theorem exec_clz {d a} (s : State) : exec (.clz d a) s = issueOne .s (.clz d a) s := rfl
@[simp] theorem opSem_popc {d a} (x : Ctx) : opSem x (.popc d a) = semPopc x d a := rfl
theorem exec_popc {d a} (s : State) : exec (.popc d a) s = issueOne .s (.popc d a) s := rfl
@[simp] theorem opSem_bext {d a b} (x : Ctx) : opSem x (.bext d a b) = semBext x d a b := rfl
theorem exec_bext {d a b} (s : State) : exec (.bext d a b) s = issueOne .s (.bext d a b) s := rfl
@[simp] theorem opSem_bins {d a b} (x : Ctx) : opSem x (.bins d a b) = semBins x d a b := rfl
theorem exec_bins {d a b} (s : State) : exec (.bins d a b) s = issueOne .s (.bins d a b) s := rfl
@[simp] theorem opSem_ldih {d n} (x : Ctx) : opSem x (.ldih d n) = semLdih x d n := rfl
theorem exec_ldih {d n} (s : State) : exec (.ldih d n) s = issueOne .s (.ldih d n) s := rfl
@[simp] theorem opSem_addi {d a n} (x : Ctx) : opSem x (.addi d a n) = semAddi x d a n := rfl
theorem exec_addi {d a n} (s : State) : exec (.addi d a n) s = issueOne .s (.addi d a n) s := rfl
@[simp] theorem opSem_andi {d a n} (x : Ctx) : opSem x (.andi d a n) = semAndi x d a n := rfl
theorem exec_andi {d a n} (s : State) : exec (.andi d a n) s = issueOne .s (.andi d a n) s := rfl
@[simp] theorem opSem_ori {d a n} (x : Ctx) : opSem x (.ori d a n) = semOri x d a n := rfl
theorem exec_ori {d a n} (s : State) : exec (.ori d a n) s = issueOne .s (.ori d a n) s := rfl
@[simp] theorem opSem_xori {d a n} (x : Ctx) : opSem x (.xori d a n) = semXori x d a n := rfl
theorem exec_xori {d a n} (s : State) : exec (.xori d a n) s = issueOne .s (.xori d a n) s := rfl
@[simp] theorem opSem_shli {d a n} (x : Ctx) : opSem x (.shli d a n) = semShli x d a n := rfl
theorem exec_shli {d a n} (s : State) : exec (.shli d a n) s = issueOne .s (.shli d a n) s := rfl
@[simp] theorem opSem_shri {d a n} (x : Ctx) : opSem x (.shri d a n) = semShri x d a n := rfl
theorem exec_shri {d a n} (s : State) : exec (.shri d a n) s = issueOne .s (.shri d a n) s := rfl
@[simp] theorem opSem_srai {d a n} (x : Ctx) : opSem x (.srai d a n) = semSrai x d a n := rfl
theorem exec_srai {d a n} (s : State) : exec (.srai d a n) s = issueOne .s (.srai d a n) s := rfl
@[simp] theorem opSem_ldi {d n} (x : Ctx) : opSem x (.ldi d n) = semLdi x d n := rfl
theorem exec_ldi {d n} (s : State) : exec (.ldi d n) s = issueOne .s (.ldi d n) s := rfl
@[simp] theorem opSem_cmp {c d a b} (x : Ctx) : opSem x (.cmp c d a b) = semCmp x c d a b := rfl
theorem exec_cmp {c d a b} (s : State) : exec (.cmp c d a b) s = issueOne .s (.cmp c d a b) s := rfl
@[simp] theorem opSem_cmpi {c d a n} (x : Ctx) : opSem x (.cmpi c d a n) = semCmpi x c d a n := rfl
theorem exec_cmpi {c d a n} (s : State) : exec (.cmpi c d a n) s = issueOne .s (.cmpi c d a n) s := rfl
@[simp] theorem opSem_sel {d a b p n} (x : Ctx) : opSem x (.sel d a b p n) = semSel x d a b p n := rfl
theorem exec_sel {d a b p n} (s : State) : exec (.sel d a b p n) s = issueOne .s (.sel d a b p n) s := rfl
@[simp] theorem opSem_plog {o d a b} (x : Ctx) : opSem x (.plog o d a b) = semPlog x o d a b := rfl
theorem exec_plog {o d a b} (s : State) : exec (.plog o d a b) s = issueOne .s (.plog o d a b) s := rfl
@[simp] theorem opSem_ld {z d a r o} (x : Ctx) : opSem x (.ld z d a r o) = semLd x z d a r o := rfl
theorem exec_ld {z d a r o} (s : State) : exec (.ld z d a r o) s = issueOne .s (.ld z d a r o) s := rfl
@[simp] theorem opSem_st {z d a o} (x : Ctx) : opSem x (.st z d a o) = semSt x z d a o := rfl
theorem exec_st {z d a o} (s : State) : exec (.st z d a o) s = issueOne .s (.st z d a o) s := rfl
@[simp] theorem opSem_ldp {d a r o} (x : Ctx) : opSem x (.ldp d a r o) = semLdp x d a r o := rfl
theorem exec_ldp {d a r o} (s : State) : exec (.ldp d a r o) s = issueOne .s (.ldp d a r o) s := rfl
@[simp] theorem opSem_stp {d a o} (x : Ctx) : opSem x (.stp d a o) = semStp x d a o := rfl
theorem exec_stp {d a o} (s : State) : exec (.stp d a o) s = issueOne .s (.stp d a o) s := rfl
@[simp] theorem opSem_ldc {z d a o} (x : Ctx) : opSem x (.ldc z d a o) = semLdc x z d a o := rfl
theorem exec_ldc {z d a o} (s : State) : exec (.ldc z d a o) s = issueOne .s (.ldc z d a o) s := rfl
@[simp] theorem opSem_br {d} (x : Ctx) : opSem x (.br d) = semBr x d := rfl
theorem exec_br {d} (s : State) : exec (.br d) s = issueOne .s (.br d) s := rfl
@[simp] theorem opSem_bri {a} (x : Ctx) : opSem x (.bri a) = semBri x a := rfl
theorem exec_bri {a} (s : State) : exec (.bri a) s = issueOne .s (.bri a) s := rfl
@[simp] theorem opSem_call {d} (x : Ctx) : opSem x (.call d) = semCall x d := rfl
theorem exec_call {d} (s : State) : exec (.call d) s = issueOne .s (.call d) s := rfl
@[simp] theorem opSem_calli {a} (x : Ctx) : opSem x (.calli a) = semCalli x a := rfl
theorem exec_calli {a} (s : State) : exec (.calli a) s = issueOne .s (.calli a) s := rfl
@[simp] theorem opSem_ret (x : Ctx) : opSem x .ret = semRet x := rfl
theorem exec_ret (s : State) : exec .ret s = issueOne .s .ret s := rfl
@[simp] theorem opSem_loop {l d c} (x : Ctx) : opSem x (.loop l d c) = semLoop x l d c := rfl
theorem exec_loop {l d c} (s : State) : exec (.loop l d c) s = issueOne .s (.loop l d c) s := rfl
@[simp] theorem opSem_loopi {l d n} (x : Ctx) : opSem x (.loopi l d n) = semLoopi x l d n := rfl
theorem exec_loopi {l d n} (s : State) : exec (.loopi l d n) s = issueOne .s (.loopi l d n) s := rfl
@[simp] theorem opSem_movx {d n} (x : Ctx) : opSem x (.movx d n) = semMovx x d n := rfl
theorem exec_movx {d n} (s : State) : exec (.movx d n) s = issueOne .s (.movx d n) s := rfl
@[simp] theorem opSem_movxw {n a} (x : Ctx) : opSem x (.movxw n a) = semMovxw x n a := rfl
theorem exec_movxw {n a} (s : State) : exec (.movxw n a) s = issueOne .s (.movxw n a) s := rfl
@[simp] theorem opSem_hmov {h g} (x : Ctx) : opSem x (.hmov h g) = semHmov x h g := rfl
theorem exec_hmov {h g} (s : State) : exec (.hmov h g) s = issueOne .s (.hmov h g) s := rfl
@[simp] theorem opSem_hget {d h w} (x : Ctx) : opSem x (.hget d h w) = semHget x d h w := rfl
theorem exec_hget {d h w} (s : State) : exec (.hget d h w) s = issueOne .s (.hget d h w) s := rfl
@[simp] theorem opSem_hset {h w a} (x : Ctx) : opSem x (.hset h w a) = semHset x h w a := rfl
theorem exec_hset {h w a} (s : State) : exec (.hset h w a) s = issueOne .s (.hset h w a) s := rfl
@[simp] theorem opSem_hadv {h d a} (x : Ctx) : opSem x (.hadv h d a) = semHadv x h d a := rfl
theorem exec_hadv {h d a} (s : State) : exec (.hadv h d a) s = issueOne .s (.hadv h d a) s := rfl
@[simp] theorem opSem_tshape {t f r c} (x : Ctx) : opSem x (.tshape t f r c) = semTshape x t f r c := rfl
theorem exec_tshape {t f r c} (s : State) : exec (.tshape t f r c) s = issueOne .s (.tshape t f r c) s := rfl
@[simp] theorem opSem_tidw {h a} (x : Ctx) : opSem x (.tidw h a) = semTidw x h a := rfl
theorem exec_tidw {h a} (s : State) : exec (.tidw h a) s = issueOne .s (.tidw h a) s := rfl
@[simp] theorem opSem_tidr {h a} (x : Ctx) : opSem x (.tidr h a) = semTidr x h a := rfl
theorem exec_tidr {h a} (s : State) : exec (.tidr h a) s = issueOne .s (.tidr h a) s := rfl
@[simp] theorem opSem_tidi {a} (x : Ctx) : opSem x (.tidi a) = semTidi x a := rfl
theorem exec_tidi {a} (s : State) : exec (.tidi a) s = issueOne .s (.tidi a) s := rfl
@[simp] theorem opSem_amo {o d a b} (x : Ctx) : opSem x (.amo o d a b) = semAmo x o d a b := rfl
theorem exec_amo {o d a b} (s : State) : exec (.amo o d a b) s = issueOne .s (.amo o d a b) s := rfl
@[simp] theorem opSem_cas {d a b} (x : Ctx) : opSem x (.cas d a b) = semCas x d a b := rfl
theorem exec_cas {d a b} (s : State) : exec (.cas d a b) s = issueOne .s (.cas d a b) s := rfl
@[simp] theorem opSem_cas2 {d a b} (x : Ctx) : opSem x (.cas2 d a b) = semCas2 x d a b := rfl
theorem exec_cas2 {d a b} (s : State) : exec (.cas2 d a b) s = issueOne .s (.cas2 d a b) s := rfl
@[simp] theorem opSem_trap {n} (x : Ctx) : opSem x (.trap n) = semTrap x n := rfl
theorem exec_trap {n} (s : State) : exec (.trap n) s = issueOne .s (.trap n) s := rfl
@[simp] theorem opSem_sysc {n} (x : Ctx) : opSem x (.sysc n) = semSysc x n := rfl
theorem exec_sysc {n} (s : State) : exec (.sysc n) s = issueOne .s (.sysc n) s := rfl
@[simp] theorem opSem_eret (x : Ctx) : opSem x .eret = semEret x := rfl
theorem exec_eret (s : State) : exec .eret s = issueOne .s .eret s := rfl
@[simp] theorem opSem_tlbi {f a} (x : Ctx) : opSem x (.tlbi f a) = semTlbi x f a := rfl
theorem exec_tlbi {f a} (s : State) : exec (.tlbi f a) s = issueOne .s (.tlbi f a) s := rfl
@[simp] theorem opSem_vadd {z1 c d a b} (x : Ctx) : opSem x (.vadd z1 c d a b) = semVadd x c d a b := rfl
theorem exec_vadd {z1 c d a b} (s : State) : exec (.vadd z1 c d a b) s = issueOne (VSlot.slot z1) (.vadd z1 c d a b) s := rfl
@[simp] theorem opSem_vsub {z1 c d a b} (x : Ctx) : opSem x (.vsub z1 c d a b) = semVsub x c d a b := rfl
theorem exec_vsub {z1 c d a b} (s : State) : exec (.vsub z1 c d a b) s = issueOne (VSlot.slot z1) (.vsub z1 c d a b) s := rfl
@[simp] theorem opSem_vmul {z1 c d a b} (x : Ctx) : opSem x (.vmul z1 c d a b) = semVmul x c d a b := rfl
theorem exec_vmul {z1 c d a b} (s : State) : exec (.vmul z1 c d a b) s = issueOne (VSlot.slot z1) (.vmul z1 c d a b) s := rfl
@[simp] theorem opSem_vfma {z1 c d a b} (x : Ctx) : opSem x (.vfma z1 c d a b) = semVfma x c d a b := rfl
theorem exec_vfma {z1 c d a b} (s : State) : exec (.vfma z1 c d a b) s = issueOne (VSlot.slot z1) (.vfma z1 c d a b) s := rfl
@[simp] theorem opSem_vfms {z1 c d a b} (x : Ctx) : opSem x (.vfms z1 c d a b) = semVfms x c d a b := rfl
theorem exec_vfms {z1 c d a b} (s : State) : exec (.vfms z1 c d a b) s = issueOne (VSlot.slot z1) (.vfms z1 c d a b) s := rfl
@[simp] theorem opSem_vmin {z1 c d a b} (x : Ctx) : opSem x (.vmin z1 c d a b) = semVmin x c d a b := rfl
theorem exec_vmin {z1 c d a b} (s : State) : exec (.vmin z1 c d a b) s = issueOne (VSlot.slot z1) (.vmin z1 c d a b) s := rfl
@[simp] theorem opSem_vmax {z1 c d a b} (x : Ctx) : opSem x (.vmax z1 c d a b) = semVmax x c d a b := rfl
theorem exec_vmax {z1 c d a b} (s : State) : exec (.vmax z1 c d a b) s = issueOne (VSlot.slot z1) (.vmax z1 c d a b) s := rfl
@[simp] theorem opSem_vabs {z1 c d a} (x : Ctx) : opSem x (.vabs z1 c d a) = semVabs x c d a := rfl
theorem exec_vabs {z1 c d a} (s : State) : exec (.vabs z1 c d a) s = issueOne (VSlot.slot z1) (.vabs z1 c d a) s := rfl
@[simp] theorem opSem_vneg {z1 c d a} (x : Ctx) : opSem x (.vneg z1 c d a) = semVneg x c d a := rfl
theorem exec_vneg {z1 c d a} (s : State) : exec (.vneg z1 c d a) s = issueOne (VSlot.slot z1) (.vneg z1 c d a) s := rfl
@[simp] theorem opSem_vrcp {c d a} (x : Ctx) : opSem x (.vrcp c d a) = semVrcp x c d a := rfl
theorem exec_vrcp {c d a} (s : State) : exec (.vrcp c d a) s = issueOne .v1 (.vrcp c d a) s := rfl
@[simp] theorem opSem_vrsq {c d a} (x : Ctx) : opSem x (.vrsq c d a) = semVrsq x c d a := rfl
theorem exec_vrsq {c d a} (s : State) : exec (.vrsq c d a) s = issueOne .v1 (.vrsq c d a) s := rfl
@[simp] theorem opSem_vexp2 {c d a} (x : Ctx) : opSem x (.vexp2 c d a) = semVexp2 x c d a := rfl
theorem exec_vexp2 {c d a} (s : State) : exec (.vexp2 c d a) s = issueOne .v1 (.vexp2 c d a) s := rfl
@[simp] theorem opSem_vlog2 {c d a} (x : Ctx) : opSem x (.vlog2 c d a) = semVlog2 x c d a := rfl
theorem exec_vlog2 {c d a} (s : State) : exec (.vlog2 c d a) s = issueOne .v1 (.vlog2 c d a) s := rfl
@[simp] theorem opSem_vcmul {z1 c d a b} (x : Ctx) : opSem x (.vcmul z1 c d a b) = semVcmul x c d a b := rfl
theorem exec_vcmul {z1 c d a b} (s : State) : exec (.vcmul z1 c d a b) s = issueOne (VSlot.slot z1) (.vcmul z1 c d a b) s := rfl
@[simp] theorem opSem_viadd {z1 c d a b} (x : Ctx) : opSem x (.viadd z1 c d a b) = semViadd x c d a b := rfl
theorem exec_viadd {z1 c d a b} (s : State) : exec (.viadd z1 c d a b) s = issueOne (VSlot.slot z1) (.viadd z1 c d a b) s := rfl
@[simp] theorem opSem_visub {z1 c d a b} (x : Ctx) : opSem x (.visub z1 c d a b) = semVisub x c d a b := rfl
theorem exec_visub {z1 c d a b} (s : State) : exec (.visub z1 c d a b) s = issueOne (VSlot.slot z1) (.visub z1 c d a b) s := rfl
@[simp] theorem opSem_vimul {z1 c d a b} (x : Ctx) : opSem x (.vimul z1 c d a b) = semVimul x c d a b := rfl
theorem exec_vimul {z1 c d a b} (s : State) : exec (.vimul z1 c d a b) s = issueOne (VSlot.slot z1) (.vimul z1 c d a b) s := rfl
@[simp] theorem opSem_vand {z1 c d a b} (x : Ctx) : opSem x (.vand z1 c d a b) = semVand x c d a b := rfl
theorem exec_vand {z1 c d a b} (s : State) : exec (.vand z1 c d a b) s = issueOne (VSlot.slot z1) (.vand z1 c d a b) s := rfl
@[simp] theorem opSem_vor {z1 c d a b} (x : Ctx) : opSem x (.vor z1 c d a b) = semVor x c d a b := rfl
theorem exec_vor {z1 c d a b} (s : State) : exec (.vor z1 c d a b) s = issueOne (VSlot.slot z1) (.vor z1 c d a b) s := rfl
@[simp] theorem opSem_vxor {z1 c d a b} (x : Ctx) : opSem x (.vxor z1 c d a b) = semVxor x c d a b := rfl
theorem exec_vxor {z1 c d a b} (s : State) : exec (.vxor z1 c d a b) s = issueOne (VSlot.slot z1) (.vxor z1 c d a b) s := rfl
@[simp] theorem opSem_vshl {z1 c d a b} (x : Ctx) : opSem x (.vshl z1 c d a b) = semVshl x c d a b := rfl
theorem exec_vshl {z1 c d a b} (s : State) : exec (.vshl z1 c d a b) s = issueOne (VSlot.slot z1) (.vshl z1 c d a b) s := rfl
@[simp] theorem opSem_vshr {z1 c d a b} (x : Ctx) : opSem x (.vshr z1 c d a b) = semVshr x c d a b := rfl
theorem exec_vshr {z1 c d a b} (s : State) : exec (.vshr z1 c d a b) s = issueOne (VSlot.slot z1) (.vshr z1 c d a b) s := rfl
@[simp] theorem opSem_vsra {z1 c d a b} (x : Ctx) : opSem x (.vsra z1 c d a b) = semVsra x c d a b := rfl
theorem exec_vsra {z1 c d a b} (s : State) : exec (.vsra z1 c d a b) s = issueOne (VSlot.slot z1) (.vsra z1 c d a b) s := rfl
@[simp] theorem opSem_vcmp {z1 c k d a b} (x : Ctx) : opSem x (.vcmp z1 c k d a b) = semVcmp x c k d a b := rfl
theorem exec_vcmp {z1 c k d a b} (s : State) : exec (.vcmp z1 c k d a b) s = issueOne (VSlot.slot z1) (.vcmp z1 c k d a b) s := rfl
@[simp] theorem opSem_vicmp {z1 c k d a b} (x : Ctx) : opSem x (.vicmp z1 c k d a b) = semVicmp x c k d a b := rfl
theorem exec_vicmp {z1 c k d a b} (s : State) : exec (.vicmp z1 c k d a b) s = issueOne (VSlot.slot z1) (.vicmp z1 c k d a b) s := rfl
@[simp] theorem opSem_vsel {z1 c d a b} (x : Ctx) : opSem x (.vsel z1 c d a b) = semVsel x c d a b := rfl
theorem exec_vsel {z1 c d a b} (s : State) : exec (.vsel z1 c d a b) s = issueOne (VSlot.slot z1) (.vsel z1 c d a b) s := rfl
@[simp] theorem opSem_vplen {z1 c d z2} (x : Ctx) : opSem x (.vplen z1 c d z2) = semVplen x c d := rfl
theorem exec_vplen {z1 c d z2} (s : State) : exec (.vplen z1 c d z2) s = issueOne (VSlot.slot z1) (.vplen z1 c d z2) s := rfl
@[simp] theorem opSem_vplog {z1 c o d a b} (x : Ctx) : opSem x (.vplog z1 c o d a b) = semVplog x c o d a b := rfl
theorem exec_vplog {z1 c o d a b} (s : State) : exec (.vplog z1 c o d a b) s = issueOne (VSlot.slot z1) (.vplog z1 c o d a b) s := rfl
@[simp] theorem opSem_vmov {z1 c d a} (x : Ctx) : opSem x (.vmov z1 c d a) = semVmov x c d a := rfl
theorem exec_vmov {z1 c d a} (s : State) : exec (.vmov z1 c d a) s = issueOne (VSlot.slot z1) (.vmov z1 c d a) s := rfl
@[simp] theorem opSem_vbc {z1 c d z2} (x : Ctx) : opSem x (.vbc z1 c d z2) = semVbc x c d := rfl
theorem exec_vbc {z1 c d z2} (s : State) : exec (.vbc z1 c d z2) s = issueOne (VSlot.slot z1) (.vbc z1 c d z2) s := rfl
@[simp] theorem opSem_vred {z1 c o d a} (x : Ctx) : opSem x (.vred z1 c o d a) = semVred x c o d a := rfl
theorem exec_vred {z1 c o d a} (s : State) : exec (.vred z1 c o d a) s = issueOne (VSlot.slot z1) (.vred z1 c o d a) s := rfl
@[simp] theorem opSem_vperm {z1 c d a b} (x : Ctx) : opSem x (.vperm z1 c d a b) = semVperm x c d a b := rfl
theorem exec_vperm {z1 c d a b} (s : State) : exec (.vperm z1 c d a b) s = issueOne (VSlot.slot z1) (.vperm z1 c d a b) s := rfl
@[simp] theorem opSem_vrot {z1 c d a z2} (x : Ctx) : opSem x (.vrot z1 c d a z2) = semVrot x c d a := rfl
theorem exec_vrot {z1 c d a z2} (s : State) : exec (.vrot z1 c d a z2) s = issueOne (VSlot.slot z1) (.vrot z1 c d a z2) s := rfl
@[simp] theorem opSem_vcvt {z1 c d a f p} (x : Ctx) : opSem x (.vcvt z1 c d a f p) = semVcvt x c d a f p := rfl
theorem exec_vcvt {z1 c d a f p} (s : State) : exec (.vcvt z1 c d a f p) s = issueOne (VSlot.slot z1) (.vcvt z1 c d a f p) s := rfl
@[simp] theorem opSem_vqnt {z1 c k d a f} (x : Ctx) : opSem x (.vqnt z1 c k d a f) = semVqnt x c k d a f := rfl
theorem exec_vqnt {z1 c k d a f} (s : State) : exec (.vqnt z1 c k d a f) s = issueOne (VSlot.slot z1) (.vqnt z1 c k d a f) s := rfl
@[simp] theorem opSem_vdq {z1 c d a f} (x : Ctx) : opSem x (.vdq z1 c d a f) = semVdq x c d a f := rfl
theorem exec_vdq {z1 c d a f} (s : State) : exec (.vdq z1 c d a f) s = issueOne (VSlot.slot z1) (.vdq z1 c d a f) s := rfl
@[simp] theorem opSem_vamax {z1 c d a} (x : Ctx) : opSem x (.vamax z1 c d a) = semVamax x c d a := rfl
theorem exec_vamax {z1 c d a} (s : State) : exec (.vamax z1 c d a) s = issueOne (VSlot.slot z1) (.vamax z1 c d a) s := rfl
@[simp] theorem opSem_vsplit {z1 c d a b} (x : Ctx) : opSem x (.vsplit z1 c d a b) = semVsplit x c d a b := rfl
theorem exec_vsplit {z1 c d a b} (s : State) : exec (.vsplit z1 c d a b) s = issueOne (VSlot.slot z1) (.vsplit z1 c d a b) s := rfl
@[simp] theorem opSem_vsnap {z1 c d a z2} (x : Ctx) : opSem x (.vsnap z1 c d a z2) = semVsnap x c d a := rfl
theorem exec_vsnap {z1 c d a z2} (s : State) : exec (.vsnap z1 c d a z2) s = issueOne (VSlot.slot z1) (.vsnap z1 c d a z2) s := rfl
@[simp] theorem opSem_vld {f r} (x : Ctx) : opSem x (.vld f r) = semVld x f r := rfl
theorem exec_vld {f r} (s : State) : exec (.vld f r) s = issueOne .v0 (.vld f r) s := rfl
@[simp] theorem opSem_vst {f} (x : Ctx) : opSem x (.vst f) = semVst x f := rfl
theorem exec_vst {f} (s : State) : exec (.vst f) s = issueOne .v0 (.vst f) s := rfl
@[simp] theorem opSem_vlds {f t r} (x : Ctx) : opSem x (.vlds f t r) = semVlds x f t r := rfl
theorem exec_vlds {f t r} (s : State) : exec (.vlds f t r) s = issueOne .v0 (.vlds f t r) s := rfl
@[simp] theorem opSem_mcfg {z1} (x : Ctx) : opSem x (.mcfg z1) = semMcfg x := rfl
theorem exec_mcfg {z1} (s : State) : exec (.mcfg z1) s = issueOne .m (.mcfg z1) s := rfl
@[simp] theorem opSem_mstep {v c a b} (x : Ctx) : opSem x (.mstep v c a b) = semMstep x v c a b := rfl
theorem exec_mstep {v c a b} (s : State) : exec (.mstep v c a b) s = issueOne .m (.mstep v c a b) s := rfl
@[simp] theorem opSem_mzero {c} (x : Ctx) : opSem x (.mzero c) = semMzero x c := rfl
theorem exec_mzero {c} (s : State) : exec (.mzero c) s = issueOne .m (.mzero c) s := rfl
@[simp] theorem opSem_mfin {f d c} (x : Ctx) : opSem x (.mfin f d c) = semMfin x f d c := rfl
theorem exec_mfin {f d c} (s : State) : exec (.mfin f d c) s = issueOne .m (.mfin f d c) s := rfl
@[simp] theorem opSem_mtrn {d a} (x : Ctx) : opSem x (.mtrn d a) = semMtrn x d a := rfl
theorem exec_mtrn {d a} (s : State) : exec (.mtrn d a) s = issueOne .m (.mtrn d a) s := rfl
@[simp] theorem opSem_mdup {h} (x : Ctx) : opSem x (.mdup h) = semMdup x h := rfl
theorem exec_mdup {h} (s : State) : exec (.mdup h) s = issueOne .m (.mdup h) s := rfl
@[simp] theorem opSem_cpy {sl z1 z2 e z3} (x : Ctx) : opSem x (.cpy sl z1 z2 e z3) = semCpy x (.cpy sl z1 z2 e z3) sl e := rfl
theorem exec_cpy {sl z1 z2 e z3} (s : State) : exec (.cpy sl z1 z2 e z3) s = issueOne (CSlot.slot sl) (.cpy sl z1 z2 e z3) s := rfl
@[simp] theorem opSem_cpyq {sl z1 z2 z3 e z4} (x : Ctx) : opSem x (.cpyq sl z1 z2 z3 e z4) = semCpyq x (.cpyq sl z1 z2 z3 e z4) sl e := rfl
theorem exec_cpyq {sl z1 z2 z3 e z4} (s : State) : exec (.cpyq sl z1 z2 z3 e z4) s = issueOne (CSlot.slot sl) (.cpyq sl z1 z2 z3 e z4) s := rfl
@[simp] theorem opSem_cpyd {sl z1 z2 e z3} (x : Ctx) : opSem x (.cpyd sl z1 z2 e z3) = semCpyd x (.cpyd sl z1 z2 e z3) sl e := rfl
theorem exec_cpyd {sl z1 z2 e z3} (s : State) : exec (.cpyd sl z1 z2 e z3) s = issueOne (CSlot.slot sl) (.cpyd sl z1 z2 e z3) s := rfl
@[simp] theorem opSem_cpyr {sl o z1 z2 e z3} (x : Ctx) : opSem x (.cpyr sl o z1 z2 e z3) = semCpyr x (.cpyr sl o z1 z2 e z3) sl o e := rfl
theorem exec_cpyr {sl o z1 z2 e z3} (s : State) : exec (.cpyr sl o z1 z2 e z3) s = issueOne (CSlot.slot sl) (.cpyr sl o z1 z2 e z3) s := rfl
@[simp] theorem opSem_cfill {sl z1 e z2 z3} (x : Ctx) : opSem x (.cfill sl z1 e z2 z3) = semCfill x (.cfill sl z1 e z2 z3) sl e := rfl
theorem exec_cfill {sl z1 e z2 z3} (s : State) : exec (.cfill sl z1 e z2 z3) s = issueOne (CSlot.slot sl) (.cfill sl z1 e z2 z3) s := rfl
@[simp] theorem opSem_cgat {sl z1 z2 z3 e z4} (x : Ctx) : opSem x (.cgat sl z1 z2 z3 e z4) = semCgat x (.cgat sl z1 z2 z3 e z4) sl e := rfl
theorem exec_cgat {sl z1 z2 z3 e z4} (s : State) : exec (.cgat sl z1 z2 z3 e z4) s = issueOne (CSlot.slot sl) (.cgat sl z1 z2 z3 e z4) s := rfl
@[simp] theorem opSem_csct {sl z1 z2 z3 e z4} (x : Ctx) : opSem x (.csct sl z1 z2 z3 e z4) = semCsct x (.csct sl z1 z2 z3 e z4) sl e := rfl
theorem exec_csct {sl z1 z2 z3 e z4} (s : State) : exec (.csct sl z1 z2 z3 e z4) s = issueOne (CSlot.slot sl) (.csct sl z1 z2 z3 e z4) s := rfl
@[simp] theorem opSem_wopen {sl hw z1 e} (x : Ctx) : opSem x (.wopen sl hw z1 e) = semWopen x (.wopen sl hw z1 e) sl hw e := rfl
theorem exec_wopen {sl hw z1 e} (s : State) : exec (.wopen sl hw z1 e) s = issueOne (CSlot.slot sl) (.wopen sl hw z1 e) s := rfl
@[simp] theorem opSem_wadv {sl hw k e} (x : Ctx) : opSem x (.wadv sl hw k e) = semWadv x (.wadv sl hw k e) sl hw k e := rfl
theorem exec_wadv {sl hw k e} (s : State) : exec (.wadv sl hw k e) s = issueOne (CSlot.slot sl) (.wadv sl hw k e) s := rfl
@[simp] theorem opSem_wclose {sl z1 c} (x : Ctx) : opSem x (.wclose sl z1 c) = semWclose x (.wclose sl z1 c) sl c := rfl
theorem exec_wclose {sl z1 c} (s : State) : exec (.wclose sl z1 c) s = issueOne (CSlot.slot sl) (.wclose sl z1 c) s := rfl
@[simp] theorem opSem_cpref {sl z1 c z2 z3} (x : Ctx) : opSem x (.cpref sl z1 c z2 z3) = semCpref x (.cpref sl z1 c z2 z3) sl c := rfl
theorem exec_cpref {sl z1 c z2 z3} (s : State) : exec (.cpref sl z1 c z2 z3) s = issueOne (CSlot.slot sl) (.cpref sl z1 c z2 z3) s := rfl
@[simp] theorem opSem_cflush {sl z1 c z2 z3} (x : Ctx) : opSem x (.cflush sl z1 c z2 z3) = semCflush x (.cflush sl z1 c z2 z3) sl c := rfl
theorem exec_cflush {sl z1 c z2 z3} (s : State) : exec (.cflush sl z1 c z2 z3) s = issueOne (CSlot.slot sl) (.cflush sl z1 c z2 z3) s := rfl
@[simp] theorem opSem_fpush {sl t r n b c} (x : Ctx) : opSem x (.fpush sl t r n b c) = semFpush x (.fpush sl t r n b c) sl t r n b c := rfl
theorem exec_fpush {sl t r n b c} (s : State) : exec (.fpush sl t r n b c) s = issueOne (CSlot.slot sl) (.fpush sl t r n b c) s := rfl
@[simp] theorem opSem_fpop {sl t r n b c} (x : Ctx) : opSem x (.fpop sl t r n b c) = semFpop x (.fpop sl t r n b c) sl t r n b c := rfl
theorem exec_fpop {sl t r n b c} (s : State) : exec (.fpop sl t r n b c) s = issueOne (CSlot.slot sl) (.fpop sl t r n b c) s := rfl
@[simp] theorem opSem_cbank {sl b z1} (x : Ctx) : opSem x (.cbank sl b z1) = semCbank x (.cbank sl b z1) sl b := rfl
theorem exec_cbank {sl b z1} (s : State) : exec (.cbank sl b z1) s = issueOne (CSlot.slot sl) (.cbank sl b z1) s := rfl
@[simp] theorem opSem_omode {a r} (x : Ctx) : opSem x (.omode a r) = semOmode x a r := rfl
theorem exec_omode {a r} (s : State) : exec (.omode a r) s = issueOne .o (.omode a r) s := rfl
@[simp] theorem opSem_omask {h e} (x : Ctx) : opSem x (.omask h e) = semOmask x (.omask h e) h e := rfl
theorem exec_omask {h e} (s : State) : exec (.omask h e) s = issueOne .o (.omask h e) s := rfl
@[simp] theorem opSem_oft {d s e p n} (x : Ctx) : opSem x (.oft d s e p n) = semOft x (.oft d s e p n) d s e p n := rfl
theorem exec_oft {d s e p n} (st : State) : exec (.oft d s e p n) st = issueOne .o (.oft d s e p n) st := rfl
@[simp] theorem opSem_oift {d s e p n} (x : Ctx) : opSem x (.oift d s e p n) = semOift x (.oift d s e p n) d s e p n := rfl
theorem exec_oift {d s e p n} (st : State) : exec (.oift d s e p n) st = issueOne .o (.oift d s e p n) st := rfl
@[simp] theorem opSem_oconv {d s e p n} (x : Ctx) : opSem x (.oconv d s e p n) = semOconv x (.oconv d s e p n) d s e p n := rfl
theorem exec_oconv {d s e p n} (st : State) : exec (.oconv d s e p n) st = issueOne .o (.oconv d s e p n) st := rfl
@[simp] theorem opSem_ocal {e} (x : Ctx) : opSem x (.ocal e) = semOcal x (.ocal e) e := rfl
theorem exec_ocal {e} (s : State) : exec (.ocal e) s = issueOne .o (.ocal e) s := rfl
@[simp] theorem opSem_ostat {d r} (x : Ctx) : opSem x (.ostat d r) = semOstat x d r := rfl
theorem exec_ostat {d r} (s : State) : exec (.ostat d r) s = issueOne .o (.ostat d r) s := rfl
@[simp] theorem opSem_lsend {p h e} (x : Ctx) : opSem x (.lsend p h e) = semLsend x (.lsend p h e) p h e := rfl
theorem exec_lsend {p h e} (s : State) : exec (.lsend p h e) s = issueOne .l (.lsend p h e) s := rfl
@[simp] theorem opSem_lrecv {p h e} (x : Ctx) : opSem x (.lrecv p h e) = semLrecv x (.lrecv p h e) p h e := rfl
theorem exec_lrecv {p h e} (s : State) : exec (.lrecv p h e) s = issueOne .l (.lrecv p h e) s := rfl
@[simp] theorem opSem_lradd {z1 p a l e} (x : Ctx) : opSem x (.lradd z1 p a l e) = semLradd x (.lradd z1 p a l e) p a l e := rfl
theorem exec_lradd {z1 p a l e} (s : State) : exec (.lradd z1 p a l e) s = issueOne .l (.lradd z1 p a l e) s := rfl
@[simp] theorem opSem_lqadd {p a l e} (x : Ctx) : opSem x (.lqadd p a l e) = semLqadd x (.lqadd p a l e) p a l e := rfl
theorem exec_lqadd {p a l e} (s : State) : exec (.lqadd p a l e) s = issueOne .l (.lqadd p a l e) s := rfl
@[simp] theorem opSem_ltmo {p t} (x : Ctx) : opSem x (.ltmo p t) = semLtmo x p t := rfl
theorem exec_ltmo {p t} (s : State) : exec (.ltmo p t) s = issueOne .l (.ltmo p t) s := rfl
@[simp] theorem opSem_lring {a} (x : Ctx) : opSem x (.lring a) = semLring x a := rfl
theorem exec_lring {a} (s : State) : exec (.lring a) s = issueOne .l (.lring a) s := rfl
@[simp] theorem opSem_lstat {d p} (x : Ctx) : opSem x (.lstat d p) = semLstat x d p := rfl
theorem exec_lstat {d p} (s : State) : exec (.lstat d p) s = issueOne .l (.lstat d p) s := rfl
@[simp] theorem opSem_lcadd {d c v} (x : Ctx) : opSem x (.lcadd d c v) = semLcadd x (.lcadd d c v) d c v := rfl
theorem exec_lcadd {d c v} (s : State) : exec (.lcadd d c v) s = issueOne .l (.lcadd d c v) s := rfl
@[simp] theorem opSem_spawn {o e c} (x : Ctx) : opSem x (.spawn o e c) = semSpawn x o e c := rfl
theorem exec_spawn {o e c} (s : State) : exec (.spawn o e c) s = issueOne .k (.spawn o e c) s := rfl
@[simp] theorem opSem_yield (x : Ctx) : opSem x .yield = semYield x := rfl
theorem exec_yield (s : State) : exec .yield s = issueOne .k .yield s := rfl
@[simp] theorem opSem_endTask (x : Ctx) : opSem x .endTask = semEnd x := rfl
theorem exec_endTask (s : State) : exec .endTask s = issueOne .k .endTask s := rfl
@[simp] theorem opSem_barg {sc} (x : Ctx) : opSem x (.barg sc) = semBarg x sc := rfl
theorem exec_barg {sc} (s : State) : exec (.barg sc) s = issueOne .k (.barg sc) s := rfl
@[simp] theorem opSem_sleept {t} (x : Ctx) : opSem x (.sleept t) = semSleept x t := rfl
theorem exec_sleept {t} (s : State) : exec (.sleept t) s = issueOne .k (.sleept t) s := rfl
@[simp] theorem opSem_waito {l s c t} (x : Ctx) : opSem x (.waito l s c t) = semWaito x l s c t := rfl
theorem exec_waito {l s c t} (st : State) : exec (.waito l s c t) st = issueOne .k (.waito l s c t) st := rfl
@[simp] theorem opSem_cadd {c v r z1 k} (x : Ctx) : opSem x (.cadd c v r z1 k) = semCadd x c v r z1 k := rfl
theorem exec_cadd {c v r z1 k} (s : State) : exec (.cadd c v r z1 k) s = issueOne .k (.cadd c v r z1 k) s := rfl
@[simp] theorem opSem_cwait {c t a z1} (x : Ctx) : opSem x (.cwait c t a z1) = semCwait x c t a z1 := rfl
theorem exec_cwait {c t a z1} (s : State) : exec (.cwait c t a z1) s = issueOne .k (.cwait c t a z1) s := rfl
@[simp] theorem opSem_cread {d c} (x : Ctx) : opSem x (.cread d c) = semCread x d c := rfl
theorem exec_cread {d c} (s : State) : exec (.cread d c) s = issueOne .k (.cread d c) s := rfl
@[simp] theorem opSem_waita {a v z1} (x : Ctx) : opSem x (.waita a v z1) = semWaita x a v z1 := rfl
theorem exec_waita {a v z1} (s : State) : exec (.waita a v z1) s = issueOne .k (.waita a v z1) s := rfl
@[simp] theorem opSem_drain {z1 k} (x : Ctx) : opSem x (.drain z1 k) = semDrain x z1 k := rfl
theorem exec_drain {z1 k} (s : State) : exec (.drain z1 k) s = issueOne .k (.drain z1 k) s := rfl
@[simp] theorem opSem_lnch {d c} (x : Ctx) : opSem x (.lnch d c) = semLnch x d c := rfl
theorem exec_lnch {d c} (s : State) : exec (.lnch d c) s = issueOne .k (.lnch d c) s := rfl
@[simp] theorem opSem_rlnch {w c} (x : Ctx) : opSem x (.rlnch w c) = semRlnch x w c := rfl
theorem exec_rlnch {w c} (s : State) : exec (.rlnch w c) s = issueOne .k (.rlnch w c) s := rfl
@[simp] theorem opSem_trarm {w l} (x : Ctx) : opSem x (.trarm w l) = semTrarm x w l := rfl
theorem exec_trarm {w l} (s : State) : exec (.trarm w l) s = issueOne .k (.trarm w l) s := rfl
@[simp] theorem opSem_trstat {d w} (x : Ctx) : opSem x (.trstat d w) = semTrstat x d w := rfl
theorem exec_trstat {d w} (s : State) : exec (.trstat d w) s = issueOne .k (.trstat d w) s := rfl
@[simp] theorem opSem_chk {f} (x : Ctx) : opSem x (.chk f) = semChk x f := rfl
theorem exec_chk {f} (s : State) : exec (.chk f) s = issueOne .k (.chk f) s := rfl
@[simp] theorem opSem_kalu {d a f} (x : Ctx) : opSem x (.kalu d a f) = semKalu x d a f := rfl
theorem exec_kalu {d a f} (s : State) : exec (.kalu d a f) s = issueOne .k (.kalu d a f) s := rfl
@[simp] theorem opSem_digr {l d} (x : Ctx) : opSem x (.digr l d) = semDigr x l d := rfl
theorem exec_digr {l d} (s : State) : exec (.digr l d) s = issueOne .k (.digr l d) s := rfl
@[simp] theorem opSem_digx {l a} (x : Ctx) : opSem x (.digx l a) = semDigx x l a := rfl
theorem exec_digx {l a} (s : State) : exec (.digx l a) s = issueOne .k (.digx l a) s := rfl
@[simp] theorem opSem_ctxs {a} (x : Ctx) : opSem x (.ctxs a) = semCtxs x a := rfl
theorem exec_ctxs {a} (s : State) : exec (.ctxs a) s = issueOne .k (.ctxs a) s := rfl
@[simp] theorem opSem_ctxl {a} (x : Ctx) : opSem x (.ctxl a) = semCtxl x a := rfl
theorem exec_ctxl {a} (s : State) : exec (.ctxl a) s = issueOne .k (.ctxl a) s := rfl

end Sys2Proof.Machine
end

