-- ==== Sys2Proof/Laws/Ops.lean ====
section
/-! SUPPORT. What the shared operations do: answering, taking a trap that is not delivered, returning from one, performing
stores and atomics. `takeTrap_delivers` (Laws/Issue) says what a delivered trap leaves. -/

namespace Sys2Proof.Machine

/-! ## Answers -/

/-- An event or an issue answers a next state exactly if it happens, and then closes the relaunches that are done. -/
theorem answer_next_iff {o : Option State} {t : State} : answer o = .next t ↔ ∃ s, o = some s ∧ t = finishRelaunches s := by
  cases o <;> simp [answer, eq_comm]

/-- It never faults. -/
theorem answer_ne_fault {o : Option State} {f : Fault} : answer o ≠ .fault f := by cases o <;> simp [answer]

/-- Issuing a bundle answers a next state whenever the core that moves holds a task. -/
theorem issue_next {h : Header} {ys : List Syl} {s : State} {m : Mach} (hm : s.mach s.cur = some m) :
    issue h ys s = .next (finishRelaunches (issueMach h ys m)) := by
  simp [issue, hm, answer]

/-- Without a task it does not happen. -/
theorem issue_none {h : Header} {ys : List Syl} {s : State} (hm : s.mach s.cur = none) : issue h ys s = .refused .notEnabled := by
  simp [issue, hm, answer]

/-! ## Traps -/

/-- A trap without a handler, or in supervisor mode, stops the task (R21). -/
theorem takeTrap_stops {m : Mach} {cause : Nat} {info : Word} {k : TrapKind} {pc iter : Nat} (h : m.t.x.tvec = 0 ∨ m.t.x.sv = true) :
    takeTrap m cause info k pc iter = m.stop cause info pc iter := if_pos h

/-- The entry of a delivered trap: supervisor level, the previous level, cause, address and iteration saved, the pc at the
handler (R19, R20). -/
theorem Task.enter_saves (t : Task) (cyc cause : Nat) (info : Word) (k : TrapKind) (pc iter : Nat) :
    (t.enter cyc cause info k pc iter).x.sv = true ∧ (t.enter cyc cause info k pc iter).x.epc = BitVec.ofNat 64 pc ∧
      (t.enter cyc cause info k pc iter).x.erpt = BitVec.ofNat 64 iter ∧
      (t.enter cyc cause info k pc iter).x.ecause = ecauseWord cause k ∧ (t.enter cyc cause info k pc iter).x.einfo = info ∧
      (t.enter cyc cause info k pc iter).iter = 0 ∧ (t.enter cyc cause info k pc iter).flight = [] :=
  ⟨rfl, rfl, rfl, rfl, rfl, rfl, rfl⟩

/-- The return from a trap: the level restored, control at X.EPC and iteration X.ERPT (R20). -/
theorem Task.return_restores (t : Task) (cyc : Nat) :
    (t.return cyc).x.sv = t.x.psv ∧ (t.return cyc).pc = t.x.epc.toNat ∧ (t.return cyc).iter = t.x.erpt.toNat ∧
      (t.return cyc).sticky = t.trapped.sticky ∧ (t.return cyc).loops = t.trapped.loops ∧ (t.return cyc).shadow = [] ∧
      (t.return cyc).regs = t.regs :=
  ⟨rfl, rfl, rfl, rfl, rfl, rfl, rfl⟩

/-- What is in flight after one more result is put there: that result and what was there. -/
theorem mem_insertDue {r x : Result} {l : List Result} : x ∈ insertDue r l ↔ x = r ∨ x ∈ l := by
  induction l with
  | nil => simp [insertDue]
  | cons y l ih =>
    simp only [insertDue]
    split
    · simp only [List.mem_cons, ih, or_left_comm]
    · simp

/-- A replay puts every captured result in flight, `r` cycles on from its offset, and drops none that was there (R321). -/
theorem mem_replay {r q : Nat} {x : Result} (sh fl : List Result) :
    x ∈ replay r q sh fl ↔ (∃ y ∈ sh, x = { y with due := r + y.due, seq := q }) ∨ x ∈ fl := by
  unfold replay
  induction sh generalizing fl with
  | nil => simp
  | cons y sh ih =>
    simp only [List.foldl_cons, ih, mem_insertDue, List.mem_cons, exists_eq_or_imp, or_assoc, or_left_comm]

/-! ## Memory through the shared operations -/

/-- A changed task leaves memory. -/
theorem State.onUid_mem (s : State) (u : Nat) (f : Task → Task) : (s.onUid u f).mem = s.mem := rfl
theorem State.fold_mem (s : State) (u : Nat) (v : Word) : (s.fold u v).mem = s.mem := rfl

theorem Mach.fold_mem (m : Mach) (v : Word) : (m.fold v).s.mem = m.s.mem := by
  unfold Mach.fold
  split <;> rfl

theorem Mach.atomic_wf {m : Mach} (op : Option AmoOp) (va pa n arg e : Nat) (h : Memory.wf m.s.mem) :
    Memory.wf (m.atomic op va pa n arg e).2.s.mem := by
  unfold Mach.atomic
  simp only
  split
  · exact h
  · simp only [Mach.fold_mem, Mach.onS_s]
    exact State.write_wf _ _ _ h

theorem Mach.toHome_wf {m : Mach} (pa n : Nat) (h : Memory.wf m.s.mem) : Memory.wf (m.toHome pa n).s.mem :=
  (State.heal_mem _ pa n).symm ▸ State.ccDrop_wf _ _ (Mach.l1Leave_wf _ h)

theorem Mach.answer_wf {m : Mach} (p : Pend) (h : Memory.wf m.s.mem) : Memory.wf (m.answer p).2.s.mem := by
  unfold Mach.answer
  split
  · exact Mach.atomic_wf _ _ _ _ _ _ (Mach.toHome_wf _ _ h)
  · exact h

theorem Mach.answerIf_wf {m : Mach} (f : Pend → Bool) (h : Memory.wf m.s.mem) : Memory.wf (m.answerIf f).s.mem := by
  unfold Mach.answerIf
  generalize hk : ({ m with t := { m.t with pend := [] } } : Mach) = k
  have hkw : Memory.wf k.s.mem := hk ▸ h
  clear hk
  induction m.t.pend generalizing k with
  | nil => exact hkw
  | cons p ps ih =>
    refine ih _ ?_
    simp only [Mach.onT_s]
    split
    · exact Mach.answer_wf p hkw
    · exact hkw

theorem Mach.early_wf {m : Mach} (pa n : Nat) (h : Memory.wf m.s.mem) : Memory.wf (m.early pa n).s.mem := by
  unfold Mach.early
  split
  · exact Mach.answerIf_wf _ h
  · exact h

theorem Mach.fork_wf {m : Mach} (id : Nat) (h : Memory.wf m.s.mem) : Memory.wf (m.fork id).s.mem :=
  Mach.flushOld_wf (Mach.answerIf_wf _ h)

theorem Mach.settle_wf {m : Mach} (h : Memory.wf m.s.mem) : Memory.wf m.settle.s.mem := Mach.flush_wf (Mach.answerIf_wf _ h)

end Sys2Proof.Machine
end

