-- ==== Sys2Proof/Laws/PerInstr.lean ====
section
/-! SUPPORT. The encoder, constructor by constructor: the opcode fits its byte and the fields fit the bits below the guard. -/

namespace Sys2Proof

theorem Cond.code_lt (x : Cond) : x.code < 8 := by cases x <;> decide
theorem FCond.code_lt (x : FCond) : x.code < 8 := by cases x <;> decide
theorem LogOp.code_lt (x : LogOp) : x.code < 8 := by cases x <;> decide
theorem MSize.code_lt (x : MSize) : x.code < 8 := by cases x <;> decide
theorem AmoOp.code_lt (x : AmoOp) : x.code < 8 := by cases x <;> decide
theorem TlbiForm.code_lt (x : TlbiForm) : x.code < 4 := by cases x <;> decide
theorem RedOp.code_lt (x : RedOp) : x.code < 4 := by cases x <;> decide
theorem MVar.code_lt (x : MVar) : x.code < 8 := by cases x <;> decide
theorem CpyrOp.code_lt (x : CpyrOp) : x.code < 8 := by cases x <;> decide
theorem BankMode.code_lt (x : BankMode) : x.code < 4 := by cases x <;> decide
theorem Aperture.code_lt (x : Aperture) : x.code < 4 := by cases x <;> decide
theorem Recovery.code_lt (x : Recovery) : x.code < 4 := by cases x <;> decide
theorem OReg.code_lt (x : OReg) : x.code < 8 := by cases x <;> decide
theorem Scope.code_lt (x : Scope) : x.code < 8 := by cases x <;> decide
theorem BScope.code_lt (x : BScope) : x.code < 4 := by cases x <;> decide
theorem KRegOp.code_lt (x : KRegOp) : x.code < 64 := by cases x <;> decide
theorem KImmOp.code_lt (x : KImmOp) : x.code < 64 := by cases x <;> decide
theorem KShiftOp.code_lt (x : KShiftOp) : x.code < 64 := by cases x <;> decide

end Sys2Proof

/-- The encoder's opcode of a slot operation fits 8 bits, its fields the 51 bits below the guard (R25). -/
def Sys2Proof.Laws.Encoding.Statement (i : Sys2Proof.Instr) : Prop :=
  ∀ sl op body, Sys2Proof.encodeOp i = some (sl, op, body) → op < 256 ∧ body < 2 ^ 51

namespace Sys2Proof.Laws.Encoding

open Sys2Proof

theorem bundleIssue (h : Header) (syls : List Word) : Statement (.bundleIssue h syls) := by
  intro _ _ _ h
  cases h

theorem nop (sl : Slot) : Statement (.nop sl) := by
  intro _ _ _ h
  cases h

theorem add (d : SReg) (a : SReg) (b : SReg) : Statement (.add d a b) := by
  intro _ _ _ h
  cases h
  simp only [encSA]
  omega

theorem sub (d : SReg) (a : SReg) (b : SReg) : Statement (.sub d a b) := by
  intro _ _ _ h
  cases h
  simp only [encSA]
  omega

theorem and (d : SReg) (a : SReg) (b : SReg) : Statement (.and d a b) := by
  intro _ _ _ h
  cases h
  simp only [encSA]
  omega

theorem or (d : SReg) (a : SReg) (b : SReg) : Statement (.or d a b) := by
  intro _ _ _ h
  cases h
  simp only [encSA]
  omega

theorem xor (d : SReg) (a : SReg) (b : SReg) : Statement (.xor d a b) := by
  intro _ _ _ h
  cases h
  simp only [encSA]
  omega

theorem shl (d : SReg) (a : SReg) (b : SReg) : Statement (.shl d a b) := by
  intro _ _ _ h
  cases h
  simp only [encSA]
  omega

theorem shr (d : SReg) (a : SReg) (b : SReg) : Statement (.shr d a b) := by
  intro _ _ _ h
  cases h
  simp only [encSA]
  omega

theorem sra (d : SReg) (a : SReg) (b : SReg) : Statement (.sra d a b) := by
  intro _ _ _ h
  cases h
  simp only [encSA]
  omega

theorem mul (d : SReg) (a : SReg) (b : SReg) : Statement (.mul d a b) := by
  intro _ _ _ h
  cases h
  simp only [encSA]
  omega

theorem mulh (u : Bool) (d : SReg) (a : SReg) (b : SReg) : Statement (.mulh u d a b) := by
  intro _ _ _ h
  cases h
  have := Bool.toNat_lt u
  simp only [encSA]
  omega

theorem div (u : Bool) (d : SReg) (a : SReg) (b : SReg) : Statement (.div u d a b) := by
  intro _ _ _ h
  cases h
  have := Bool.toNat_lt u
  simp only [encSA]
  omega

theorem rem (u : Bool) (d : SReg) (a : SReg) (b : SReg) : Statement (.rem u d a b) := by
  intro _ _ _ h
  cases h
  have := Bool.toNat_lt u
  simp only [encSA]
  omega

theorem min (u : Bool) (d : SReg) (a : SReg) (b : SReg) : Statement (.min u d a b) := by
  intro _ _ _ h
  cases h
  have := Bool.toNat_lt u
  simp only [encSA]
  omega

theorem max (u : Bool) (d : SReg) (a : SReg) (b : SReg) : Statement (.max u d a b) := by
  intro _ _ _ h
  cases h
  have := Bool.toNat_lt u
  simp only [encSA]
  omega

theorem clz (d : SReg) (a : SReg) : Statement (.clz d a) := by
  intro _ _ _ h
  cases h
  simp only [encSA]
  omega

theorem popc (d : SReg) (a : SReg) : Statement (.popc d a) := by
  intro _ _ _ h
  cases h
  simp only [encSA]
  omega

theorem bext (d : SReg) (a : SReg) (b : SReg) : Statement (.bext d a b) := by
  intro _ _ _ h
  cases h
  simp only [encSA]
  omega

theorem bins (d : SReg) (a : SReg) (b : SReg) : Statement (.bins d a b) := by
  intro _ _ _ h
  cases h
  simp only [encSA]
  omega

theorem ldih (d : SReg) (imm : BitVec 19) : Statement (.ldih d imm) := by
  intro _ _ _ h
  cases h
  omega

theorem addi (d : SReg) (a : SReg) (imm : BitVec 33) : Statement (.addi d a imm) := by
  intro _ _ _ h
  cases h
  simp only [encSI]
  omega

theorem andi (d : SReg) (a : SReg) (imm : BitVec 33) : Statement (.andi d a imm) := by
  intro _ _ _ h
  cases h
  simp only [encSI]
  omega

theorem ori (d : SReg) (a : SReg) (imm : BitVec 33) : Statement (.ori d a imm) := by
  intro _ _ _ h
  cases h
  simp only [encSI]
  omega

theorem xori (d : SReg) (a : SReg) (imm : BitVec 33) : Statement (.xori d a imm) := by
  intro _ _ _ h
  cases h
  simp only [encSI]
  omega

theorem shli (d : SReg) (a : SReg) (n : BitVec 6) : Statement (.shli d a n) := by
  intro _ _ _ h
  cases h
  simp only [encSI]
  omega

theorem shri (d : SReg) (a : SReg) (n : BitVec 6) : Statement (.shri d a n) := by
  intro _ _ _ h
  cases h
  simp only [encSI]
  omega

theorem srai (d : SReg) (a : SReg) (n : BitVec 6) : Statement (.srai d a n) := by
  intro _ _ _ h
  cases h
  simp only [encSI]
  omega

theorem ldi (d : SReg) (imm : BitVec 45) : Statement (.ldi d imm) := by
  intro _ _ _ h
  cases h
  omega

theorem cmp (cc : Cond) (d : PReg) (a : SReg) (b : SReg) : Statement (.cmp cc d a b) := by
  intro _ _ _ h
  cases h
  have := Cond.code_lt cc
  simp only [encSA]
  omega

theorem cmpi (cc : Cond) (d : PReg) (a : SReg) (imm : BitVec 33) : Statement (.cmpi cc d a imm) := by
  intro _ _ _ h
  cases h
  have := Cond.code_lt cc
  simp only [encSI]
  omega

theorem sel (d : SReg) (a : SReg) (b : SReg) (p : PReg) (neg : Bool) : Statement (.sel d a b p neg) := by
  intro _ _ _ h
  cases h
  have := Bool.toNat_lt neg
  simp only [encSA]
  omega

theorem plog (op : LogOp) (d : PReg) (a : PReg) (b : PReg) : Statement (.plog op d a b) := by
  intro _ _ _ h
  cases h
  have := LogOp.code_lt op
  simp only [encSA]
  omega

theorem ld (sz : MSize) (d : SReg) (a : SReg) (reuse : BitVec 3) (off : BitVec 33) : Statement (.ld sz d a reuse off) := by
  intro _ _ _ h
  cases h
  have := MSize.code_lt sz
  simp only [encSM]
  omega

theorem st (sz : MSize) (d : SReg) (a : SReg) (off : BitVec 33) : Statement (.st sz d a off) := by
  intro _ _ _ h
  cases h
  have := MSize.code_lt sz
  simp only [encSM]
  omega

theorem ldp (d : SReg) (a : SReg) (reuse : BitVec 3) (off : BitVec 33) : Statement (.ldp d a reuse off) := by
  intro _ _ _ h
  cases h
  simp only [encSM]
  omega

theorem stp (d : SReg) (a : SReg) (off : BitVec 33) : Statement (.stp d a off) := by
  intro _ _ _ h
  cases h
  simp only [encSM]
  omega

theorem ldc (sz : MSize) (d : SReg) (a : SReg) (off : BitVec 33) : Statement (.ldc sz d a off) := by
  intro _ _ _ h
  cases h
  have := MSize.code_lt sz
  simp only [encSM]
  omega

theorem br (disp : BitVec 32) : Statement (.br disp) := by
  intro _ _ _ h
  cases h
  omega

theorem bri (a : SReg) : Statement (.bri a) := by
  intro _ _ _ h
  cases h
  omega

theorem call (disp : BitVec 32) : Statement (.call disp) := by
  intro _ _ _ h
  cases h
  omega

theorem calli (a : SReg) : Statement (.calli a) := by
  intro _ _ _ h
  cases h
  omega

theorem ret : Statement (.ret) := by
  intro _ _ _ h
  cases h
  omega

theorem loop (lvl : Bool) (disp : BitVec 20) (c : SReg) : Statement (.loop lvl disp c) := by
  intro _ _ _ h
  cases h
  have := Bool.toNat_lt lvl
  omega

theorem loopi (lvl : Bool) (disp : BitVec 20) (count : BitVec 30) : Statement (.loopi lvl disp count) := by
  intro _ _ _ h
  cases h
  have := Bool.toNat_lt lvl
  omega

theorem movx (d : SReg) (x : BitVec 12) : Statement (.movx d x) := by
  intro _ _ _ h
  cases h
  omega

theorem movxw (x : BitVec 12) (a : SReg) : Statement (.movxw x a) := by
  intro _ _ _ h
  cases h
  omega

theorem hmov (h : HReg) (h2 : HReg) : Statement (.hmov h h2) := by
  intro _ _ _ h
  cases h
  simp only [encSH]
  omega

theorem hget (d : SReg) (h : HReg) (w : BitVec 2) : Statement (.hget d h w) := by
  intro _ _ _ h
  cases h
  simp only [encSH]
  omega

theorem hset (h : HReg) (w : BitVec 2) (a : SReg) : Statement (.hset h w a) := by
  intro _ _ _ h
  cases h
  simp only [encSH]
  omega

theorem hadv (h : HReg) (dim : BitVec 2) (a : SReg) : Statement (.hadv h dim a) := by
  intro _ _ _ h
  cases h
  simp only [encSH]
  omega

theorem tshape (t : Tile) (fmt : Fmt) (rows : BitVec 6) (cols : BitVec 10) : Statement (.tshape t fmt rows cols) := by
  intro _ _ _ h
  cases h
  omega

theorem tidw (h : HReg) (a : SReg) : Statement (.tidw h a) := by
  intro _ _ _ h
  cases h
  simp only [encSH]
  omega

theorem tidr (h : HReg) (a : SReg) : Statement (.tidr h a) := by
  intro _ _ _ h
  cases h
  simp only [encSH]
  omega

theorem tidi (a : SReg) : Statement (.tidi a) := by
  intro _ _ _ h
  cases h
  simp only [encSH]
  omega

theorem amo (op : AmoOp) (d : SReg) (a : SReg) (b : SReg) : Statement (.amo op d a b) := by
  intro _ _ _ h
  cases h
  have := AmoOp.code_lt op
  simp only [encSA]
  omega

theorem cas (d : SReg) (a : SReg) (b : SReg) : Statement (.cas d a b) := by
  intro _ _ _ h
  cases h
  simp only [encSA]
  omega

theorem cas2 (d : SReg) (a : SReg) (b : SReg) : Statement (.cas2 d a b) := by
  intro _ _ _ h
  cases h
  simp only [encSA]
  omega

theorem trap (imm : BitVec 16) : Statement (.trap imm) := by
  intro _ _ _ h
  cases h
  omega

theorem sysc (imm : BitVec 16) : Statement (.sysc imm) := by
  intro _ _ _ h
  cases h
  omega

theorem eret : Statement (.eret) := by
  intro _ _ _ h
  cases h
  omega

theorem tlbi (f : TlbiForm) (a : SReg) : Statement (.tlbi f a) := by
  intro _ _ _ h
  cases h
  have := TlbiForm.code_lt f
  simp only [encSA]
  omega

theorem vadd (sl : VSlot) (c : VCom) (d : RowRef) (a : RowRef) (b : RowRef) : Statement (.vadd sl c d a b) := by
  intro _ _ _ h
  cases h
  have := Bool.toNat_lt c.qn
  simp only [encA, encB, encD, encV]
  omega

theorem vsub (sl : VSlot) (c : VCom) (d : RowRef) (a : RowRef) (b : RowRef) : Statement (.vsub sl c d a b) := by
  intro _ _ _ h
  cases h
  have := Bool.toNat_lt c.qn
  simp only [encA, encB, encD, encV]
  omega

theorem vmul (sl : VSlot) (c : VCom) (d : RowRef) (a : RowRef) (b : RowRef) : Statement (.vmul sl c d a b) := by
  intro _ _ _ h
  cases h
  have := Bool.toNat_lt c.qn
  simp only [encA, encB, encD, encV]
  omega

theorem vfma (sl : VSlot) (c : VCom) (d : RowRef) (a : RowRef) (b : RowRef) : Statement (.vfma sl c d a b) := by
  intro _ _ _ h
  cases h
  have := Bool.toNat_lt c.qn
  simp only [encA, encB, encD, encV]
  omega

theorem vfms (sl : VSlot) (c : VCom) (d : RowRef) (a : RowRef) (b : RowRef) : Statement (.vfms sl c d a b) := by
  intro _ _ _ h
  cases h
  have := Bool.toNat_lt c.qn
  simp only [encA, encB, encD, encV]
  omega

theorem vmin (sl : VSlot) (c : VCom) (d : RowRef) (a : RowRef) (b : RowRef) : Statement (.vmin sl c d a b) := by
  intro _ _ _ h
  cases h
  have := Bool.toNat_lt c.qn
  simp only [encA, encB, encD, encV]
  omega

theorem vmax (sl : VSlot) (c : VCom) (d : RowRef) (a : RowRef) (b : RowRef) : Statement (.vmax sl c d a b) := by
  intro _ _ _ h
  cases h
  have := Bool.toNat_lt c.qn
  simp only [encA, encB, encD, encV]
  omega

theorem vabs (sl : VSlot) (c : VCom) (d : RowRef) (a : RowRef) : Statement (.vabs sl c d a) := by
  intro _ _ _ h
  cases h
  have := Bool.toNat_lt c.qn
  simp only [encA, encD, encV]
  omega

theorem vneg (sl : VSlot) (c : VCom) (d : RowRef) (a : RowRef) : Statement (.vneg sl c d a) := by
  intro _ _ _ h
  cases h
  have := Bool.toNat_lt c.qn
  simp only [encA, encD, encV]
  omega

theorem vrcp (c : VCom) (d : RowRef) (a : RowRef) : Statement (.vrcp c d a) := by
  intro _ _ _ h
  cases h
  have := Bool.toNat_lt c.qn
  simp only [encA, encD, encV]
  omega

theorem vrsq (c : VCom) (d : RowRef) (a : RowRef) : Statement (.vrsq c d a) := by
  intro _ _ _ h
  cases h
  have := Bool.toNat_lt c.qn
  simp only [encA, encD, encV]
  omega

theorem vexp2 (c : VCom) (d : RowRef) (a : RowRef) : Statement (.vexp2 c d a) := by
  intro _ _ _ h
  cases h
  have := Bool.toNat_lt c.qn
  simp only [encA, encD, encV]
  omega

theorem vlog2 (c : VCom) (d : RowRef) (a : RowRef) : Statement (.vlog2 c d a) := by
  intro _ _ _ h
  cases h
  have := Bool.toNat_lt c.qn
  simp only [encA, encD, encV]
  omega

theorem vcmul (sl : VSlot) (c : VCom) (d : RowRef) (a : RowRef) (b : RowRef) : Statement (.vcmul sl c d a b) := by
  intro _ _ _ h
  cases h
  have := Bool.toNat_lt c.qn
  simp only [encA, encB, encD, encV]
  omega

theorem viadd (sl : VSlot) (c : VCom) (d : RowRef) (a : RowRef) (b : RowRef) : Statement (.viadd sl c d a b) := by
  intro _ _ _ h
  cases h
  have := Bool.toNat_lt c.qn
  simp only [encA, encB, encD, encV]
  omega

theorem visub (sl : VSlot) (c : VCom) (d : RowRef) (a : RowRef) (b : RowRef) : Statement (.visub sl c d a b) := by
  intro _ _ _ h
  cases h
  have := Bool.toNat_lt c.qn
  simp only [encA, encB, encD, encV]
  omega

theorem vimul (sl : VSlot) (c : VCom) (d : RowRef) (a : RowRef) (b : RowRef) : Statement (.vimul sl c d a b) := by
  intro _ _ _ h
  cases h
  have := Bool.toNat_lt c.qn
  simp only [encA, encB, encD, encV]
  omega

theorem vand (sl : VSlot) (c : VCom) (d : RowRef) (a : RowRef) (b : RowRef) : Statement (.vand sl c d a b) := by
  intro _ _ _ h
  cases h
  have := Bool.toNat_lt c.qn
  simp only [encA, encB, encD, encV]
  omega

theorem vor (sl : VSlot) (c : VCom) (d : RowRef) (a : RowRef) (b : RowRef) : Statement (.vor sl c d a b) := by
  intro _ _ _ h
  cases h
  have := Bool.toNat_lt c.qn
  simp only [encA, encB, encD, encV]
  omega

theorem vxor (sl : VSlot) (c : VCom) (d : RowRef) (a : RowRef) (b : RowRef) : Statement (.vxor sl c d a b) := by
  intro _ _ _ h
  cases h
  have := Bool.toNat_lt c.qn
  simp only [encA, encB, encD, encV]
  omega

theorem vshl (sl : VSlot) (c : VCom) (d : RowRef) (a : RowRef) (b : RowRef) : Statement (.vshl sl c d a b) := by
  intro _ _ _ h
  cases h
  have := Bool.toNat_lt c.qn
  simp only [encA, encB, encD, encV]
  omega

theorem vshr (sl : VSlot) (c : VCom) (d : RowRef) (a : RowRef) (b : RowRef) : Statement (.vshr sl c d a b) := by
  intro _ _ _ h
  cases h
  have := Bool.toNat_lt c.qn
  simp only [encA, encB, encD, encV]
  omega

theorem vsra (sl : VSlot) (c : VCom) (d : RowRef) (a : RowRef) (b : RowRef) : Statement (.vsra sl c d a b) := by
  intro _ _ _ h
  cases h
  have := Bool.toNat_lt c.qn
  simp only [encA, encB, encD, encV]
  omega

theorem vcmp (sl : VSlot) (c : VCom) (cc : FCond) (d : PReg) (a : RowRef) (b : RowRef) : Statement (.vcmp sl c cc d a b) := by
  intro _ _ _ h
  cases h
  have := Bool.toNat_lt c.qn
  have := FCond.code_lt cc
  simp only [encA, encB, encV]
  omega

theorem vicmp (sl : VSlot) (c : VCom) (cc : Cond) (d : PReg) (a : RowRef) (b : RowRef) : Statement (.vicmp sl c cc d a b) := by
  intro _ _ _ h
  cases h
  have := Bool.toNat_lt c.qn
  have := Cond.code_lt cc
  simp only [encA, encB, encV]
  omega

theorem vsel (sl : VSlot) (c : VCom) (d : RowRef) (a : RowRef) (b : RowRef) : Statement (.vsel sl c d a b) := by
  intro _ _ _ h
  cases h
  have := Bool.toNat_lt c.qn
  simp only [encA, encB, encD, encV]
  omega

theorem vplen (sl : VSlot) (c : VCom) (d : PReg) (n : SReg) : Statement (.vplen sl c d n) := by
  intro _ _ _ h
  cases h
  have := Bool.toNat_lt c.qn
  simp only [encV]
  omega

theorem vplog (sl : VSlot) (c : VCom) (op : LogOp) (d : PReg) (a : PReg) (b : PReg) : Statement (.vplog sl c op d a b) := by
  intro _ _ _ h
  cases h
  have := Bool.toNat_lt c.qn
  have := LogOp.code_lt op
  simp only [encV]
  omega

theorem vmov (sl : VSlot) (c : VCom) (d : RowRef) (a : RowRef) : Statement (.vmov sl c d a) := by
  intro _ _ _ h
  cases h
  have := Bool.toNat_lt c.qn
  simp only [encA, encD, encV]
  omega

theorem vbc (sl : VSlot) (c : VCom) (d : RowRef) (n : SReg) : Statement (.vbc sl c d n) := by
  intro _ _ _ h
  cases h
  have := Bool.toNat_lt c.qn
  simp only [encD, encV]
  omega

theorem vred (sl : VSlot) (c : VCom) (op : RedOp) (d : RowRef) (a : RowRef) : Statement (.vred sl c op d a) := by
  intro _ _ _ h
  cases h
  have := Bool.toNat_lt c.qn
  have := RedOp.code_lt op
  simp only [encA, encD, encV]
  omega

theorem vperm (sl : VSlot) (c : VCom) (d : RowRef) (a : RowRef) (b : RowRef) : Statement (.vperm sl c d a b) := by
  intro _ _ _ h
  cases h
  have := Bool.toNat_lt c.qn
  simp only [encA, encB, encD, encV]
  omega

theorem vrot (sl : VSlot) (c : VCom) (d : RowRef) (a : RowRef) (n : SReg) : Statement (.vrot sl c d a n) := by
  intro _ _ _ h
  cases h
  have := Bool.toNat_lt c.qn
  simp only [encA, encD, encV]
  omega

theorem vcvt (sl : VSlot) (c : VCom) (d : RowRef) (a : RowRef) (src : Fmt) (part : BitVec 3) : Statement (.vcvt sl c d a src part) := by
  intro _ _ _ h
  cases h
  have := Bool.toNat_lt c.qn
  simp only [encA, encD, encV]
  omega

theorem vqnt (sl : VSlot) (c : VCom) (stat : Bool) (d : RowRef) (a : RowRef) (src : Fmt) : Statement (.vqnt sl c stat d a src) := by
  intro _ _ _ h
  cases h
  have := Bool.toNat_lt c.qn
  have := Bool.toNat_lt stat
  simp only [encA, encD, encV]
  omega

theorem vdq (sl : VSlot) (c : VCom) (d : RowRef) (a : RowRef) (src : Fmt) : Statement (.vdq sl c d a src) := by
  intro _ _ _ h
  cases h
  have := Bool.toNat_lt c.qn
  simp only [encA, encD, encV]
  omega

theorem vamax (sl : VSlot) (c : VCom) (d : RowRef) (a : RowRef) : Statement (.vamax sl c d a) := by
  intro _ _ _ h
  cases h
  have := Bool.toNat_lt c.qn
  simp only [encA, encD, encV]
  omega

theorem vsplit (sl : VSlot) (c : VCom) (d : RowRef) (a : RowRef) (b : RowRef) : Statement (.vsplit sl c d a b) := by
  intro _ _ _ h
  cases h
  have := Bool.toNat_lt c.qn
  simp only [encA, encB, encD, encV]
  omega

theorem vsnap (sl : VSlot) (c : VCom) (d : RowRef) (a : RowRef) (n : SReg) : Statement (.vsnap sl c d a n) := by
  intro _ _ _ h
  cases h
  have := Bool.toNat_lt c.qn
  simp only [encA, encD, encV]
  omega

theorem vld (f : VMemF) (reuse : BitVec 3) : Statement (.vld f reuse) := by
  intro _ _ _ h
  cases h
  have := Bool.toNat_lt f.qn
  simp only [encD, encVM]
  omega

theorem vst (f : VMemF) : Statement (.vst f) := by
  intro _ _ _ h
  cases h
  have := Bool.toNat_lt f.qn
  simp only [encD, encVM]
  omega

theorem vlds (f : VMemF) (ty : Fmt) (reuse : BitVec 3) : Statement (.vlds f ty reuse) := by
  intro _ _ _ h
  cases h
  have := Bool.toNat_lt f.qn
  simp only [encD, encVM]
  omega

theorem mcfg (a : SReg) : Statement (.mcfg a) := by
  intro _ _ _ h
  cases h
  omega

theorem mstep (v : MVar) (tc : Tile) (ta : Tile) (tb : Tile) : Statement (.mstep v tc ta tb) := by
  intro _ _ _ h
  cases h
  have := MVar.code_lt v
  omega

theorem mzero (tc : Tile) : Statement (.mzero tc) := by
  intro _ _ _ h
  cases h
  omega

theorem mfin (f : Fmt) (td : Tile) (tc : Tile) : Statement (.mfin f td tc) := by
  intro _ _ _ h
  cases h
  omega

theorem mtrn (td : Tile) (ta : Tile) : Statement (.mtrn td ta) := by
  intro _ _ _ h
  cases h
  omega

theorem mdup (h : HReg) : Statement (.mdup h) := by
  intro _ _ _ h
  cases h
  omega

theorem arrayStepStart (core : Nat) : Statement (.arrayStepStart core) := by
  intro _ _ _ h
  cases h

theorem arrayStepWrite (core : Nat) : Statement (.arrayStepWrite core) := by
  intro _ _ _ h
  cases h

theorem cpy (sl : CSlot) (hd : HReg) (hs : HReg) (e : PrmCnt) (st : StepF) : Statement (.cpy sl hd hs e st) := by
  intro _ _ _ h
  cases h
  have := Bool.toNat_lt st.tgt
  simp only [encC, encCS]
  omega

theorem cpyq (sl : CSlot) (stat : Bool) (hd : HReg) (hs : HReg) (e : PrmCnt) (st : StepF) : Statement (.cpyq sl stat hd hs e st) := by
  intro _ _ _ h
  cases h
  have := Bool.toNat_lt stat
  have := Bool.toNat_lt st.tgt
  simp only [encC, encCS]
  omega

theorem cpyd (sl : CSlot) (hd : HReg) (hs : HReg) (e : PrmCnt) (st : StepF) : Statement (.cpyd sl hd hs e st) := by
  intro _ _ _ h
  cases h
  have := Bool.toNat_lt st.tgt
  simp only [encC, encCS]
  omega

theorem cpyr (sl : CSlot) (op : CpyrOp) (hd : HReg) (hs : HReg) (e : PrmCnt) (st : StepF) : Statement (.cpyr sl op hd hs e st) := by
  intro _ _ _ h
  cases h
  have := CpyrOp.code_lt op
  have := Bool.toNat_lt st.tgt
  simp only [encC, encCS]
  omega

theorem cfill (sl : CSlot) (hd : HReg) (e : PrmCnt) (step : BitVec 16) (sdim : BitVec 2) : Statement (.cfill sl hd e step sdim) := by
  intro _ _ _ h
  cases h
  simp only [encC]
  omega

theorem cgat (sl : CSlot) (hd : HReg) (hs : HReg) (hx : HReg) (e : PrmCnt) (st : StepF) : Statement (.cgat sl hd hs hx e st) := by
  intro _ _ _ h
  cases h
  have := Bool.toNat_lt st.tgt
  simp only [encC, encCS]
  omega

theorem csct (sl : CSlot) (hd : HReg) (hs : HReg) (hx : HReg) (e : PrmCnt) (st : StepF) : Statement (.csct sl hd hs hx e st) := by
  intro _ _ _ h
  cases h
  have := Bool.toNat_lt st.tgt
  simp only [encC, encCS]
  omega

theorem wopen (sl : CSlot) (hw : HReg) (hv : HReg) (e : PrmCnt) : Statement (.wopen sl hw hv e) := by
  intro _ _ _ h
  cases h
  simp only [encC]
  omega

theorem wadv (sl : CSlot) (hw : HReg) (k : BitVec 16) (e : PrmCnt) : Statement (.wadv sl hw k e) := by
  intro _ _ _ h
  cases h
  simp only [encC]
  omega

theorem wclose (sl : CSlot) (hw : HReg) (cnt : SReg) : Statement (.wclose sl hw cnt) := by
  intro _ _ _ h
  cases h
  simp only [encC]
  omega

theorem cpref (sl : CSlot) (hs : HReg) (cnt : SReg) (step : BitVec 16) (sdim : BitVec 2) : Statement (.cpref sl hs cnt step sdim) := by
  intro _ _ _ h
  cases h
  simp only [encC]
  omega

theorem cflush (sl : CSlot) (hs : HReg) (cnt : SReg) (step : BitVec 16) (sdim : BitVec 2) : Statement (.cflush sl hs cnt step sdim) := by
  intro _ _ _ h
  cases h
  simp only [encC]
  omega

theorem fpush (sl : CSlot) (t : Tile) (r : BitVec 6) (n1 : BitVec 6) (bank : BitVec 4) (cnt : SReg) : Statement (.fpush sl t r n1 bank cnt) := by
  intro _ _ _ h
  cases h
  simp only [encF]
  omega

theorem fpop (sl : CSlot) (t : Tile) (r : BitVec 6) (n1 : BitVec 6) (bank : BitVec 4) (cnt : SReg) : Statement (.fpop sl t r n1 bank cnt) := by
  intro _ _ _ h
  cases h
  simp only [encF]
  omega

theorem cbank (sl : CSlot) (bank : BitVec 4) (mode : BankMode) : Statement (.cbank sl bank mode) := by
  intro _ _ _ h
  cases h
  have := BankMode.code_lt mode
  omega

theorem copyOpStart (core : Nat) (sl : CSlot) : Statement (.copyOpStart core sl) := by
  intro _ _ _ h
  cases h

theorem nocSlotSend (core : Nat) (sl : CSlot) : Statement (.nocSlotSend core sl) := by
  intro _ _ _ h
  cases h

theorem copyOpComplete (core : Nat) (sl : CSlot) : Statement (.copyOpComplete core sl) := by
  intro _ _ _ h
  cases h

theorem copyPageResume (core : Nat) (sl : CSlot) : Statement (.copyPageResume core sl) := by
  intro _ _ _ h
  cases h

theorem omode (ap : Aperture) (rec : Recovery) : Statement (.omode ap rec) := by
  intro _ _ _ h
  cases h
  have := Aperture.code_lt ap
  have := Recovery.code_lt rec
  omega

theorem omask (h : HReg) (e : PrmCnt) : Statement (.omask h e) := by
  intro _ _ _ h
  cases h
  omega

theorem oft (hd : HReg) (hs : HReg) (x : SReg) (e : PrmCnt) (logn : BitVec 4) : Statement (.oft hd hs x e logn) := by
  intro _ _ _ h
  cases h
  simp only [encO]
  omega

theorem oift (hd : HReg) (hs : HReg) (x : SReg) (e : PrmCnt) (logn : BitVec 4) : Statement (.oift hd hs x e logn) := by
  intro _ _ _ h
  cases h
  simp only [encO]
  omega

theorem oconv (hd : HReg) (hs : HReg) (x : SReg) (e : PrmCnt) (logn : BitVec 4) : Statement (.oconv hd hs x e logn) := by
  intro _ _ _ h
  cases h
  simp only [encO]
  omega

theorem ocal (e : PrmCnt) : Statement (.ocal e) := by
  intro _ _ _ h
  cases h
  omega

theorem ostat (d : SReg) (r : OReg) : Statement (.ostat d r) := by
  intro _ _ _ h
  cases h
  have := OReg.code_lt r
  omega

theorem veilShot (chiplet : Nat) : Statement (.veilShot chiplet) := by
  intro _ _ _ h
  cases h

theorem veilFramesWritten (chiplet : Nat) : Statement (.veilFramesWritten chiplet) := by
  intro _ _ _ h
  cases h

theorem veilMaskLoaded (chiplet : Nat) : Statement (.veilMaskLoaded chiplet) := by
  intro _ _ _ h
  cases h

theorem veilCalComplete (chiplet : Nat) : Statement (.veilCalComplete chiplet) := by
  intro _ _ _ h
  cases h

theorem veilWindowStart (chiplet : Nat) : Statement (.veilWindowStart chiplet) := by
  intro _ _ _ h
  cases h

theorem veilCalSlotStart (chiplet : Nat) : Statement (.veilCalSlotStart chiplet) := by
  intro _ _ _ h
  cases h

theorem calibrationStale (chiplet : Nat) : Statement (.calibrationStale chiplet) := by
  intro _ _ _ h
  cases h

theorem lsend (port : BitVec 5) (h : HReg) (e : PrmCnt) : Statement (.lsend port h e) := by
  intro _ _ _ h
  cases h
  omega

theorem lrecv (port : BitVec 5) (h : HReg) (e : PrmCnt) : Statement (.lrecv port h e) := by
  intro _ _ _ h
  cases h
  omega

theorem lradd (i32 : Bool) (port : BitVec 5) (a : SReg) (l : SReg) (e : PrmCnt) : Statement (.lradd i32 port a l e) := by
  intro _ _ _ h
  cases h
  have := Bool.toNat_lt i32
  simp only [encLA]
  split <;> omega

theorem lqadd (port : BitVec 5) (a : SReg) (l : SReg) (e : PrmCnt) : Statement (.lqadd port a l e) := by
  intro _ _ _ h
  cases h
  simp only [encLA]
  omega

theorem ltmo (port : BitVec 5) (t : SReg) : Statement (.ltmo port t) := by
  intro _ _ _ h
  cases h
  omega

theorem lring (a : SReg) : Statement (.lring a) := by
  intro _ _ _ h
  cases h
  omega

theorem lstat (d : SReg) (port : BitVec 5) : Statement (.lstat d port) := by
  intro _ _ _ h
  cases h
  omega

theorem lcadd (dev : SReg) (c : SReg) (v : SReg) : Statement (.lcadd dev c v) := by
  intro _ _ _ h
  cases h
  omega

theorem linkMatch (recv : Nat) : Statement (.linkMatch recv) := by
  intro _ _ _ h
  cases h

theorem linkMessageArrival (port : Nat) (src : Nat) (dtag : MsgTag) (data : List Byte) : Statement (.linkMessageArrival port src dtag data) := by
  intro _ _ _ h
  cases h

theorem linkOpComplete (op : LinkEnd) : Statement (.linkOpComplete op) := by
  intro _ _ _ h
  cases h

theorem remoteCounterAdd (ctr : Nat) (val : Nat) : Statement (.remoteCounterAdd ctr val) := by
  intro _ _ _ h
  cases h

theorem linkTimeout (op : Nat) : Statement (.linkTimeout op) := by
  intro _ _ _ h
  cases h

theorem portDown (port : Nat) : Statement (.portDown port) := by
  intro _ _ _ h
  cases h

theorem portLanesLost (port : Nat) : Statement (.portLanesLost port) := by
  intro _ _ _ h
  cases h

theorem flitRetry (port : Nat) : Statement (.flitRetry port) := by
  intro _ _ _ h
  cases h

theorem spawn (off : BitVec 3) (e : SReg) (c : SReg) : Statement (.spawn off e c) := by
  intro _ _ _ h
  cases h
  omega

theorem yield : Statement (.yield) := by
  intro _ _ _ h
  cases h
  omega

theorem endTask : Statement (.endTask) := by
  intro _ _ _ h
  cases h
  omega

theorem endComplete (core : Nat) : Statement (.endComplete core) := by
  intro _ _ _ h
  cases h

theorem barg (sc : BScope) : Statement (.barg sc) := by
  intro _ _ _ h
  cases h
  have := BScope.code_lt sc
  omega

theorem barrierComplete (lid : Nat) (sc : BScope) (group : Nat) : Statement (.barrierComplete lid sc group) := by
  intro _ _ _ h
  cases h

theorem barrierWaiterResume (core : Nat) : Statement (.barrierWaiterResume core) := by
  intro _ _ _ h
  cases h

theorem sleept (t : SReg) : Statement (.sleept t) := by
  intro _ _ _ h
  cases h
  omega

theorem sleeptWake (core : Nat) : Statement (.sleeptWake core) := by
  intro _ _ _ h
  cases h

theorem waito (l : BitVec 8) (s : BitVec 8) (c : BitVec 10) (t : BitVec 6) : Statement (.waito l s c t) := by
  intro _ _ _ h
  cases h
  omega

theorem waitoMet (core : Nat) : Statement (.waitoMet core) := by
  intro _ _ _ h
  cases h

theorem cadd (c : SReg) (v : SReg) (rel : Bool) (sc : Scope) (cls : BitVec 5) : Statement (.cadd c v rel sc cls) := by
  intro _ _ _ h
  cases h
  have := Bool.toNat_lt rel
  have := Scope.code_lt sc
  omega

theorem counterAddApply (i : Nat) : Statement (.counterAddApply i) := by
  intro _ _ _ h
  cases h

theorem cwait (c : SReg) (t : SReg) (acq : Bool) (sc : Scope) : Statement (.cwait c t acq sc) := by
  intro _ _ _ h
  cases h
  have := Bool.toNat_lt acq
  have := Scope.code_lt sc
  omega

theorem cwaitMet (core : Nat) : Statement (.cwaitMet core) := by
  intro _ _ _ h
  cases h

theorem cread (d : SReg) (c : SReg) : Statement (.cread d c) := by
  intro _ _ _ h
  cases h
  omega

theorem waita (a : SReg) (v : SReg) (sc : Scope) : Statement (.waita a v sc) := by
  intro _ _ _ h
  cases h
  have := Scope.code_lt sc
  omega

theorem waitaMet (core : Nat) : Statement (.waitaMet core) := by
  intro _ _ _ h
  cases h

theorem drain (sc : Scope) (cls : BitVec 5) : Statement (.drain sc cls) := by
  intro _ _ _ h
  cases h
  have := Scope.code_lt sc
  omega

theorem drainDone (core : Nat) : Statement (.drainDone core) := by
  intro _ _ _ h
  cases h

theorem waitTimeout (core : Nat) : Statement (.waitTimeout core) := by
  intro _ _ _ h
  cases h

theorem lnch (d : SReg) (cnt : SReg) : Statement (.lnch d cnt) := by
  intro _ _ _ h
  cases h
  omega

theorem rlnch (w : BitVec 4) (cnt : SReg) : Statement (.rlnch w cnt) := by
  intro _ _ _ h
  cases h
  omega

theorem trarm (w : BitVec 4) (l : SReg) : Statement (.trarm w l) := by
  intro _ _ _ h
  cases h
  omega

theorem trstat (d : SReg) (w : BitVec 4) : Statement (.trstat d w) := by
  intro _ _ _ h
  cases h
  omega

theorem chk (f : ChkForm) : Statement (.chk f) := by
  intro _ _ _ h
  cases f <;> cases h <;> omega

theorem kalu (d : SReg) (a : SReg) (src : KaluSrc) : Statement (.kalu d a src) := by
  intro _ _ _ h
  cases src with
  | reg o b =>
    cases h
    have := KRegOp.code_lt o
    omega
  | imm o i =>
    cases h
    have := KImmOp.code_lt o
    omega
  | shift o n =>
    cases h
    have := KShiftOp.code_lt o
    omega

theorem digr (launch : Bool) (d : SReg) : Statement (.digr launch d) := by
  intro _ _ _ h
  cases h
  have := Bool.toNat_lt launch
  omega

theorem digx (launch : Bool) (a : SReg) : Statement (.digx launch a) := by
  intro _ _ _ h
  cases h
  have := Bool.toNat_lt launch
  omega

theorem ctxs (a : SReg) : Statement (.ctxs a) := by
  intro _ _ _ h
  cases h
  omega

theorem ctxl (a : SReg) : Statement (.ctxl a) := by
  intro _ _ _ h
  cases h
  omega

theorem exposedResultLand (core : Nat) : Statement (.exposedResultLand core) := by
  intro _ _ _ h
  cases h

theorem pendingResultLand (core : Nat) (i : Nat) : Statement (.pendingResultLand core i) := by
  intro _ _ _ h
  cases h

theorem atomicPerform (core : Nat) (i : Nat) : Statement (.atomicPerform core i) := by
  intro _ _ _ h
  cases h

theorem storePerform (core : Nat) : Statement (.storePerform core) := by
  intro _ _ _ h
  cases h

theorem pageWalkComplete (core : Nat) (va : Nat) : Statement (.pageWalkComplete core va) := by
  intro _ _ _ h
  cases h

theorem tlbiRemovalComplete (core : Nat) : Statement (.tlbiRemovalComplete core) := by
  intro _ _ _ h
  cases h

theorem watchBindComplete (core : Nat) : Statement (.watchBindComplete core) := by
  intro _ _ _ h
  cases h

theorem asyncFaultReport (core : Nat) (cause : Nat) (info : Word) : Statement (.asyncFaultReport core cause info) := by
  intro _ _ _ h
  cases h

theorem asyncFaultDelivery (core : Nat) : Statement (.asyncFaultDelivery core) := by
  intro _ _ _ h
  cases h

theorem yieldOverrun (core : Nat) : Statement (.yieldOverrun core) := by
  intro _ _ _ h
  cases h

theorem fifoRelief (cluster : Nat) : Statement (.fifoRelief cluster) := by
  intro _ _ _ h
  cases h

theorem launchStart (lid : Nat) (ptb : Nat) (spill : Nat) (tables : LaunchMap) : Statement (.launchStart lid ptb spill tables) := by
  intro _ _ _ h
  cases h

theorem taskStart (core : Nat) : Statement (.taskStart core) := by
  intro _ _ _ h
  cases h

theorem segLoadComplete (core : Nat) : Statement (.segLoadComplete core) := by
  intro _ _ _ h
  cases h

theorem relaunchAccept (w : Nat) : Statement (.relaunchAccept w) := by
  intro _ _ _ h
  cases h

theorem relaunchTaskAdd (w : Nat) (tix : Nat) (by_ : Nat) : Statement (.relaunchTaskAdd w tix by_) := by
  intro _ _ _ h
  cases h

theorem launchReexecute (lid : Nat) : Statement (.launchReexecute lid) := by
  intro _ _ _ h
  cases h

theorem cuffPoll (q : Nat) : Statement (.cuffPoll q) := by
  intro _ _ _ h
  cases h

theorem packetDispatch (cuff : Nat) : Statement (.packetDispatch cuff) := by
  intro _ _ _ h
  cases h

theorem packetCompletion (p : PktRef) : Statement (.packetCompletion p) := by
  intro _ _ _ h
  cases h

theorem launch (p : PktRef) (desc : Nat) (ctr : Option Nat) : Statement (.launch p desc ctr) := by
  intro _ _ _ h
  cases h

theorem relaunch (p : PktRef) (w : Nat) (ctr : Option Nat) : Statement (.relaunch p w ctr) := by
  intro _ _ _ h
  cases h

theorem copy (p : PktRef) (src : Nat) (dst : Nat) (len : Nat) : Statement (.copy p src dst len) := by
  intro _ _ _ h
  cases h

theorem fill (p : PktRef) (dst : Nat) (len : Nat) (pat : Word) : Statement (.fill p dst len pat) := by
  intro _ _ _ h
  cases h

theorem counterAdd (p : PktRef) (ctr : Nat) (val : Nat) : Statement (.counterAdd p ctr val) := by
  intro _ _ _ h
  cases h

theorem counterWait (p : PktRef) (ctr : Nat) (thr : Nat) : Statement (.counterWait p ctr thr) := by
  intro _ _ _ h
  cases h

theorem traceArm (p : PktRef) (w : Nat) (lid : Nat) : Statement (.traceArm p w lid) := by
  intro _ _ _ h
  cases h

theorem veilCal (p : PktRef) (mask : BitVec 4) : Statement (.veilCal p mask) := by
  intro _ _ _ h
  cases h

theorem query (p : PktRef) (item : Nat) (chiplet : Nat) (ans : Nat) (lid : Nat) : Statement (.query p item chiplet ans lid) := by
  intro _ _ _ h
  cases h

theorem tidWrite (p : PktRef) (rec : Nat) (chiplet : Nat) (cluster : Nat) (id : Nat) : Statement (.tidWrite p rec chiplet cluster id) := by
  intro _ _ _ h
  cases h

theorem queueCtlEnable (p : PktRef) (target : Nat) : Statement (.queueCtlEnable p target) := by
  intro _ _ _ h
  cases h

theorem queueCtlDisable (p : PktRef) (target : Nat) : Statement (.queueCtlDisable p target) := by
  intro _ _ _ h
  cases h

theorem queueCtlRehome (p : PktRef) (target : Nat) (home : Nat) : Statement (.queueCtlRehome p target home) := by
  intro _ _ _ h
  cases h

theorem queueCtlClear (p : PktRef) (target : Nat) : Statement (.queueCtlClear p target) := by
  intro _ _ _ h
  cases h

theorem nopPacket (p : PktRef) : Statement (.nopPacket p) := by
  intro _ _ _ h
  cases h

theorem qtail (q : Nat) (v : PostedWord) : Statement (.qtail q v) := by
  intro _ _ _ h
  cases h

theorem registerWrite (off : Nat) (v : PostedWord) : Statement (.registerWrite off v) := by
  intro _ _ _ h
  cases h

theorem cuffRomParity (cuff : Nat) : Statement (.cuffRomParity cuff) := by
  intro _ _ _ h
  cases h

theorem cuffTableEcc (cuff : Nat) (queues : List Nat) : Statement (.cuffTableEcc cuff queues) := by
  intro _ _ _ h
  cases h

theorem hostCxlMemAccess (off : Nat) (n : Nat) (write : Option (List Byte)) : Statement (.hostCxlMemAccess off n write) := by
  intro _ _ _ h
  cases h

theorem hostCxlIoWrite (addr : Nat) (data : List Byte) (order : PostOrder) : Statement (.hostCxlIoWrite addr data order) := by
  intro _ _ _ h
  cases h

theorem hemWriteback (chunk : Nat) : Statement (.hemWriteback chunk) := by
  intro _ _ _ h
  cases h

theorem writebackAck (chunk : Nat) (parity : Bool) : Statement (.writebackAck chunk parity) := by
  intro _ _ _ h
  cases h

theorem reconstructRead (chunk : Nat) : Statement (.reconstructRead chunk) := by
  intro _ _ _ h
  cases h

theorem stackLost (stack : Nat) : Statement (.stackLost stack) := by
  intro _ _ _ h
  cases h

theorem stackRebuildStripe (stripe : Nat) : Statement (.stackRebuildStripe stripe) := by
  intro _ _ _ h
  cases h

theorem refresh (bank : Nat) (row : Nat) : Statement (.refresh bank row) := by
  intro _ _ _ h
  cases h

theorem refreshInterrupt (bank : BankRows) : Statement (.refreshInterrupt bank) := by
  intro _ _ _ h
  cases h

theorem patrolScrub (addr : Nat) (written : Bool) : Statement (.patrolScrub addr written) := by
  intro _ _ _ h
  cases h

theorem wearRefresh (words : List Word) : Statement (.wearRefresh words) := by
  intro _ _ _ h
  cases h

theorem powerSample (blocks : List (BitVec 16)) (temps : List (BitVec 16)) : Statement (.powerSample blocks temps) := by
  intro _ _ _ h
  cases h

theorem powerOn : Statement (.powerOn) := by
  intro _ _ _ h
  cases h

theorem identify : Statement (.identify) := by
  intro _ _ _ h
  cases h

theorem attest (nonce : List Byte) : Statement (.attest nonce) := by
  intro _ _ _ h
  cases h

theorem setDevnum (n : Nat) : Statement (.setDevnum n) := by
  intro _ _ _ h
  cases h

theorem setWindow (base : RingPlace) (size : Nat) : Statement (.setWindow base size) := by
  intro _ _ _ h
  cases h

theorem setEventRing (addr : RingPlace) (size : Nat) : Statement (.setEventRing addr size) := by
  intro _ _ _ h
  cases h

theorem setIdeKeys (keys : List Byte) : Statement (.setIdeKeys keys) := by
  intro _ _ _ h
  cases h

theorem setCap (watts : Nat) : Statement (.setCap watts) := by
  intro _ _ _ h
  cases h

theorem telemetry : Statement (.telemetry) := by
  intro _ _ _ h
  cases h

theorem resetPartition (part : Nat) (lo : Nat) (hi : Nat) : Statement (.resetPartition part lo hi) := by
  intro _ _ _ h
  cases h

theorem resetModule : Statement (.resetModule) := by
  intro _ _ _ h
  cases h

theorem portUp (port : Nat) : Statement (.portUp port) := by
  intro _ _ _ h
  cases h

theorem chipletLost (what : ModuleLoss) : Statement (.chipletLost what) := by
  intro _ _ _ h
  cases h

theorem softError (site : ErrorSite) : Statement (.softError site) := by
  intro _ _ _ h
  cases h

theorem dieTemperatureChange (chiplet : Nat) (temp : Nat) : Statement (.dieTemperatureChange chiplet temp) := by
  intro _ _ _ h
  cases h

theorem peerMemoryAccess (dev : Nat) (off : Nat) (n : Nat) (write : Option (List Byte)) : Statement (.peerMemoryAccess dev off n write) := by
  intro _ _ _ h
  cases h

end Sys2Proof.Laws.Encoding
end

