-- ==== Sys2Proof/Tests/Slice0.lean ====
section
/-! SUPPORT. Tests: words that decode, checks that refuse, and states that meet the hypotheses of the statements. -/

namespace Sys2Proof.Tests

-- One test after another: together their kernel checks would need more threads than the memory of a check allows.
set_option Elab.async false

open Sys2Proof.Machine

/-! ## A small machine -/

/-- Special registers of a task in user mode with a handler at 0x100. -/
def x0 : XRegs :=
  { tix := 3, ntask := 8, stage := 0, seed := 0, launch := 1, arg := 0, wtmo := 4294967296, qtroub := 0, dig := 0x55, sv := false
    psv := false, dm := false, ste := true, te := false, epc := 0, ecause := 0, einfo := 0, erpt := 0, tvec := 0x100, ptb := 0, segt := 0 }

/-- A task about to issue the bundle at 0x40, its scalars those listed. -/
def task (s : SMap Word) : Task :=
  let t := Task.start 7 1 ⟨64, 32, 24⟩ x0 0x40 900
  { t with regs := { t.regs with s := s } }

/-- A core that runs a task. -/
def core (t : Task) : Core := { Core.idle with task := some t, half0 := .holds 0 }

/-- A machine in cycle 1,000 whose core 0 is as given. -/
def on (c : Core) : State := { State.reset with up := true, cyc := 1000, uids := 50, cores := [(0, c)] }

/-- What core 0 reads at issue when nothing has to land. -/
def seen (s : State) (t : Task) : Mach := ⟨{ s with cur := 0 }, s.core 0, t⟩

/-- The conditions of `Ready` but the first, as a test. -/
def readyB (sl : Slot) (i : Instr) (s : State) (m : Mach) : Bool :=
  decide (staticCheck m.t.budget i = none) && !(sole sl i m).pends m.t && !(sole sl i m).meetsBusy m.c &&
    decide ((sole sl i m).poison m.t.regs = none) && decide (m.t.iter = 0) && decide (m.t.flow = Flow.none) &&
    (decide (m.t.sticky = StickySet.quiet) || !m.t.x.ste) && (!m.t.loops.l0.active || decide (m.t.loops.l0.le.toNat ≠ m.t.pc)) &&
    (!m.t.loops.l1.active || decide (m.t.loops.l1.le.toNat ≠ m.t.pc)) && s.watches.all (fun e => e.2.run.isNone) &&
    decide (m.t.loadCount < 128) && decide (m.c.storeCount < 128)

theorem ready_of {sl : Slot} {i : Instr} {s : State} {m : Mach} (h : (s.mach s.cur).map Mach.view = some m)
    (hb : readyB sl i s m = true) : Ready sl i s m := by
  simp only [readyB, Bool.and_eq_true, Bool.or_eq_true, Bool.not_eq_true', decide_eq_true_eq] at hb
  obtain ⟨⟨⟨⟨⟨⟨⟨⟨⟨⟨⟨h1, h2⟩, h3⟩, h4⟩, h5⟩, h6⟩, h7⟩, h8⟩, h9⟩, h10⟩, h11⟩, h12⟩ := hb
  refine ⟨h, h1, h2, h3, h4, h5, h6, h7, ⟨fun h => ?_, fun h => ?_⟩, h10, h11, h12⟩
  · simp_all
  · simp_all

theorem view_still {m : Mach} (h1 : m.t.flight = []) (h2 : m.t.pend = []) (h3 : m.c.mops = []) : m.view = m := by
  obtain ⟨s, c, t⟩ := m
  cases t
  cases c
  subst h1 h2 h3
  rfl

/-- What the core that moves reads when it has nothing in flight and nothing pending. -/
theorem view_of {s : State} {m : Mach} (h : s.mach s.cur = some m := by rfl) (h1 : m.t.flight = [] := by rfl)
    (h2 : m.t.pend = [] := by rfl) (h3 : m.c.mops = [] := by rfl) : (s.mach s.cur).map Mach.view = some m := by
  rw [h]; exact congrArg some (view_still h1 h2 h3)


/-- What holds of both members of a list of two. -/
theorem both {α : Type} {p : α → Prop} {a b : α} (ha : p a) (hb : p b) : ∀ x ∈ [a, b], p x :=
  List.forall_mem_cons.2 ⟨ha, List.forall_mem_singleton.2 hb⟩

/-- No cluster's cache holds a line, so every line is whole. -/
theorem whole_of {s : State} (h : s.ccache = [] := by rfl) : s.wholeLines := fun e he => by simp [h] at he

/-- No bank waits to go back to its cluster's cache. -/
theorem back_of {s : State} (h : s.banks.all (fun e => !e.2.back) = true := by rfl) (b : Nat) : (s.bank b).back = false := by
  unfold State.bank
  cases hb : SMap.find s.banks b with
  | none => rfl
  | some x => simpa using List.all_eq_true.1 h _ (SMap.find_mem hb)

/-- The conditions of `Reaches` as one. -/
theorem reaches_of {m : Mach} {ea al pa : Nat} {rd wr na : Bool} (h : (ea < 2 ^ 57 ∧ ea % al = 0) ∧
    (regionOf ea ≠ .counter ∧ regionOf ea ≠ .mmio) ∧ m.xlat ea rd wr = .ok pa na ∧ pa % al = 0 ∧ (regionOf pa = .hbm ∨ regionOf pa = .lpddr ∨
      (regionOf pa = .scratch ∧ (m.s.bank (bankOf pa)).mode = .scratchpad ∧
        m.s.partOf (bankOf pa / 16) = m.s.partOf (clusterOf m.s.cur)))) : Reaches m ea al rd wr pa na :=
  ⟨h.1.1, h.1.2, h.2.1, h.2.2.1, h.2.2.2.1, h.2.2.2.2⟩

/-- A core with no line in its L1 and a machine with no line in any cluster's cache and no error anywhere is calm. -/
theorem calm_of {m : Mach} (h1 : m.c.stores = [] := by rfl) (h2 : m.t.pend = [] := by rfl) (h3 : m.s.err = [] := by rfl)
    (h4 : m.s.hbm = State.reset.hbm := by rfl) (h5 : m.c.l1 = [] := by rfl) (h6 : m.s.ccache = [] := by rfl) : Calm m :=
  ⟨h1, h2, ⟨h3, by simp [h4, State.reset], by simp [h4, State.reset]⟩, by simp [h5, h6]⟩
/-- Nothing waits to be written back where neither cache holds a line. -/
theorem clean_of {m : Mach} (h1 : m.c.l1 = [] := by rfl) (h2 : m.s.ccache = [] := by rfl) (p : Nat) : m.clean p :=
  ⟨fun e he => by simp [h1] at he, fun x hx => by simp [State.cc, SMap.get, h2] at hx⟩

/-- Core 0 with the task whose scalars are given. -/
abbrev run (s : SMap Word) : State := on (core (task s))
/-- What it reads at issue. -/
abbrev see (s : SMap Word) : Mach := seen (run s) (task s)

theorem view_run (s : SMap Word) : ((run s).mach (run s).cur).map Mach.view = some (see s) := view_of

theorem calm_run (s : SMap Word) : Calm (see s) := calm_of

theorem catches_run (s : SMap Word) : (run s).catches := ⟨task s, rfl, rfl, by show (0x100 : Word) ≠ 0; decide⟩

/-- Core 0 with a task given whole. -/
abbrev runT (t : Task) : State := on (core t)
abbrev seeT (t : Task) : Mach := seen (runT t) t

/-- The same task in supervisor mode, with the special registers that `f` changes. -/
def sup (s : SMap Word) (f : XRegs → XRegs := id) : Task := { task s with x := f { x0 with sv := true } }

theorem view_sup (s : SMap Word) (f : XRegs → XRegs) : ((runT (sup s f)).mach (runT (sup s f)).cur).map Mach.view = some (seeT (sup s f)) :=
  view_of

/-- A running launch 1 of eight tasks. -/
def desc1 : Desc :=
  { image := 0, ilen := 8, entry := 0x40, ntask := 8, stages := 1, dmode := false, gang := false, te := false, super := false
    cmask := 0xFF, budget := ⟨64, 32, 24⟩, qthr := 0, seed := 0, tvec := 0x100, arg := 9, trace := 0, segt := 0, nseg := 0, banks := 0
    bufl := 0, nbuf := 0, staget := 0, first := [], dtag := 0, devs := 0 }
def launch1 : Launch := { Launch.new 1 desc1 (.packet 0 0) 0 0 none 0 0 with phase := .running, left := 8 }


theorem rdyT {t : Task} {sl : Slot} {i : Instr} (h1 : t.flight = []) (h2 : t.pend = []) (h : readyB sl i (runT t) (seeT t) = true) :
    Ready sl i (runT t) (seeT t) := ready_of (view_of rfl h1 h2) h

theorem rdy {s : SMap Word} {sl : Slot} {i : Instr} (h : readyB sl i (run s) (see s) = true) : Ready sl i (run s) (see s) :=
  rdyT rfl rfl h

/-- Every operation of a list is ready before the task `t`. -/
theorem rdyAll {t : Task} {l : List (Slot × Instr)} (h1 : t.flight = []) (h2 : t.pend = [])
    (h : l.all (fun p => readyB p.1 p.2 (runT t) (seeT t)) = true) : ∀ p ∈ l, Ready p.1 p.2 (runT t) (seeT t) :=
  fun p hp => rdyT h1 h2 (List.all_eq_true.mp h p hp)

/-- The same of any machine in which core 0 runs `t`. -/
theorem rdyS {s : State} {t : Task} {sl : Slot} {i : Instr} (h : readyB sl i s (seen s t) = true)
    (h0 : (s.core 0).task = some t := by rfl) (hc : s.cur = 0 := by rfl) (h1 : t.flight = [] := by rfl)
    (h2 : t.pend = [] := by rfl) (h3 : (s.core 0).mops = [] := by rfl) : Ready sl i s (seen s t) :=
  ready_of (view_of (by simp [State.mach, hc, h0, seen]) h1 h2 h3) h
/-! ## Witnesses: encoding, a step, traps -/

theorem witness_DecodeEncodeScalar : Instr.wellFormed (.ldi 5 7) = true ∧ slotOf (.ldi 5 7) = some .s := by decide
theorem witness_DecodeEncodeVector : Instr.wellFormed (.vadd .v1 ⟨0, false, 1, 7⟩ ⟨1, 2⟩ ⟨3, 4⟩ ⟨5, 63⟩) = true ∧
    slotOf (.vadd .v1 ⟨0, false, 1, 7⟩ ⟨1, 2⟩ ⟨3, 4⟩ ⟨5, 63⟩) = some .v1 := by decide
theorem witness_DecodeEncodeEngines : Instr.wellFormed (.mzero 23) = true ∧ slotOf (.mzero 23) = some .m ∧
    Instr.wellFormed (.cwait 1 63 true .cluster) = true ∧ slotOf (.cwait 1 63 true .cluster) = some .k := by decide

/-- Core 0 with words of a bundle at the pc. -/
def fetched (ws : List Word) : State :=
  on { core (task []) with imem := ((List.range ws.length).zip ws).filterMap fun (i, w) => if w = 0 then none else some (8 + i, w) }

theorem witness_StepRunsTheDecodedInstruction :
    let s := fetched [0xD008000000000000, 0x1F00B9B97F4A7C15]
    let m := seen s (task [])
    Turn s 0 ∧ s.mach 0 = some m ∧ m.c.half m.t.pc ≠ .empty ∧ fetchBad m.c m.t.pc (bundleLen (wordsAt m.c m.t.pc)) = false ∧
      decodeBundle (wordsAt m.c m.t.pc) = .ok 2 (.ldi 5 0x39B97F4A7C15) :=
  ⟨⟨rfl, rfl, by decide, by decide⟩, rfl, by decide, by decide, by decide⟩

theorem witness_UndecodableBundlesTrap :
    let s := fetched []
    let m := seen s (task [])
    Turn s 0 ∧ s.settledWatches ∧ s.mach 0 = some m ∧ m.c.half m.t.pc ≠ .empty ∧
      fetchBad m.c m.t.pc (bundleLen (wordsAt m.c m.t.pc)) = false ∧ decodeBundle (wordsAt m.c m.t.pc) = .bad 0 60 ∧ m.t.x.sv = false ∧
      m.t.x.tvec ≠ 0 := ⟨⟨rfl, rfl, by decide, by decide⟩, rfl, rfl, by decide, by decide, by decide, by decide⟩

theorem witness_UnlistedOpcodesAreIllegal :
    (0x1600000000000000 < 2 ^ 64 ∧ 0x1600000000000000 / 2 ^ 56 ∉ listedOpcodes .s) ∧
    ∀ ws ∈ [[(0xD020080000000000 : Word), 0x1600000000000000], [0], [BitVec.allOnes 64]],
      let s := fetched ws
      let m := seen s { task [] with pc := 0x40 }
      Turn s 0 ∧ s.settledWatches ∧ s.mach 0 = some m ∧ m.c.half m.t.pc ≠ .empty ∧
        fetchBad m.c m.t.pc (bundleLen (wordsAt m.c m.t.pc)) = false ∧ m.t.x.sv = false ∧ m.t.x.tvec ≠ 0 ∧
        (wordsAt m.c m.t.pc).take ws.length = ws := by
  refine ⟨by decide, fun ws h => ?_⟩
  simp only [List.mem_cons, List.not_mem_nil, or_false] at h
  rcases h with rfl | rfl | rfl <;>
    exact ⟨⟨rfl, rfl, by decide, by decide⟩, rfl, rfl, by decide, by decide, by decide, by decide, by decide⟩

theorem witness_AgendaFirstAndLossFinal : ({ run [] with lost := true } : State).lost = true ∧
    ({ run [] with agenda := [.identify] } : State).lost = false ∧ ({ run [] with agenda := [.identify] } : State).agenda = [.identify] :=
  ⟨rfl, rfl, rfl⟩

theorem witness_MemoryFormKept : Memory.wf State.reset.mem ∧ State.reset.wholeLines ∧
    (let s := { State.reset with fl := { Fleus.start with booting := false } }
    s.mem = State.reset.mem ∧ s.wholeLines ∧ step s = .next { s with cyc := 1 }) :=
  ⟨by decide, List.forall_mem_nil _, rfl, List.forall_mem_nil _, rfl⟩

theorem witness_SoftwareTrapsAreDelivered : (run []).catches ∧ Ready .s (.trap 7) (run []) (see []) ∧
    Ready .s (.sysc 7) (run []) (see []) := ⟨catches_run _, ready_of (view_run _) (by decide), ready_of (view_run _) (by decide)⟩

theorem witness_UndeliverableTrapsStopTheTask : Ready .s (.sysc 7) (runT (sup [])) (seeT (sup [])) ∧ (sup []).x.sv = true :=
  ⟨ready_of (view_sup _ _) (by decide), rfl⟩

theorem witness_EretReturns : let t := sup [] fun x => { x with epc := 0x48 }
    (Ready .s .eret (runT t) (seeT t) ∧ t.x.sv = true ∧ t.x.epc.toNat % 8 = 0 ∧ t.x.epc.toNat < 0x40000 ∧
      t.x.erpt.toNat ≤ (SMap.get 0 (seeT t).c.imem (t.x.epc.toNat / 8)).toNat / 2 ^ 34 % 2 ^ 8 ∧ t.held = none) ∧
    (∀ h ∈ [0x48, 0x50], let t := { t with held := some (h, ⟨.barg .launch 1 0 0, 990, 4294967296, false⟩) }
      Ready .s .eret (runT t) (seeT t) ∧ ∃ w, t.held = some (h, w) ∧ w.kind = .barg .launch 1 0 0) ∧
    (let t := { t with x := { t.x with erpt := 1 } }; Ready .s .eret (runT t) (seeT t) ∧
      (SMap.get 0 (seeT t).c.imem (t.x.epc.toNat / 8)).toNat / 2 ^ 34 % 2 ^ 8 < t.x.erpt.toNat) :=
  ⟨⟨ready_of (view_sup _ _) (by decide), by decide⟩, both ⟨rdyT rfl rfl (by decide), _, rfl, rfl⟩ ⟨rdyT rfl rfl (by decide), _, rfl, rfl⟩,
    rdyT rfl rfl (by decide), by decide⟩

theorem witness_PrivilegedOperationsTrapInUserMode : (run []).catches ∧ Ready .s .eret (run []) (see []) ∧
    Ready .s (.tlbi .all 0) (run []) (see []) ∧ Ready .k (.ctxs 1) (run []) (see []) ∧ Ready .k (.ctxl 1) (run []) (see []) :=
  ⟨catches_run _, ready_of (view_run _) (by decide), ready_of (view_run _) (by decide), ready_of (view_run _) (by decide),
    ready_of (view_run _) (by decide)⟩

/-- A task with a poisoned scalar and a poisoned row. -/
def poisoned : Task := let t := task []; { t with regs := { t.regs with sp := [(4, 0x1000)], rows := [(64, ⟨0, false, some 0x2000⟩)] } }

theorem witness_RegisterChecksTrap : let t := { task [] with budget := ⟨63, 32, 24⟩ }
    (runT t).catches ∧ (runT t).settledWatches ∧ ((runT t).mach (runT t).cur).map Mach.view = some (seeT t) ∧ t.iter = 0 ∧
      t.sticky = StickySet.quiet ∧ (1 : SReg).toNat % 2 = 1 ∧ t.budget.s ≤ (63 : SReg).toNat ∧ t.budget.s < 64 ∧
      (5 : SReg).toNat < t.budget.s ∧ xclass (0x24 : BitVec 12).toNat = none ∧ (7 : BitVec 12).toNat ≤ 7 ∧
      (let t := poisoned
       let i := Instr.vadd .v0 ⟨1, false, 0, 0⟩ ⟨2, 0⟩ ⟨1, 0⟩ ⟨1, 1⟩
       ((runT t).mach (runT t).cur).map Mach.view = some (seeT t) ∧ (runT t).running = some t ∧ t.pend = [] ∧
         t.regs.spoison 4 = some 0x1000 ∧ staticCheck t.budget i = none ∧ (sole .v0 i (seeT t)).meetsBusy (seeT t).c = false ∧
         (t.regs.row 64).poison = some 0x2000) :=
  ⟨⟨_, rfl, rfl, by decide⟩, rfl, view_of, by decide, by decide, by decide, by decide, by decide, by decide, by decide, by decide,
    view_of, rfl, rfl, by decide, by decide, by decide, by decide⟩


/-! ## Witnesses: scalar operations -/

theorem witness_ScalarResults : let s := [(1, 5), (2, 7), (3, 0x105)]
    scalarResult (see s) (.add 4 1 2) = some (1, 4, 12) ∧ Ready .s (.add 4 1 2) (run s) (see s) ∧
    scalarResult (see s) (.mulh true 4 1 2) = some (3, 4, 0) ∧ Ready .s (.mulh true 4 1 2) (run s) (see s) ∧
    scalarResult (see s) (.kalu 4 1 (.reg .sub 2)) = some (1, 4, -2) ∧ Ready .k (.kalu 4 1 (.reg .sub 2)) (run s) (see s) :=
  ⟨by decide, rdy (by decide), by decide, rdy (by decide), by decide, rdy (by decide)⟩

theorem witness_BitFieldOperations : let s := [(1, 5), (2, 0x3F3F)]
    Ready .s (.bext 4 1 2) (run s) (see s) ∧ Ready .s (.bins 4 1 2) (run s) (see s) := ⟨rdy (by decide), rdy (by decide)⟩

theorem witness_DivisionAndRemainder :
    (let s := [(1, 5)]; Ready .s (.div false 4 1 2) (run s) (see s) ∧ (see s).t.regs.sreg 2 = 0 ∧ (run s).catches) ∧
    (let s := [(1, 5), (2, 2)]; Ready .s (.rem true 4 1 2) (run s) (see s) ∧ (see s).t.regs.sreg 2 ≠ 0) :=
  ⟨⟨rdy (by decide), by decide, catches_run _⟩, rdy (by decide), by decide⟩

theorem witness_ComparesAndPredicateLogic : ∀ p ∈ [(Slot.s, Instr.cmp .le 4 1 2), (.s, .cmpi .ltu 4 1 7), (.s, .plog .and 4 0 1),
    (.s, .plog .or 4 0 1), (.s, .plog .xor 4 0 1), (.s, .plog .andn 4 0 1)], Ready p.1 p.2 (run []) (see []) :=
  rdyAll rfl rfl (by decide)

theorem witness_ResultsLandOnTheirCycle : let r : Result := ⟨.s 3, 5, BitVec.allOnes 256, false, none, 999, 0⟩
    let t := { task [] with flight := [r] }
    (r.dest = .s 3 ∧ t.flight = [r] ∧ 999 ≤ r.due ∧ r.due < 1000) ∧
    (let r := { r with dest := .row 64, mask := 1, poison := some 0x2000 }
    let u := { t with flight := [r] }
    r.dest = .row 64 ∧ u.flight = [r] ∧ r.due < 1000 ∧ ¬ r.mask = BitVec.allOnes 256 ∧ r.poison.isSome = true) :=
  ⟨⟨rfl, rfl, by decide, by decide⟩, rfl, rfl, by decide, by decide, rfl⟩

theorem witness_HandlesAndShapes : (∀ p ∈ [(Slot.s, Instr.hmov 3 4), (.s, .hset 3 3 1), (.s, .hadv 3 2 1)],
      Ready p.1 p.2 (run []) (see [])) ∧
    Instr.wellFormed (.tshape 2 7 63 63) = true ∧ Ready .s (.tshape 2 7 63 63) (run []) (see []) ∧ (63 + 1) * Fmt.bits 7 ≤ 2048 ∧
    Instr.wellFormed (.tshape 2 7 63 64) = true ∧ Ready .s (.tshape 2 7 63 64) (run []) (see []) ∧ 2048 < (64 + 1) * Fmt.bits 7 ∧
    (run []).catches := ⟨rdyAll rfl rfl (by decide), by decide, rdy (by decide), by decide, by decide, rdy (by decide), by decide, catches_run _⟩

/-- A task whose loop level 0 is as given. -/
def looping (s : SMap Word) (l : Level) : Task := let t := task s; { t with loops := ⟨l, Loops.off.l1, false⟩ }

theorem witness_SpecialRegisterReads : (1, 3) ∈ xvalues (see []) (see []).t.loops ∧ Ready .s (.movx 4 1) (run []) (see []) ∧
    (see []).t.parent = none ∧ Ready .s (.movx 4 0x22) (run []) (see []) ∧ (see []).t.x.sv = false ∧ (run []).catches ∧
    Ready .s (.movx 4 0x100) (run []) (see []) ∧
    (xclass (0x24 : BitVec 12).toNat = none ∧ (4 : SReg).toNat < (see []).t.budget.s ∧ (run []).settledWatches ∧
      ((run []).mach (run []).cur).map Mach.view = some (see []) ∧ (see []).t.iter = 0 ∧ (see []).t.sticky = StickySet.quiet) :=
  ⟨by decide, rdy (by decide), rfl, rdy (by decide), rfl, catches_run _, rdy (by decide), by decide, by decide, rfl, view_run _, rfl, rfl⟩

theorem witness_SpecialRegisterWrites :
    (let s := [(1, 31)]; Ready .s (.movxw 0x20 1) (run s) (see s) ∧ (0x20, { x0 with wtmo := 31 }) ∈ xwrites (see s).t.x 31 ∧
      Ready .s (.movxw 0x23 1) (run s) (see s) ∧ Ready .s (.movxw 0x104 1) (run s) (see s) ∧ (see s).t.x.sv = false ∧ (run s).catches) ∧
    (∀ v ∈ [(31 : Word), 32], let t := sup [(1, v)]; Ready .s (.movxw 0x23 1) (runT t) (seeT t) ∧ t.x.sv = true) ∧
    (let t := looping [(1, 9)] ⟨2, 0x80, 0x90, true⟩
    (runT t).catches ∧ t.x.sv = false ∧ t.loops.l0.active = true ∧ t.loops.l1.active = false ∧
      ∀ x ∈ [(0x10 : BitVec 12), 0x11, 0x15], Ready .s (.movxw x 1) (runT t) (seeT t)) ∧
    (let t := sup [(1, 9)]; t.x.sv = true ∧ ∀ x ∈ [(0x10 : BitVec 12), 0x14], Ready .s (.movxw x 1) (runT t) (seeT t)) ∧
    ∀ x ∈ [(0x18 : BitVec 12), 0x1B], let s := [(1, 31)]; Ready .s (.movxw x 1) (run s) (see s) :=
  ⟨⟨rdy (by decide), by decide, rdy (by decide), rdy (by decide), rfl, catches_run _⟩,
    both ⟨rdyT rfl rfl (by decide), rfl⟩ ⟨rdyT rfl rfl (by decide), rfl⟩,
    ⟨⟨_, rfl, rfl, by decide⟩, rfl, rfl, rfl,
      List.forall_mem_cons.2 ⟨rdyT rfl rfl (by decide), both (rdyT rfl rfl (by decide)) (rdyT rfl rfl (by decide))⟩⟩,
    ⟨rfl, both (rdyT rfl rfl (by decide)) (rdyT rfl rfl (by decide))⟩, both (rdy (by decide)) (rdy (by decide))⟩

/-- A page of 64 KiB at `va` that maps to `pa`, for a task whose address space is 0x999. -/
def page (va pa : Nat) : TlbEnt := ⟨0x999, va / 65536, 16, pa, true, true, true, false⟩
def paged (s : SMap Word) : Task := { task s with x := { x0 with ptb := 0x999 } }
/-- Core 0 with four pages: HBM4E, HBM4E, the own-cluster scratchpad and counter space. -/
def withPages (s : SMap Word) : Core :=
  { core (paged s) with tlb := [page 0x10000 0x110000, page 0x20000 0x120000, page 0x30000 0x7E0000000000, page 0x40000 0x7D0000000000] }
abbrev runM (s : SMap Word) : State := on (withPages s)
abbrev seeM (s : SMap Word) : Mach := seen (runM s) (paged s)

theorem rdyM {s : SMap Word} {sl : Slot} {i : Instr} (h : readyB sl i (runM s) (seeM s) = true) : Ready sl i (runM s) (seeM s) :=
  ready_of (view_of) h

theorem calm_runM (s : SMap Word) : Calm (seeM s) := calm_of

theorem catches_runM (s : SMap Word) : (runM s).catches := ⟨paged s, rfl, rfl, by show (0x100 : Word) ≠ 0; decide⟩

theorem witness_LoadsComplete : let s := [(1, 0x10FF0)]
    Calm (seeM s) ∧ (seeM s).s.wholeLines ∧ effAddr (seeM s) 1 8 = 0x10FF8 ∧ Reaches (seeM s) 0x10FF8 8 true false 0x110FF8 false ∧
    Reaches (seeM s) 0x10FF0 16 true false 0x110FF0 false ∧ Ready .s (.ld .d 4 1 0 8) (runM s) (seeM s) ∧
    Ready .s (.ldp 4 1 0 0) (runM s) (seeM s) ∧ (seeM s).c.cc = [] ∧ Ready .s (.ldc .d 4 1 8) (runM s) (seeM s) :=
  ⟨calm_runM _, whole_of, by decide, reaches_of (by decide), reaches_of (by decide),
    rdyM (by decide), rdyM (by decide), rfl, rdyM (by decide)⟩

theorem witness_StoresCompleteAndPerform : (let s := [(1, 0x1FFF0), (4, 9)]
    Calm (seeM s) ∧ effAddr (seeM s) 1 8 = 0x1FFF8 ∧ Reaches (seeM s) 0x1FFF8 8 false true 0x11FFF8 false ∧
    Reaches (seeM s) 0x1FFF0 16 false true 0x11FFF0 false ∧ Instr.wellFormed (.st .d 4 1 8) = true ∧
    Ready .s (.st .d 4 1 8) (runM s) (seeM s) ∧ Ready .s (.stp 4 1 0) (runM s) (seeM s)) ∧
    (∀ a ∈ [0x100, 0x7F0000000000], let c := { core (task []) with stores := [⟨a, [some 1], none, 990, false⟩] }
    (on c).settledWatches ∧ (on c).wholeLines ∧ (on c).core 0 = c ∧ c.task = some (task []) ∧
      c.stores = [⟨a, [some 1], none, 990, false⟩] ∧ 990 < (on c).cyc ∧ (∀ j < 1, regionOf (a + j) = regionOf a) ∧
      (regionOf a = .hbm ∨ regionOf a = .scratch)) ∧
    (let x : L1Line := ⟨4, 0, List.replicate 64 0, some 7 :: List.replicate 63 none, some 990, 1000, []⟩
    let c := { core (task []) with l1 := [(80, x)] }
    (on c).settledWatches ∧ (on c).wholeLines ∧ (on c).core 0 = c ∧ c.task = some (task []) ∧ c.stores = [] ∧ (80, x) ∈ c.l1 ∧
      x.since.isSome = true ∧ x.due ≤ (on c).cyc ∧ x.err = [] ∧ (∀ e ∈ c.l1, e.2.since.isSome = true → e = (80, x)) ∧
      regionOf (64 * x.line) = .hbm ∧
      let d := { c with stores := [⟨0x100, [some 1], none, 990, false⟩] }
      (on d).core 0 = d ∧ d.stores = [⟨0x100, [some 1], none, 990, false⟩] ∧ l1Find d.l1 (0x100 / 64) = some x ∧
        regionOf 0x100 ≠ .scratch) :=
  ⟨⟨calm_runM _, by decide, reaches_of (by decide),
    reaches_of (by decide), by decide, rdyM (by decide), rdyM (by decide)⟩,
    both ⟨rfl, whole_of, rfl, rfl, rfl, by decide⟩ ⟨rfl, whole_of, rfl, rfl, rfl, by decide⟩,
    rfl, whole_of, rfl, rfl, rfl, by decide, rfl, by decide, rfl, fun e h _ => List.mem_singleton.1 h, by decide, rfl, rfl, by decide,
    by decide⟩

/-- Core 0 with pages that map to MMIO space, a bank of the cache, a peer, host memory, and one that may not be accessed; a walk has
found page 0x90000 absent. -/
def withHoles (s : SMap Word) : Core :=
  { core (paged s) with
    walkBad := some 9
    tlb := [page 0x20000 0x7C0000000000, page 0x30000 0x7F0000000000, page 0x40000 0x8010000000000,
            { page 0x50000 0x150000 with rd := false, wr := false }, page 0x60000 0x400000000000] }
abbrev runH (s : SMap Word) : State := { on (withHoles s) with fl := { Fleus.start with flit68 := true } }
abbrev seeH (s : SMap Word) : Mach := seen (runH s) (paged s)

theorem witness_MisalignedAccessesTrap :
    (∀ a ∈ [(0x200000000000000 : Word), 0x10001, 0x7D0000000000, 0x90000, 0x50000, 0x20000, 0x30000, 0x40000, 0x60000],
      (runH [(1, a)]).catches ∧ effAddr (seeH [(1, a)]) 1 0 = a.toNat ∧ (seeH [(1, a)]).t.regs.sreg 1 = a ∧
      ∀ i ∈ [Instr.ld .d 4 1 0 0, .ldp 4 1 0 0, .ldc .d 4 1 0, .st .d 4 1 0, .stp 4 1 0, .amo .add 4 1 2, .cas 4 1 2, .cas2 4 1 2],
        Ready .s i (runH [(1, a)]) (seeH [(1, a)])) ∧
    (2 ^ 57 ≤ 0x200000000000000 ∧ 0x10001 % 8 ≠ 0 ∧ 0x10001 % 16 ≠ 0 ∧ regionOf 0x7D0000000000 = .counter) ∧
    (seeH []).xlat 0x90000 true true = .absent ∧ (seeH []).xlat 0x50000 true false = .denied ∧
    (seeH []).xlat 0x50000 false true = .denied ∧
    (seeH []).xlat 0x20000 true true = .ok 0x7C0000000000 false ∧ regionOf 0x7C0000000000 = .mmio ∧
    (seeH []).xlat 0x30000 true true = .ok 0x7F0000000000 false ∧ (seeH []).s.bankOk 0 0x7F0000000000 = false ∧
    (seeH []).xlat 0x60000 true true = .ok 0x400000000000 false ∧ (seeH []).s.hostOff 0x400000000000 = true ∧
    (seeH []).xlat 0x40000 true true = .ok 0x8010000000000 false ∧ regionOf 0x8010000000000 = .peer ∧
      peerPort (seeH []).s 0x8010000000000 = none := by
  refine ⟨fun a h => ⟨⟨_, rfl, rfl, show (0x100 : Word) ≠ 0 by decide⟩, ?_, rfl, fun i hi => ?_⟩, by decide⟩
  · simp only [List.mem_cons, List.not_mem_nil, or_false] at h
    rcases h with rfl | rfl | rfl | rfl | rfl | rfl | rfl | rfl | rfl <;> decide
  · simp only [List.mem_cons, List.not_mem_nil, or_false] at hi
    rcases hi with rfl | rfl | rfl | rfl | rfl | rfl | rfl | rfl <;> exact ready_of view_of rfl

theorem witness_Atomics : (let s := [(1, 0x10010), (2, 3)]
    Calm (seeM s) ∧ (seeM s).s.wholeLines ∧ Reaches (seeM s) 0x10010 8 true true 0x110010 false ∧ Reaches (seeM s) 0x10010 16 true true 0x110010 false ∧
    Ready .s (.amo .add 4 1 2) (runM s) (seeM s) ∧ Ready .s (.cas 4 1 2) (runM s) (seeM s) ∧ Ready .s (.cas2 4 1 2) (runM s) (seeM s)) ∧
    (let r : Result := ⟨.s 4, 0, BitVec.allOnes 256, false, none, 0, 0⟩
    let t := { task [] with pend := [⟨.atomic (some .add) 0x10010 0x110010 8 3 0, [r], 990, 995, none, none, 0⟩] }
    (runT t).settledWatches ∧ (runT t).core 0 = core t ∧ (core t).task = some t ∧ (runT t).ccache = [] ∧ (core t).l1 = [] ∧ (runT t).err = [] ∧
      (runT t).hbm = State.reset.hbm ∧ 990 < (runT t).cyc ∧ regionOf 0x110010 = .hbm) :=
  ⟨⟨calm_runM _, whole_of, reaches_of (by decide), reaches_of (by decide), rdyM (by decide), rdyM (by decide), rdyM (by decide)⟩,
    rfl, rfl, rfl, rfl, rfl, rfl, rfl, by decide⟩

theorem witness_BranchesAndCalls : let s := [(1, 0x3FFF8), (31, 0x80), (2, 0x41)]
    (see s).t.pc < 0x40000 ∧ (∀ p ∈ [(Slot.s, Instr.br 4), (.s, .bri 1), (.s, .call 4), (.s, .calli 1), (.s, .ret), (.s, .bri 2)],
      Ready p.1 p.2 (run s) (see s)) ∧ ((see s).t.pc : Int) + 8 * (4 : BitVec 32).toInt = 0x60 ∧
    (0x3FFF8 % 8 = 0 ∧ 0x3FFF8 < 0x40000) ∧ (see s).t.regs.sreg 31 = 0x80 ∧ ((see s).t.regs.sreg 2).toNat % 8 ≠ 0 ∧ (run s).catches :=
  ⟨by decide, rdyAll rfl rfl (by decide), by decide, by decide, by decide, by decide, catches_run _⟩

theorem witness_Loops :
    (let s := [(1, 9)]; let m := see s
    (4 : BitVec 20) ≠ 0 ∧ m.t.pc + 8 * 4 < 0x40000 ∧ m.t.pc + 16 < 0x40000 ∧ m.t.pc % 8 = 0 ∧ m.t.loops.l0.active = false ∧
      m.t.loops.l1.active = false ∧ m.t.regs.sreg 1 ≠ 0 ∧ m.t.regs.sreg 2 = 0 ∧
      (∀ p ∈ [(Slot.s, Instr.loop true 4 1), (.s, .loopi false 4 3), (.s, .loop false 4 2), (.s, .loopi true 4 0)], Ready p.1 p.2 (run s) m)) ∧
    (let t := looping [(1, 9)] ⟨2, 0x80, 0x90, true⟩
    t.loops.l0.active = true ∧ t.loops.l0.lc ≠ 0 ∧ (runT t).catches ∧ Ready .s (.loop false 4 1) (runT t) (seeT t) ∧
      Ready .s (.loopi false 4 3) (runT t) (seeT t)) ∧
    (∀ n ∈ [1, 2], let t := looping [] ⟨n, 0x20, 0x40, true⟩
      ((runT t).mach (runT t).cur).map Mach.view = some (seeT t) ∧ t.iter = 0 ∧ t.flow = Flow.none ∧ t.sticky = StickySet.quiet ∧
        (runT t).settledWatches ∧ t.loops.l1.active = false ∧ t.loops.l0 = ⟨n, 0x20, 0x40, true⟩ ∧ (0x40 : Word).toNat = t.pc) :=
  ⟨⟨by decide, by decide, by decide, by decide, rfl, rfl, by decide, by decide, rdyAll rfl rfl (by decide)⟩,
    ⟨rfl, by decide, ⟨_, rfl, rfl, by decide⟩, rdyT rfl rfl (by decide), rdyT rfl rfl (by decide)⟩,
    fun _ _ => ⟨view_of, rfl, rfl, rfl, rfl, rfl, rfl, rfl⟩⟩

/-- A tensor of rank 1: `n` elements of format 1 (FP32) at `base`. -/
def rec1 (base n : Nat) (fmt : Nat := 1) (by_ : Nat := 4) : Record :=
  BitVec.ofNat 768 (base + fmt * 2 ^ 64 + 2 ^ 72 + n * 2 ^ 128 + 2 ^ 160 + 2 ^ 192 + 2 ^ 224 + by_ * 2 ^ 256)

theorem witness_TableOperationsAndTlbInvalidation :
    (let s := [(1, 4095), (2, 4096)]
    let u := { run s with tables := [(4095, 77)] }
    (see s).t.regs.sreg 1 = 4095 ∧ (see s).t.regs.sreg 2 = 4096 ∧ (run s).catches ∧ Ready .s (.tidw 8 2) (run s) (see s) ∧
      Ready .s (.tidi 1) (run s) (see s) ∧ (seen u (task s)).s.tid 0 4095 = some 77 ∧ Ready .s (.tidr 8 1) u (seen u (task s))) ∧
    (let t := { task [(1, 4095)] with regs := { (task [(1, 4095)]).regs with h := [(8, (rec1 0x10000 64).setWidth 256), (9, 4)] } }
    recordBad (BitVec.ofNat 768 ((t.regs.hreg 8).toNat + 2 ^ 256 * (t.regs.hreg 9).toNat + 2 ^ 512 * (t.regs.hreg 10).toNat)) = none ∧
      Ready .s (.tidw 8 1) (runT t) (seeT t)) ∧
    (let t := sup [(1, 7)]; t.x.sv = true ∧ Ready .s (.tlbi .addr 1) (runT t) (seeT t)) :=
  ⟨⟨by decide, by decide, catches_run _, rdy (by decide), rdy (by decide), rfl, rdyS (by decide)⟩,
    ⟨by decide +kernel, rdyT rfl rfl (by decide)⟩, rfl, rdyT rfl rfl (by decide)⟩

/-! ## Witnesses: vector and matrix operations -/

/-- Common fields: lane predicate Q0, and a type. -/
def vc (f : Fmt) : VCom := ⟨0, false, f, 0⟩

theorem witness_VectorElementwise :
    (∀ i ∈ [Instr.vfma .v0 (vc 1) ⟨1, 2⟩ ⟨3, 4⟩ ⟨5, 63⟩, .vexp2 (vc 2) ⟨1, 2⟩ ⟨1, 2⟩, .vsra .v1 (vc 12) ⟨1, 2⟩ ⟨3, 4⟩ ⟨5, 63⟩,
        .vamax .v0 (vc 3) ⟨1, 2⟩ ⟨3, 4⟩, .vmov .v1 (vc 9) ⟨1, 2⟩ ⟨3, 4⟩],
      (vectorElem i).isSome = true ∧ i.wellFormed = true) ∧
    (∀ p ∈ [(Slot.v0, Instr.vfma .v0 (vc 1) ⟨1, 2⟩ ⟨3, 4⟩ ⟨5, 63⟩), (.v1, .vexp2 (vc 2) ⟨1, 2⟩ ⟨1, 2⟩),
        (.v1, .vsra .v1 (vc 12) ⟨1, 2⟩ ⟨3, 4⟩ ⟨5, 63⟩), (.v0, .vamax .v0 (vc 3) ⟨1, 2⟩ ⟨3, 4⟩), (.v1, .vmov .v1 (vc 9) ⟨1, 2⟩ ⟨3, 4⟩),
        (.v0, .vcmul .v0 (vc 14) ⟨1, 2⟩ ⟨3, 4⟩ ⟨5, 63⟩)], Ready p.1 p.2 (run []) (see [])) ∧
    Instr.wellFormed (.vcmul .v0 (vc 14) ⟨1, 2⟩ ⟨3, 4⟩ ⟨5, 63⟩) = true :=
  ⟨by decide, rdyAll rfl rfl (by decide), by decide⟩

theorem witness_VectorComparesAndPredicateLogic :
    (∀ i ∈ [Instr.vcmp .v0 (vc 2) .un 4 ⟨1, 2⟩ ⟨3, 4⟩, .vicmp .v1 (vc 12) .le 4 ⟨1, 2⟩ ⟨3, 4⟩, .vplen .v0 (vc 9) 4 1], i.wellFormed = true) ∧
    ∀ p ∈ [(Slot.v0, Instr.vcmp .v0 (vc 2) .un 4 ⟨1, 2⟩ ⟨3, 4⟩), (.v1, .vicmp .v1 (vc 12) .le 4 ⟨1, 2⟩ ⟨3, 4⟩),
      (.v0, .vplen .v0 (vc 9) 4 1), (.v1, .vplog .v1 (vc 0) .andn 6 1 2)], Ready p.1 p.2 (run []) (see []) :=
  ⟨by decide, rdyAll rfl rfl (by decide)⟩

theorem witness_VectorSelectsAndPermutes :
    (∀ i ∈ [Instr.vsel .v0 (vc 7) ⟨1, 2⟩ ⟨3, 4⟩ ⟨5, 6⟩, .vbc .v1 (vc 12) ⟨1, 2⟩ 1, .vperm .v0 (vc 9) ⟨1, 2⟩ ⟨3, 4⟩ ⟨5, 6⟩,
      .vrot .v1 (vc 2) ⟨1, 2⟩ ⟨3, 4⟩ 1], i.wellFormed = true) ∧
    ∀ p ∈ [(Slot.v0, Instr.vsel .v0 (vc 7) ⟨1, 2⟩ ⟨3, 4⟩ ⟨5, 6⟩), (.v1, .vbc .v1 (vc 12) ⟨1, 2⟩ 1),
      (.v0, .vperm .v0 (vc 9) ⟨1, 2⟩ ⟨3, 4⟩ ⟨5, 6⟩), (.v1, .vrot .v1 (vc 2) ⟨1, 2⟩ ⟨3, 4⟩ 1)], Ready p.1 p.2 (run []) (see []) :=
  ⟨by decide, rdyAll rfl rfl (by decide)⟩

theorem witness_VectorReductions : (∀ i ∈ [Instr.vred .v0 (vc 7) .sum ⟨1, 2⟩ ⟨3, 4⟩, .vred .v1 (vc 12) .max ⟨1, 2⟩ ⟨3, 4⟩], i.wellFormed = true) ∧
    Fmt.inI 7 = true ∧ ∀ p ∈ [(Slot.v0, Instr.vred .v0 (vc 7) .sum ⟨1, 2⟩ ⟨3, 4⟩), (.v1, .vred .v1 (vc 12) .max ⟨1, 2⟩ ⟨3, 4⟩)],
      Ready p.1 p.2 (run []) (see []) := ⟨by decide, by decide, rdyAll rfl rfl (by decide)⟩

theorem witness_VectorConversions :
    (∀ i ∈ [Instr.vcvt .v0 (vc 7) ⟨1, 2⟩ ⟨3, 4⟩ 9 3, .vcvt .v0 (vc 7) ⟨1, 2⟩ ⟨3, 4⟩ 7 0, .vqnt .v1 (vc 4) true ⟨1, 2⟩ ⟨3, 4⟩ 1,
      .vdq .v0 (vc 1) ⟨1, 2⟩ ⟨3, 4⟩ 4], i.wellFormed = true) ∧
    ∀ p ∈ [(Slot.v0, Instr.vcvt .v0 (vc 7) ⟨1, 2⟩ ⟨3, 4⟩ 9 3), (.v0, .vcvt .v0 (vc 7) ⟨1, 2⟩ ⟨3, 4⟩ 7 0),
      (.v1, .vqnt .v1 (vc 4) true ⟨1, 2⟩ ⟨3, 4⟩ 1), (.v0, .vdq .v0 (vc 1) ⟨1, 2⟩ ⟨3, 4⟩ 4)], Ready p.1 p.2 (run []) (see []) :=
  ⟨by decide, rdyAll rfl rfl (by decide)⟩

/-- A task whose lane predicate Q1 makes element `e` of 4 bytes active, and no other. -/
def channel (e : Nat) : Task := let t := task []; { t with regs := { t.regs with q := [(1, BitVec.ofNat 256 (15 * 2 ^ (4 * e)))] } }

theorem witness_SplitAndSnap : (let s : SMap Word := [(1, BitVec.ofInt 64 (-149)), (2, 128)]
    (-149 : Int) ≤ ((see s).t.regs.sreg 1).toInt ∧ ((see s).t.regs.sreg 1).toInt ≤ 127 ∧
    (∀ i ∈ [Instr.vsnap .v0 (vc 1) ⟨1, 2⟩ ⟨3, 4⟩ 1, .vsplit .v0 ⟨1, false, 1, 0⟩ ⟨1, 2⟩ ⟨3, 4⟩ ⟨5, 6⟩], i.wellFormed = true) ∧
    (∀ p ∈ [(Slot.v0, Instr.vsnap .v0 (vc 1) ⟨1, 2⟩ ⟨3, 4⟩ 1), (.v0, .vsnap .v0 (vc 1) ⟨1, 2⟩ ⟨3, 4⟩ 2),
      (.v0, .vsplit .v0 ⟨1, false, 1, 0⟩ ⟨1, 2⟩ ⟨3, 4⟩ ⟨5, 6⟩)], Ready p.1 p.2 (run s) (see s)) ∧
    127 < ((see s).t.regs.sreg 2).toInt ∧ (run s).catches ∧ ∀ k, k < 256 → laneOn (see s) ⟨1, false, 1, 0⟩ k = false) ∧
    (let s : SMap Word := [(1, BitVec.ofInt 64 (-150))]
    ((see s).t.regs.sreg 1).toInt < -149 ∧ (run s).catches ∧ Ready .v0 (.vsnap .v0 (vc 1) ⟨1, 2⟩ ⟨3, 4⟩ 1) (run s) (see s)) ∧
    (∀ e ∈ [(2, 61), (63, 0)], let t := channel e.1
      Ready .v0 (.vsplit .v0 ⟨1, false, 1, 0⟩ ⟨1, 2⟩ ⟨3, 4⟩ ⟨5, 6⟩) (runT t) (seeT t) ∧ (runT t).catches ∧
        ((List.range 64).filter fun j => laneOn (seeT t) ⟨1, false, 1, 0⟩ (j * 4)) = [e.1] ∧ 63 - e.1 = e.2) :=
  ⟨⟨by decide, by decide, by decide, rdyAll rfl rfl (by decide), by decide, catches_run _, by decide +kernel⟩,
    ⟨by decide, catches_run _, rdy (by decide)⟩,
    both ⟨rdyT rfl rfl (by decide), ⟨_, rfl, rfl, by decide⟩, by decide +kernel, rfl⟩
      ⟨rdyT rfl rfl (by decide), ⟨_, rfl, rfl, by decide⟩, by decide +kernel, rfl⟩⟩

/-- The memory form with lane predicate Q0 or its negation, row 3 of tile 2, base S1. -/
def vm (neg : Bool) : VMemF := ⟨0, neg, ⟨2, 3⟩, 1, 0, 0⟩

/-- A D-mode task that tracks taint, its row 3 of tile 2 tainted. -/
def tainted : Task :=
  let t := paged [(1, 0x10000)]
  { t with x := { t.x with dm := true, te := true }, regs := { t.regs with rows := [(131, ⟨0, true, none⟩)] } }
abbrev runV : State := on { withPages [] with task := some tainted }

theorem witness_VectorMemory : let s := [(1, 0x10000)]
    Calm (seeM s) ∧ (seeM s).s.wholeLines ∧ (seeM s).t.regs.qreg 0 = BitVec.allOnes 256 ∧ (∀ j, j < 4 → isScratch (0x10000 + 64 * j) = isScratch 0x10000) ∧
    ((seeM s).t.regs.sreg 1 + BitVec.ofInt 64 (64 * (0 : BitVec 16).toInt)).toNat = 0x10000 ∧
    (∀ j ∈ [0, 1, 2, 3], Reaches (seeM s) (0x10000 + 64 * j) 64 true false (0x110000 + 64 * j) false ∧
      Reaches (seeM s) (0x10000 + 64 * j) 64 false true (0x110000 + 64 * j) false) ∧
    Fmt.inW 7 = true ∧ Reaches (seeM s) 0x10000 4 true false 0x110000 false ∧ (seeM s).t.x.dm = false ∧
    (∀ i ∈ [Instr.vld (vm false) 0, .vlds (vm false) 7 0, .vst (vm false), .vld (vm true) 0, .vlds (vm true) 7 0, .vst (vm true)],
      i.wellFormed = true ∧ readyB .v0 i (runM s) (seeM s) = true) ∧
    (let m := seen runV tainted
    Calm m ∧ runV.catches ∧ m.t.x.dm = true ∧ m.t.x.te = true ∧ (rowRead m ⟨2, 3⟩).taint = true ∧
      (∀ j ∈ [0, 1, 2, 3], Reaches m (0x10000 + 64 * j) 64 false true (0x110000 + 64 * j) false) ∧ regionOf 0x110000 ≠ .scratch ∧
      Ready .v0 (.vst (vm false)) runV m) :=
  ⟨calm_runM _, whole_of, rfl, by decide, by decide,
    by intro j hj; simp only [List.mem_cons, List.not_mem_nil, or_false] at hj; rcases hj with rfl | rfl | rfl | rfl <;>
        exact ⟨reaches_of (by decide), reaches_of (by decide)⟩,
    by decide, reaches_of (by decide), rfl, by decide, calm_of, ⟨_, rfl, rfl, by decide⟩, rfl, rfl, rfl,
    by intro j hj; simp only [List.mem_cons, List.not_mem_nil, or_false] at hj; rcases hj with rfl | rfl | rfl | rfl <;>
        exact reaches_of (by decide),
    by decide, rdyS (by decide)⟩

/-- Tiles 0 and 1 of INT8, 2 of INT32; the matrix registers live, the array configured for one tile each. -/
def mat (tc : Nat) : Task :=
  let t := task [(1, 0x400), (2, 0x3FF), (3, 0x4000)]
  { t with regs := { t.regs with ts := [(0, 0x3F9), (1, 0x3F9), (2, 0x3F7)] }
           mat := { MatLoop.start with cfg := 0x3C40, msp := 4, mlm := 1, mln := 2, mlk := 1, inn := tc } }

/-- A record that MDUP binds: two entries of a map at the start of the own-cluster scratchpad. -/
def dup : Record := BitVec.ofNat 768 ((rec1 0x10000 64).toNat + 0x7E0000000000 * 2 ^ 600 + 2 * 2 ^ 664)

def dupTask : Task := let t := paged []; { t with regs := { t.regs with h := [(3, 0x10005)] } }
def dupState : State :=
  { on { core dupTask with mdup := some 999, tlb := [page 0x7E0000000000 0x7E0000000000] } with
      tables := [(5, dup)], banks := [(0, ⟨.scratchpad, none, none, [], false⟩)], mem := [(0x7F0000000006, 1)] }

theorem witness_MatrixOperations :
    (let t := mat 0
    Calm (seeT t) ∧ (∀ p ∈ [(Slot.m, Instr.mcfg 1), (.m, .mcfg 2), (.m, .mcfg 3), (.m, .mzero 23), (.m, .mfin 2 3 2), (.m, .mtrn 3 1)],
      Ready p.1 p.2 (runT t) (seeT t)) ∧ (t.regs.sreg 1).toNat = 2 ^ 10 ∧ (t.regs.sreg 2).toNat < 2 ^ 10 ∧
      (t.regs.sreg 3).toNat = 2 ^ 14 ∧ (runT t).catches ∧ (core t).steps = [] ∧
      (core t).mopFull 0 = false ∧ (core t).mopFull 1 = false ∧ (core t).mopFull 2 = false ∧ Instr.wellFormed (.mfin 2 3 2) = true ∧
      (t.regs.shape 2).toNat % 16 = 7 ∧ Fmt.bits (BitVec.ofNat 4 ((t.regs.shape 1).toNat % 16)) ≠ 0 ∧
      (∀ r, r < 64 → (t.regs.row (64 * 2 + r)).poison = none)) ∧
    (let m := seen dupState dupTask
    let v := m.t.regs.hreg 3
    handleBad v false = false ∧ hKind v ≠ 0 ∧ m.s.tid 0 (hId v) = some dup ∧ (recDcnt dup = 2 ∧ recDmap dup = 0x7E0000000000 ∧
      recScaled dup = false ∧ ownScratch m (recDmap dup) 8 = true ∧ m.c.mdup.getD 1000 + (2 + 31) / 32 ≤ 1000 ∧
      littleEndian (nearByte m) 0x7F0000000000 4 = 0 ∧ littleEndian (nearByte m) 0x7F0000000004 4 = 65536) ∧
      (∀ i ∈ [0, 1], Reaches m (recDmap dup + 4 * i) 4 true false (0x7F0000000000 + 4 * i) false) ∧
      Ready .m (.mdup 3) dupState m) :=
  ⟨⟨calm_of, rdyAll rfl rfl (by decide), by decide, by decide, by decide, ⟨_, rfl, rfl, by decide⟩, rfl, rfl, rfl, rfl,
      by decide, by decide, by decide, by decide⟩,
    by decide, by decide, rfl, by and_intros <;> decide +kernel, both (reaches_of (by decide +kernel)) (reaches_of (by decide +kernel)),
    rdyS (by decide)⟩

/-- A step of the array of core 0 on tiles 0, 1 and 2. -/
def step1 (start : Option Nat) : MStepRec :=
  { uid := 7, var := .int8, c := 2, a := 0, b := 1, ablk := 0, bblk := 0, rowsA := 63, rowsB := 63, quarters := 15, zeroC := false, kpos := 0
    bind := MBind.none, ascale := [], bscale := [], te := false, issue := 900, start := start, ra := [], rb := [], taint := false }

theorem witness_MatrixSteps :
    (let t := mat 0
    Calm (seeT t) ∧ Ready .m (.mstep .int8 2 0 1) (runT t) (seeT t) ∧ t.mat.msp / 4 % 2 = 1 ∧
      (∀ k ∈ [0, 1, 2], k < t.budget.t ∧ (core t).opBusy k = false ∧ ∀ r, r < 64 → (t.regs.row (64 * k + r)).poison = none) ∧
      (t.regs.shape 0).toNat % 16 = (MVar.spec .int8).fa.toNat ∧ (t.regs.shape 1).toNat % 16 = (MVar.spec .int8).fb.toNat ∧
      (t.regs.shape 2).toNat % 16 = (MVar.spec .int8).fc.toNat ∧ t.bind.scaled = false ∧ (core t).steps = []) ∧
    (Ready .m (.mstep .int8 2 0 1) (run []) (see []) ∧ (see []).t.mat.msp / 4 % 2 = 0) ∧
    (let t := mat 1
    Ready .m (.mstep .int8 23 0 1) (runT t) (seeT t) ∧ (runT t).catches ∧
      23 + (t.mat.im * t.mat.mln + t.mat.inn) % (t.mat.cfg / 64 % 8 + 1) = 24) ∧
    (∀ st ∈ [none, some 960], let c := { core (mat 0) with steps := [step1 st] }
      (on c).settledWatches ∧ ((on c).core 0).steps = [step1 st] ∧ (step1 st).issue < (on c).cyc ∧ c.arrayFree ≤ (on c).cyc ∧
        c.task = some (mat 0) ∧ (mat 0).uid = (step1 st).uid ∧ (mat 0).logs = [] ∧ (mat 0).flight = [] ∧ (step1 st).rowsA < 64) ∧
    960 + 40 ≤ (run []).cyc ∧ ∀ r, r < 64 → ((mat 0).regs.row (64 * 2 + r)).poison = none :=
  ⟨⟨calm_of, rdyT rfl rfl (by decide), by decide, by decide, by decide, by decide, by decide, rfl, rfl⟩,
    ⟨rdy (by decide), by decide⟩, ⟨rdyT rfl rfl (by decide), ⟨_, rfl, rfl, by decide⟩, by decide⟩,
    fun _ _ => ⟨rfl, rfl, show 900 < 1000 by decide, show 0 ≤ 1000 by decide, rfl, rfl, rfl, rfl, show 63 < 64 by decide⟩, by decide, by decide⟩

/-! ## Decoding: every slot operation by a word written from R39 to R45

A word is an opcode in bits 63:56 and fields, each the number of its lowest bit with its value; the guard, bits 55:51, is P0. -/

def wordOf (op : Nat) (fs : List (Nat × Nat)) : Nat := fs.foldl (fun n f => n + f.2 * 2 ^ f.1) (op * 2 ^ 56)

/-- Whether each word decodes in the slot to the operation beside it. -/
def decodes (sl : Slot) (l : List (Nat × Instr)) : Bool := l.all fun e => match decSyl sl e.1 with
  | .ok i => decide (i = e.2)
  | .bad _ => false

/-- Form SA: d 50:45, a 44:39, b 38:33, fn 32:27. -/
def sa (op d a b fn : Nat) : Nat := wordOf op [(45, d), (39, a), (33, b), (27, fn)]
/-- Form SI: d 50:45, a 44:39, fn 38:33, imm 32:0. -/
def si (op d a fn imm : Nat) : Nat := wordOf op [(45, d), (39, a), (33, fn), (0, imm)]
/-- Form SM: d 50:45, a 44:39, size 38:36, reuse 35:33, offset 32:0. -/
def sm (op d a size reuse off : Nat) : Nat := wordOf op [(45, d), (39, a), (36, size), (33, reuse), (0, off)]
/-- Form SH: h 50:46, s 45:40, sel 39:35, h2 34:30. -/
def sh (op h s sel h2 : Nat) : Nat := wordOf op [(46, h), (40, s), (35, sel), (30, h2)]

theorem test_decode_scalar_arithmetic : decodes .s
    [(sa 0x01 3 1 2 0, .add 3 1 2), (sa 0x02 63 62 61 0, .sub 63 62 61), (sa 0x03 3 1 2 0, .and 3 1 2), (sa 0x04 3 1 2 0, .or 3 1 2),
     (sa 0x05 3 1 2 0, .xor 3 1 2), (sa 0x06 3 1 2 0, .shl 3 1 2), (sa 0x07 3 1 2 0, .shr 3 1 2), (sa 0x08 3 1 2 0, .sra 3 1 2),
     (sa 0x09 3 1 2 0, .mul 3 1 2), (sa 0x0A 3 1 2 1, .mulh true 3 1 2), (sa 0x0B 3 1 2 0, .div false 3 1 2), (sa 0x0C 3 1 2 1, .rem true 3 1 2),
     (sa 0x0D 3 1 2 0, .min false 3 1 2), (sa 0x0E 3 1 2 1, .max true 3 1 2), (sa 0x0F 3 1 0 0, .clz 3 1), (sa 0x10 3 1 0 0, .popc 3 1),
     (sa 0x11 3 1 2 0, .bext 3 1 2), (sa 0x12 3 1 2 0, .bins 3 1 2), (wordOf 0x17 [(45, 5), (0, 0x4F1BB)], .ldih 5 0x4F1BB),
     (si 0x18 3 1 0 0x1FFFFFFFF, .addi 3 1 (-1)), (si 0x19 3 1 0 7, .andi 3 1 7), (si 0x1A 3 1 0 7, .ori 3 1 7), (si 0x1B 3 1 0 7, .xori 3 1 7),
     (si 0x1C 3 1 0 63, .shli 3 1 63), (si 0x1D 3 1 0 1, .shri 3 1 1), (si 0x1E 3 1 0 1, .srai 3 1 1),
     (wordOf 0x1F [(45, 5), (0, 2 ^ 45 - 1)], .ldi 5 (-1)), (sa 0x20 4 1 2 3, .cmp .ltu 4 1 2), (si 0x21 14 1 5 100, .cmpi .leu 14 1 100),
     (sa 0x22 4 5 6 0x13, .sel 4 5 6 3 true), (sa 0x23 4 1 15 3, .plog .andn 4 1 15)] = true := by decide

theorem test_decode_scalar_memory : decodes .s
    [(sm 0x30 3 1 6 5 8, .ld .d 3 1 5 8), (sm 0x30 3 1 1 0 0x1FFFFFFFF, .ld .bu 3 1 0 (-1)), (sm 0x31 3 1 4 0 8, .st .w 3 1 8),
     (sm 0x32 4 1 6 2 8, .ldp 4 1 2 8), (sm 0x33 4 1 6 0 8, .stp 4 1 8), (sm 0x34 3 1 3 0 8, .ldc .hu 3 1 8),
     (sh 0x60 8 1 0 0, .tidw 8 1), (sh 0x61 12 1 0 0, .tidr 12 1), (sh 0x62 0 63 0 0, .tidi 63), (sa 0x63 3 1 2 6, .amo .swp 3 1 2),
     (sa 0x64 3 1 2 0, .cas 3 1 2), (sa 0x65 4 1 2 0, .cas2 4 1 2)] = true := by decide

theorem test_decode_scalar_control : decodes .s
    [(wordOf 0x40 [(19, 2 ^ 32 - 4)], .br (-4)), (wordOf 0x41 [(13, 31)], .bri 31), (wordOf 0x42 [(19, 4)], .call 4), (wordOf 0x43 [(13, 5)], .calli 5),
     (wordOf 0x44 [], .ret), (wordOf 0x45 [(50, 1), (30, 9), (24, 3)], .loop true 9 3), (wordOf 0x46 [(30, 9), (0, 2 ^ 30 - 1)], .loopi false 9 (-1)),
     (wordOf 0x50 [(45, 3), (33, 0x104)], .movx 3 0x104), (wordOf 0x51 [(45, 3), (33, 0x20)], .movxw 0x20 3), (sh 0x52 3 0 0 31, .hmov 3 31),
     (sh 0x53 3 5 2 0, .hget 5 3 2), (sh 0x54 3 5 3 0, .hset 3 3 5), (sh 0x55 3 5 1 0, .hadv 3 1 5),
     (wordOf 0x56 [(46, 23), (42, 7), (36, 63), (26, 63)], .tshape 23 7 63 63), (si 0x70 0 0 0 65535, .trap 65535), (si 0x71 0 0 0 7, .sysc 7),
     (wordOf 0x72 [], .eret), (sa 0x73 0 5 0 1, .tlbi .as 5)] = true := by decide

/-- The V format: Q 50:47, QN 46, Td 45:41, row d 40:35, Ta 34:30, row a 29:24, Tb 23:19, row b 18:13, type 12:9, step 8:3, fn 2:0; here
Q5, negated, step −1, rows 1.2, 3.4 and the second source as given. -/
def vw (op tb rb ty fn : Nat) : Nat :=
  wordOf op [(47, 5), (46, 1), (41, 1), (35, 2), (30, 3), (24, 4), (19, tb), (13, rb), (9, ty), (3, 63), (0, fn)]
def cv (ty : Fmt) : VCom := ⟨5, true, ty, -1⟩
/-- The same with the scalar register 33 in bits 23:18, and what stands in the first source. -/
def vsw (op td rd ta ra ty : Nat) : Nat :=
  wordOf op [(47, 5), (46, 1), (41, td), (35, rd), (30, ta), (24, ra), (18, 33), (9, ty), (3, 63)]

theorem test_decode_vector_elements : decodes .v0
    [(vw 0x01 5 6 1 0, .vadd .v0 (cv 1) ⟨1, 2⟩ ⟨3, 4⟩ ⟨5, 6⟩), (vw 0x02 5 6 2 0, .vsub .v0 (cv 2) ⟨1, 2⟩ ⟨3, 4⟩ ⟨5, 6⟩),
     (vw 0x03 5 6 3 0, .vmul .v0 (cv 3) ⟨1, 2⟩ ⟨3, 4⟩ ⟨5, 6⟩), (vw 0x04 5 6 1 0, .vfma .v0 (cv 1) ⟨1, 2⟩ ⟨3, 4⟩ ⟨5, 6⟩),
     (vw 0x05 5 6 1 0, .vfms .v0 (cv 1) ⟨1, 2⟩ ⟨3, 4⟩ ⟨5, 6⟩), (vw 0x06 5 6 1 0, .vmin .v0 (cv 1) ⟨1, 2⟩ ⟨3, 4⟩ ⟨5, 6⟩),
     (vw 0x07 5 6 1 0, .vmax .v0 (cv 1) ⟨1, 2⟩ ⟨3, 4⟩ ⟨5, 6⟩), (vw 0x08 0 0 1 0, .vabs .v0 (cv 1) ⟨1, 2⟩ ⟨3, 4⟩),
     (vw 0x09 0 0 1 0, .vneg .v0 (cv 1) ⟨1, 2⟩ ⟨3, 4⟩), (vw 0x0E 5 6 14 0, .vcmul .v0 (cv 14) ⟨1, 2⟩ ⟨3, 4⟩ ⟨5, 6⟩),
     (vw 0x10 5 6 7 0, .viadd .v0 (cv 7) ⟨1, 2⟩ ⟨3, 4⟩ ⟨5, 6⟩), (vw 0x11 5 6 8 0, .visub .v0 (cv 8) ⟨1, 2⟩ ⟨3, 4⟩ ⟨5, 6⟩),
     (vw 0x12 5 6 9 0, .vimul .v0 (cv 9) ⟨1, 2⟩ ⟨3, 4⟩ ⟨5, 6⟩), (vw 0x13 5 6 12 0, .vand .v0 (cv 12) ⟨1, 2⟩ ⟨3, 4⟩ ⟨5, 6⟩),
     (vw 0x14 5 6 7 0, .vor .v0 (cv 7) ⟨1, 2⟩ ⟨3, 4⟩ ⟨5, 6⟩), (vw 0x15 5 6 7 0, .vxor .v0 (cv 7) ⟨1, 2⟩ ⟨3, 4⟩ ⟨5, 6⟩),
     (vw 0x16 5 6 7 0, .vshl .v0 (cv 7) ⟨1, 2⟩ ⟨3, 4⟩ ⟨5, 6⟩), (vw 0x17 5 6 7 0, .vshr .v0 (cv 7) ⟨1, 2⟩ ⟨3, 4⟩ ⟨5, 6⟩),
     (vw 0x18 5 6 7 0, .vsra .v0 (cv 7) ⟨1, 2⟩ ⟨3, 4⟩ ⟨5, 6⟩)] = true := by decide

theorem test_decode_vector_special : decodes .v1
    [(vw 0x0A 0 0 1 0, .vrcp (cv 1) ⟨1, 2⟩ ⟨3, 4⟩), (vw 0x0B 0 0 1 0, .vrsq (cv 1) ⟨1, 2⟩ ⟨3, 4⟩), (vw 0x0C 0 0 1 0, .vexp2 (cv 1) ⟨1, 2⟩ ⟨3, 4⟩),
     (vw 0x0D 0 0 1 0, .vlog2 (cv 1) ⟨1, 2⟩ ⟨3, 4⟩)] = true := by decide

theorem test_decode_vector_rows : decodes .v1
    [(wordOf 0x20 [(47, 5), (46, 1), (41, 14), (30, 3), (24, 4), (19, 5), (13, 6), (9, 2), (3, 63), (0, 6)], .vcmp .v1 (cv 2) .un 14 ⟨3, 4⟩ ⟨5, 6⟩),
     (wordOf 0x21 [(47, 5), (46, 1), (41, 14), (30, 3), (24, 4), (19, 5), (13, 6), (9, 12), (3, 63), (0, 3)], .vicmp .v1 (cv 12) .ltu 14 ⟨3, 4⟩ ⟨5, 6⟩),
     (vw 0x22 5 6 13 0, .vsel .v1 (cv 13) ⟨1, 2⟩ ⟨3, 4⟩ ⟨5, 6⟩), (wordOf 0x23 [(47, 5), (46, 1), (41, 14), (18, 33), (9, 9)], .vplen .v1 ⟨5, true, 9, 0⟩ 14 33),
     (wordOf 0x24 [(47, 5), (46, 1), (41, 14), (30, 3), (19, 15), (0, 2)], .vplog .v1 ⟨5, true, 0, 0⟩ .xor 14 3 15),
     (vw 0x30 0 0 5 0, .vmov .v1 (cv 5) ⟨1, 2⟩ ⟨3, 4⟩), (vsw 0x31 1 2 0 0 8, .vbc .v1 (cv 8) ⟨1, 2⟩ 33),
     (vw 0x32 0 0 7 3, .vred .v1 (cv 7) .asum ⟨1, 2⟩ ⟨3, 4⟩), (vw 0x33 5 6 9 0, .vperm .v1 (cv 9) ⟨1, 2⟩ ⟨3, 4⟩ ⟨5, 6⟩),
     (vsw 0x34 1 2 3 4 2, .vrot .v1 (cv 2) ⟨1, 2⟩ ⟨3, 4⟩ 33), (vw 0x40 9 0 7 3, .vcvt .v1 (cv 7) ⟨1, 2⟩ ⟨3, 4⟩ 9 3),
     (vw 0x41 2 0 4 1, .vqnt .v1 (cv 4) true ⟨1, 2⟩ ⟨3, 4⟩ 2), (vw 0x42 4 0 1 0, .vdq .v1 (cv 1) ⟨1, 2⟩ ⟨3, 4⟩ 4),
     (vw 0x43 0 0 1 0, .vamax .v1 (cv 1) ⟨1, 2⟩ ⟨3, 4⟩), (vw 0x44 5 6 1 0, .vsplit .v1 (cv 1) ⟨1, 2⟩ ⟨3, 4⟩ ⟨5, 6⟩),
     (vsw 0x45 1 2 3 4 1, .vsnap .v1 (cv 1) ⟨1, 2⟩ ⟨3, 4⟩ 33)] = true := by decide

/-- The memory form: Q 50:47, QN 46, T 45:41, row 40:35, base 34:29, offset 28:13, type 12:9, step 8:3, reuse 2:0. -/
def vmw (op ty reuse : Nat) : Nat :=
  wordOf op [(47, 5), (46, 1), (41, 1), (35, 2), (29, 33), (13, 65535), (9, ty), (3, 63), (0, reuse)]

theorem test_decode_vector_memory : decodes .v0
    [(vmw 0x60 0 4, .vld ⟨5, true, ⟨1, 2⟩, 33, -1, -1⟩ 4), (vmw 0x61 0 0, .vst ⟨5, true, ⟨1, 2⟩, 33, -1, -1⟩),
     (vmw 0x62 13 7, .vlds ⟨5, true, ⟨1, 2⟩, 33, -1, -1⟩ 13 7)] = true := by decide

theorem test_decode_matrix : decodes .m
    [(wordOf 0x01 [(45, 33)], .mcfg 33), (wordOf 0x02 [(46, 23), (41, 3), (36, 9), (32, 6)], .mstep .tern 23 3 9), (wordOf 0x03 [(46, 23)], .mzero 23),
     (wordOf 0x04 [(46, 2), (41, 3), (37, 7)], .mfin 7 3 2), (wordOf 0x05 [(46, 3), (41, 2)], .mtrn 3 2), (wordOf 0x06 [(46, 31)], .mdup 31)] = true := by
  decide

/-- The copy form: hd 50:46, hs 45:41, prm 40:35, cnt 34:29, step 28:13, SDIM 12:11, fn 10:8, TGT 7, hx 6:2. -/
def cw (op hd hs prm cnt step sdim fn tgt hx : Nat) : Nat :=
  wordOf op [(46, hd), (41, hs), (35, prm), (29, cnt), (13, step), (11, sdim), (8, fn), (7, tgt), (2, hx)]

theorem test_decode_copy : decodes .c1
    [(cw 0x01 1 2 3 4 65535 2 0 1 0, .cpy .c1 1 2 ⟨3, 4⟩ ⟨-1, 2, true⟩), (cw 0x02 1 2 3 4 5 2 1 0 0, .cpyq .c1 true 1 2 ⟨3, 4⟩ ⟨5, 2, false⟩),
     (cw 0x03 1 2 3 4 5 2 0 0 0, .cpyd .c1 1 2 ⟨3, 4⟩ ⟨5, 2, false⟩), (cw 0x04 1 2 3 4 5 2 3 0 0, .cpyr .c1 .max 1 2 ⟨3, 4⟩ ⟨5, 2, false⟩),
     (cw 0x05 1 0 3 4 5 2 0 1 0, .cfill .c1 1 ⟨3, 4⟩ 5 2), (cw 0x06 1 2 3 4 5 2 0 0 31, .cgat .c1 1 2 31 ⟨3, 4⟩ ⟨5, 2, false⟩),
     (cw 0x07 1 2 3 4 5 2 0 1 31, .csct .c1 1 2 31 ⟨3, 4⟩ ⟨5, 2, true⟩), (cw 0x08 1 2 3 4 0 0 0 0 0, .wopen .c1 1 2 ⟨3, 4⟩),
     (cw 0x09 1 0 3 4 65535 0 0 0 0, .wadv .c1 1 65535 ⟨3, 4⟩), (cw 0x0A 1 0 0 4 0 0 0 0 0, .wclose .c1 1 4),
     (cw 0x0B 0 2 0 4 5 2 0 0 0, .cpref .c1 2 4 5 2), (cw 0x0C 0 2 0 4 5 2 0 0 0, .cflush .c1 2 4 5 2),
     (wordOf 0x0D [(46, 23), (40, 60), (34, 63), (30, 11), (24, 33)], .fpush .c1 23 60 63 11 33),
     (wordOf 0x0E [(46, 23), (40, 60), (34, 63), (30, 11), (24, 33)], .fpop .c1 23 60 63 11 33), (wordOf 0x0F [(47, 11), (45, 2)], .cbank .c1 11 .fifo)] =
      true := by decide

theorem test_decode_optical : decodes .o
    [(wordOf 0x01 [(49, 2), (47, 1)], .omode .a16 .quad4), (wordOf 0x02 [(46, 1), (40, 4), (34, 3)], .omask 1 ⟨3, 4⟩),
     (wordOf 0x03 [(46, 1), (41, 2), (35, 5), (29, 4), (23, 3), (19, 8)], .oft 1 2 5 ⟨3, 4⟩ 8),
     (wordOf 0x04 [(46, 1), (41, 2), (35, 5), (29, 4), (23, 3), (19, 2)], .oift 1 2 5 ⟨3, 4⟩ 2),
     (wordOf 0x05 [(46, 1), (41, 2), (35, 5), (29, 4), (23, 3), (19, 6)], .oconv 1 2 5 ⟨3, 4⟩ 6), (wordOf 0x06 [(45, 4), (39, 3)], .ocal ⟨3, 4⟩),
     (wordOf 0x07 [(45, 5), (41, 6)], .ostat 5 .refpower)] = true := by decide

theorem test_decode_link : decodes .l
    [(wordOf 0x01 [(46, 31), (41, 2), (35, 4), (29, 3)], .lsend 31 2 ⟨3, 4⟩), (wordOf 0x02 [(46, 31), (41, 2), (35, 4), (29, 3)], .lrecv 31 2 ⟨3, 4⟩),
     (wordOf 0x03 [(46, 31), (40, 5), (34, 6), (28, 4), (22, 3), (18, 7)], .lradd true 31 5 6 ⟨3, 4⟩),
     (wordOf 0x04 [(46, 31), (40, 5), (34, 6), (28, 4), (22, 3)], .lqadd 31 5 6 ⟨3, 4⟩), (wordOf 0x05 [(46, 31), (40, 5)], .ltmo 31 5),
     (wordOf 0x06 [(45, 5)], .lring 5), (wordOf 0x07 [(45, 5), (40, 31)], .lstat 5 31), (wordOf 0x08 [(45, 5), (39, 6), (33, 7)], .lcadd 5 6 7)] = true := by
  decide

theorem test_decode_tasks : decodes .k
    [(wordOf 0x01 [(48, 7), (42, 5), (36, 6)], .spawn 7 5 6), (wordOf 0x02 [], .yield), (wordOf 0x03 [], .endTask), (wordOf 0x04 [(49, 3)], .barg .launch),
     (wordOf 0x05 [(45, 5)], .sleept 5), (wordOf 0x06 [(43, 255), (35, 1), (25, 1023), (19, 2)], .waito 255 1 1023 2),
     (wordOf 0x10 [(45, 5), (39, 6), (38, 1), (35, 4), (30, 31)], .cadd 5 6 true .system 31), (wordOf 0x11 [(45, 5), (39, 6), (38, 1), (35, 3)], .cwait 5 6 true .module),
     (wordOf 0x12 [(45, 5), (39, 6)], .cread 5 6), (wordOf 0x13 [(45, 5), (39, 6), (35, 2)], .waita 5 6 .chiplet),
     (wordOf 0x14 [(48, 1), (43, 16)], .drain .cluster 16), (wordOf 0x20 [(45, 5), (39, 6)], .lnch 5 6), (wordOf 0x21 [(47, 15), (41, 6)], .rlnch 15 6),
     (wordOf 0x22 [(47, 15), (41, 6)], .trarm 15 6), (wordOf 0x23 [(45, 5), (41, 15)], .trstat 5 15), (wordOf 0x30 [(44, 5), (38, 6)], .chk (.s 5 6)),
     (wordOf 0x30 [(50, 1), (45, 1), (39, 2), (34, 3), (28, 4)], .chk (.v ⟨1, 2⟩ ⟨3, 4⟩)), (wordOf 0x31 [(45, 5), (43, 1)], .digr true 5),
     (wordOf 0x32 [(45, 5)], .digx false 5), (wordOf 0x33 [(45, 33), (39, 3), (33, 0x02), (27, 1)], .kalu 33 3 (.reg .sub 1)),
     (wordOf 0x33 [(45, 33), (39, 3), (33, 0x18), (0, 2 ^ 33 - 1)], .kalu 33 3 (.imm .addi (-1))),
     (wordOf 0x33 [(45, 33), (39, 3), (33, 0x1E), (0, 63)], .kalu 33 3 (.shift .srai 63)), (wordOf 0x38 [(45, 5)], .ctxs 5), (wordOf 0x39 [(45, 5)], .ctxl 5)] =
      true := by decide

/-! ## Encodings that R24, R27 and R39 to R45 refuse -/

/-- Fields that must be zero, codes outside their lists, operations in a slot that lacks them. -/
theorem test_decode_refuses : ([(Slot.s, sa 0x01 3 1 2 1), (.s, sm 0x30 3 1 7 0 0), (.s, sm 0x31 3 1 1 0 0), (.s, sa 0x20 4 1 2 6), (.s, wordOf 0x45 [(24, 3)]),
    (.s, sa 0x22 4 5 6 0x20), (.s, wordOf 0x56 [(46, 24), (42, 7)]), (.s, wordOf 0x56 [(46, 2), (42, 15)]), (.v0, vw 0x01 5 6 7 0), (.v0, vw 0x0A 0 0 1 0),
    (.v1, vmw 0x60 0 0), (.v1, vsw 0x23 14 0 0 0 9), (.m, wordOf 0x02 [(32, 7)]), (.c0, cw 0x05 1 0 3 4 5 2 0 0 0), (.c0, cw 0x09 1 0 3 4 0 0 0 0 0), (.o, wordOf 0x01 [(49, 3)]),
    (.o, wordOf 0x03 [(19, 9)]), (.o, wordOf 0x07 [(41, 7)]), (.k, wordOf 0x11 [(35, 1)]), (.k, wordOf 0x14 [(48, 5)]), (.k, wordOf 0x33 [(45, 31), (33, 1)]),
    (.k, wordOf 0x33 [(45, 32), (33, 9)])] : List (Slot × Nat)).all (fun e => match decSyl e.1 e.2 with
      | .bad _ => true
      | .ok _ => false) = true := by decide

/-- A header with a slot both present and quiet, one that marks S quiet, and budgets without Y. -/
theorem test_header_refuses : ([⟨2, 2, 0, false, false, 0⟩, ⟨2, 1, 0, false, false, 0⟩, ⟨1, 0, 0, false, false, 5⟩, ⟨1, 0, 0, true, false, 0⟩] : List Header).all
    (fun h => !h.ok) = true := by decide

/-- An ill-formed term for each check of `wellFormed`. -/
theorem test_illFormed : ([.bundleIssue ⟨1, 0, 0, false, false, 0⟩ [], .st .bu 1 2 3, .loop false 0 1, .loopi true 0 1, .tshape 24 7 0 0, .tshape 1 15 0 0,
    .tlbi .all 1, .vadd .v0 (vc 7) ⟨1, 2⟩ ⟨3, 4⟩ ⟨5, 6⟩, .vadd .v0 (vc 1) ⟨24, 2⟩ ⟨3, 4⟩ ⟨5, 6⟩, .vabs .v0 (vc 9) ⟨1, 2⟩ ⟨3, 4⟩, .vcmul .v0 (vc 1) ⟨1, 2⟩ ⟨3, 4⟩ ⟨5, 6⟩,
    .viadd .v0 (vc 1) ⟨1, 2⟩ ⟨3, 4⟩ ⟨5, 6⟩, .vcmp .v0 (vc 7) .eq 2 ⟨1, 2⟩ ⟨3, 4⟩, .vicmp .v0 (vc 1) .eq 2 ⟨1, 2⟩ ⟨3, 4⟩, .vsel .v0 (vc 6) ⟨1, 2⟩ ⟨3, 4⟩ ⟨5, 6⟩,
    .vplen .v0 (vc 0) 2 1, .vplen .v0 ⟨0, false, 1, 1⟩ 2 1, .vplog .v0 (vc 1) .and 2 1 3, .vmov .v0 (vc 11) ⟨1, 2⟩ ⟨3, 4⟩, .vbc .v0 (vc 0) ⟨1, 2⟩ 1, .vred .v0 (vc 13) .sum ⟨1, 2⟩ ⟨3, 4⟩,
    .vcvt .v0 (vc 7) ⟨1, 2⟩ ⟨3, 4⟩ 9 4, .vqnt .v0 (vc 1) false ⟨1, 2⟩ ⟨3, 4⟩ 1, .vdq .v0 (vc 4) ⟨1, 2⟩ ⟨3, 4⟩ 4, .vlds (vm false) 6 0,
    .vld ⟨0, false, ⟨24, 0⟩, 1, 0, 0⟩ 0, .vst ⟨0, false, ⟨31, 0⟩, 1, 0, 0⟩, .mstep .int8 24 0 1, .mzero 24, .mfin 4 1 2, .mtrn 1 24, .wadv .c0 1 0 ⟨0, 0⟩,
    .fpush .c0 24 0 0 0 0, .oft 1 2 3 ⟨0, 0⟩ 1, .cadd 1 2 false .cluster 0, .cwait 1 2 false .cluster, .chk (.v ⟨24, 0⟩ ⟨1, 1⟩),
    .kalu 31 1 (.reg .add 2)] : List Instr).all (fun i => !i.wellFormed) = true := by decide

/-! ## Results written in the manual -/

/-- Vector operations with no predicate and no step. -/
def ve (ty : Fmt) : VCom := ⟨0, false, ty, 0⟩

/-- The table of *Vector Instructions*. -/
theorem test_examples_vector : (decodes .v1
    [(0x04000A1183388200, .vfma .v1 (ve 1) ⟨5, 2⟩ ⟨6, 3⟩ ⟨7, 4⟩), (0x0C00040040000200, .vexp2 (ve 1) ⟨2, 0⟩ ⟨1, 0⟩),
     (0x2400080080300003, .vplog .v1 (ve 0) .andn 4 2 6), (0x41000C0040080800, .vqnt .v1 (ve 4) false ⟨6, 0⟩ ⟨1, 0⟩ 1)] && decodes .v0
    [(0x1000020882187200, .viadd .v0 (ve 9) ⟨1, 1⟩ ⟨2, 2⟩ ⟨3, 3⟩), (0x2002040040100202, .vcmp .v0 ⟨4, false, 1, 0⟩ .lt 2 ⟨1, 0⟩ ⟨2, 0⟩),
     (0x3100020000140200, .vbc .v0 (ve 1) ⟨1, 0⟩ 5), (0x3200040040000E01, .vred .v0 (ve 7) .max ⟨2, 0⟩ ⟨1, 0⟩),
     (0x4000080040080401, .vcvt .v0 (ve 2) ⟨4, 0⟩ ⟨1, 0⟩ 1 1), (0x45000E0200240200, .vsnap .v0 (ve 1) ⟨7, 0⟩ ⟨8, 0⟩ 9),
     (0x61000400A0000000, .vst ⟨0, false, ⟨2, 0⟩, 5, 0, 0⟩), (0x62000600C0000200, .vlds ⟨0, false, ⟨3, 0⟩, 6, 0, 0⟩ 1 0),
     (0x23000400001C0200, .vplen .v0 (ve 1) 2 7)]) = true := by decide

/-- The examples of *Matrix Instructions and Task Control*. -/
theorem test_examples_matrix_and_tasks : (decodes .m
    [(0x0100800000000000, .mcfg 4), (0x0200044000000000, .mstep .bf16 0 2 4), (0x0200088600000000, .mstep .tern 0 4 8), (0x0300400000000000, .mzero 1),
     (0x04000C4000000000, .mfin 2 6 0), (0x0502060000000000, .mtrn 8 3), (0x0601000000000000, .mdup 4)] && decodes .k
    [(0x0101240000000000, .spawn 1 9 0), (0x0200000000000000, .yield), (0x0300000000000000, .endTask), (0x0400000000000000, .barg .cl),
     (0x0406000000000000, .barg .launch), (0x0500E00000000000, .sleept 7), (0x0600000004000000, .waito 0 0 2 0)]) = true := by decide

/-- The examples of *Copy, Window, Table and Synchronisation Instructions*; the rows of FPUSH and FPOP are held as one less than their number. -/
theorem test_examples_copy : (decodes .c0
    [(0x0100823920000000, .cpy .c0 2 1 ⟨7, 9⟩ ⟨0, 0, false⟩), (0x0200820000000000, .cpyq .c0 false 2 1 ⟨0, 0⟩ ⟨0, 0, false⟩),
     (0x0400C80120000100, .cpyr .c0 .i32 3 4 ⟨0, 9⟩ ⟨0, 0, false⟩), (0x0600820000000020, .cgat .c0 2 1 8 ⟨0, 0⟩ ⟨0, 0, false⟩),
     (0x0A01000000000000, .wclose .c0 4 0), (0x0B00020000000000, .cpref .c0 1 0 0 0), (0x0D00C00E4A000000, .fpush .c0 3 0 3 9 10),
     (0x0F04200000000000, .cbank .c0 8 .scratchpad)] && decodes .c1
    [(0x01018A0000080800, .cpy .c1 6 5 ⟨0, 0⟩ ⟨64, 1, false⟩), (0x0500800120000080, .cfill .c1 2 ⟨0, 9⟩ 0 0), (0x0E01480E40000000, .fpop .c1 5 8 3 9 0)] &&
    decodes .k
    [(0x1001220000000000, .cadd 9 4 false .core 0), (0x1001225880000000, .cadd 9 4 true .module 2), (0x1101254800000000, .cwait 9 10 true .cluster),
     (0x1200A48000000000, .cread 5 9), (0x1300C3A000000000, .waita 6 7 .system), (0x1403100000000000, .drain .module 2)]) = true := by decide

/-- The table of *Optical, Link, Launch and Trace Instructions*, but for its OIFT, whose word R43 makes another. -/
theorem test_examples_engines : (decodes .o
    [(0x0104000000000000, .omode .a16 .quad2), (0x0100800000000000, .omode .a256 .quad4), (0x0200C92000000000, .omask 3 ⟨8, 9⟩),
     (0x0401043805400000, .oift 4 2 7 ⟨10, 0⟩ 8), (0x0500823920100000, .oconv 2 1 7 ⟨0, 9⟩ 2), (0x0601240000000000, .ocal ⟨8, 9⟩),
     (0x0700A20000000000, .ostat 5 .calAge)] && decodes .l
    [(0x0100C84900000000, .lsend 3 4 ⟨8, 9⟩), (0x0200CA4800000000, .lrecv 3 5 ⟨0, 9⟩), (0x03008A2C90040000, .lradd false 2 10 11 ⟨0, 9⟩),
     (0x04008A2C90000000, .lqadd 2 10 11 ⟨0, 9⟩), (0x05008C0000000000, .ltmo 2 12), (0x0601A00000000000, .lring 13), (0x0700A20000000000, .lstat 5 2),
     (0x0801C48800000000, .lcadd 14 9 4)] && decodes .k
    [(0x2000C48000000000, .lnch 6 9), (0x2101920000000000, .rlnch 3 9), (0x22018E0000000000, .trarm 3 7), (0x2300A60000000000, .trstat 5 3)]) = true := by decide

/-- The examples of *Scalar Instructions* and *System and Checking Instructions*. -/
theorem test_examples_scalar_and_system : (decodes .s
    [(0x0B01459808000000, .div true 10 11 12), (0x1F00B9B97F4A7C15, .ldi 5 (-0x064680B583EB)), (0x1700A0000004F1BB, .ldih 5 0x4F1BB),
     (0x2100838600000064, .cmpi .ltu 4 7 100), (0x2200828C98000000, .sel 4 5 6 3 true), (0x3000C13FFFFFFFFA, .ld .hu 6 2 7 (-6)),
     (0x3201416000000010, .ldp 10 2 0 16), (0x4027FFFFFF600000, .br (-20)), (0x4604000400000020, .loopi true 16 32), (0x5000A00200000000, .movx 5 0x001),
     (0x5402040800000000, .hset 8 1 4), (0x5600CBF1FC000000, .tshape 3 2 63 127), (0x7000000000000007, .trap 7), (0x7200000000000000, .eret),
     (0x6000040000000000, .tidw 0 4), (0x6101040000000000, .tidr 4 4), (0x6200040000000000, .tidi 4), (0x6300A30E00000000, .amo .add 5 6 7),
     (0x6400831000000000, .cas 4 6 8), (0x6501431800000000, .cas2 10 6 12), (0x7300020000000000, .tlbi .addr 4), (0x7300028008000000, .tlbi .as 5),
     (0x7300000010000000, .tlbi .all 0)] && decodes .k
    [(0x3000594000000000, .chk (.s 5 37)), (0x3004A05800000000, .chk (.v ⟨5, 0⟩ ⟨22, 0⟩)), (0x3305043800000003, .kalu 40 8 (.shift .shli 3)),
     (0x3100A00000000000, .digr false 5), (0x3200C80000000000, .digx true 6), (0x3800800000000000, .ctxs 4), (0x3900800000000000, .ctxl 4)]) = true := by
  decide

/-- R60: −7 divided by 2. -/
theorem test_divides_towards_zero : divW false (-7) 2 = -3 ∧ remW false (-7) 2 = -1 := by decide

/-- *Number Formats*: 900 and −3 in an E4M3 block, its scale found: scale 0x81, elements 0x76 and 0xB4, header 0x04. -/
theorem test_quantises_dynamically :
    (let r := quantBurst 4 none (some (.fin false 900 0) :: some (.fin true 3 0) :: List.replicate 54 (some .zero))
     (r.1 % 2 ^ 16, field r.1 64 16, r.2)) = (0x8104, 0xB476, 0) := by decide

/-- The same with the static scale 0x80: elements 0x7E and 0xBC, header 0x14, one more trouble. -/
theorem test_quantises_statically :
    (let r := quantBurst 4 (some 0x8000) (some (.fin false 900 0) :: some (.fin true 3 0) :: List.replicate 54 (some .zero))
     (r.1 % 2 ^ 16, field r.1 64 16, r.2)) = (0x8014, 0xBC7E, 1) := by decide

/-- *Many Dies and Many Devices* and *Levels of Memory*: chunks, stripes and stacks of five addresses. -/
theorem test_places_chunks :
    ([0x400C00, 0x400000, 0x400200, 0x401800, 0x12345678].map fun p => (chunkOf p, stripeOf (chunkOf p), stackOf (chunkOf p))) =
      [(8198, 546, 11), (8192, 546, 5), (8193, 546, 6), (8204, 546, 1), (596523, 39768, 12)] := by decide

/-! ## Witnesses: copies, Veil and links -/

/-- A handle of a whole view: KIND 1, an identifier, extents. -/
def view (id e0 : Nat) (e1 e2 : Nat := 0) : Handle := BitVec.ofNat 256 (id + 2 ^ 16 + e0 * 2 ^ 120 + e1 * 2 ^ 136 + e2 * 2 ^ 152)
/-- The ring of a window of four rows in bank `b`, and its handle once open on a view. -/
def ring (b : Nat) : Handle := BitVec.ofNat 256 (b * 2 ^ 192 + 4 * 2 ^ 200)
def opened : Handle := openHandle (ring 0) (view 2 4)

/-- The table of cluster 0: FP32 tensors 1 and 2, a tensor 3 of FP8, indices 4, INT32 tensors 5 and 6, a tensor 7 in the cluster's
scratchpad. -/
def tables0 : SMap Record :=
  [(1, rec1 0x40000000 4), (2, rec1 0x40001000 4), (3, rec1 0x40002000 4 4 1), (4, rec1 0x40003000 1 7), (5, rec1 0x40004000 4 7),
   (6, rec1 0x40005000 4 7), (7, rec1 0x7E0000000000 16)]

/-- A task with views of those tensors, an open window and counters in S1. -/
def copier : Task :=
  let t := task [(1, 77)]
  { t with regs := { t.regs with h := [(1, view 1 4), (2, view 2 4), (3, view 3 4), (4, view 4 1), (5, view 5 4), (6, view 6 4), (7, view 7 16),
                                       (8, ring 1), (9, opened)] }
           wins0 := [⟨opened, view 2 4, rec1 0x40001000 4, 4, false⟩] }

/-- Bank 3 of the cluster is a FIFO with one row. -/
def copyState : State :=
  { runT copier with tables := tables0, banks := [(3, ⟨.fifo, none, none, [RowCell.zero], false⟩)] }

def pc1 : PrmCnt := ⟨9, 1⟩
def noStep : StepF := ⟨0, 0, false⟩

theorem witness_CopyOperations : let m := seen copyState copier
    let H (k : Nat) : Handle := copier.regs.hreg k
    Calm m ∧ m.s.wholeLines ∧ m.cqLoad .c0 < 256 ∧ (∀ b, (m.s.bank b).back = false) ∧ copyState.catches ∧
    (∀ k ∈ [1, 2, 3, 4, 5, 6], handleBad (H k) true = false ∧ hKind (H k) ≠ 2 ∧
      m.s.tid 0 (hId (H k)) = some ((SMap.find tables0 k).getD 0)) ∧
    sameExt (H 1) (rec1 0x40000000 4) (H 2) (rec1 0x40001000 4) = true ∧ packedBad (H 3) (rec1 0x40002000 4 4 1) = false ∧
    hOrg (H 5) 0 % 2 = 0 ∧ hExt (H 5) 0 % 2 = 0 ∧ effExt (H 1) (rec1 0x40000000 4) 1 = hExt (H 4) 0 ∧
    handleBad (ring 1) false = false ∧ hKind (ring 1) ≠ 2 ∧ ringBad copier .c0 (openHandle (ring 1) (H 2)) (rec1 0x40001000 4) = false ∧
    handleBad opened false = false ∧ (findWin copier .c0 opened).isSome = true ∧ (4 : BitVec 16).toNat ≤ hRrows opened ∧
    (m.s.bank 3).mode = .fifo ∧ (m.s.bank 3).fifo.length + fifoComing m.s 3 + 64 ≤ fifoRoom m.s 3 ∧
    1 ≤ (m.s.bank 3).fifo.length ∧ m.c.cq .c0 = [] ∧ (m.s.bank 2).mode ≠ .fifo :=
  ⟨calm_of, whole_of, by decide, back_of, ⟨copier, rfl, rfl, by decide⟩, by and_intros <;> decide +kernel⟩

theorem copies_ready : [(Instr.cpy .c0 1 2 pc1 noStep), .cpyq .c0 false 3 2 pc1 noStep, .cpyd .c0 2 3 pc1 noStep, .cpyr .c0 .i64 5 6 pc1 noStep,
      .cpyr .c0 .max 1 2 pc1 noStep, .cgat .c0 1 2 4 pc1 noStep, .csct .c0 1 2 4 pc1 noStep, .cfill .c0 1 pc1 0 0, .cpref .c0 2 1 0 0,
      .cflush .c0 2 1 0 0, .wopen .c0 8 2 pc1, .wadv .c0 9 4 pc1, .wclose .c0 9 1, .cbank .c0 11 .scratchpad, .fpush .c0 1 60 63 3 1,
      .fpop .c0 1 60 0 3 1, .fpush .c0 1 60 63 2 1].all (fun i => readyB .c0 i copyState (seen copyState copier)) = true := by decide

theorem witness_CopyOperations_ready : ∀ i : Instr, readyB .c0 i copyState (seen copyState copier) = true →
    Ready .c0 i copyState (seen copyState copier) := fun _ h => rdyS h

theorem witness_PromiseOfAFill : let m := seen copyState copier
    let h := copier.regs.hreg 7
    let r := rec1 0x7E0000000000 16
    let addrs := (List.range (viewCount h r)).filterMap fun n => (locate r (viewPos h r n)).map Prod.fst
    Calm m ∧ m.cqLoad .c0 < 256 ∧ (handleBad h true = false ∧ hKind h ≠ 2 ∧ m.s.tid 0 (hId h) = some r ∧ copier.x.dm = false ∧
      m.s.hbm.lostAt = none ∧ heldPhase m.s copier.lid = false ∧ pc1.prm ≠ 0 ∧ addrs ≠ [] ∧
      (∀ a ∈ addrs, a / 512 = 0x7E0000000000 / 512) ∧
      (∀ k, k < 512 → let pa := endPhys m.s 0 copier.x.ptb (0x7E0000000000 + k)
        regionOf pa = .scratch ∧ (pa - 0x7F0000000000) / 2 ^ 28 * 16 + (pa - 0x7F0000000000) / 2 ^ 24 % 16 = 0)) ∧
      Ready .c0 (.cfill .c0 7 pc1 0 0) copyState m :=
  ⟨calm_of, by decide, ⟨by and_intros <;> decide +kernel, rdyS (by decide)⟩⟩

/-- A copy of the queue C0 of core 0. -/
def copyOp (op : Instr) (stage : CopyStage) (f : CopyOp → CopyOp := id) : CopyOp :=
  f { CopyOp.new copier op with hd := view 1 4, hs := view 2 4, rd := rec1 0x40000000 4, rs := rec1 0x40001000 4, ctr := some 77, issue := 900
                                stage := stage, ptb := 0x1000 }
def copying (o : CopyOp) : State := { copyState with cores := [(0, { core copier with cq0 := [o] })] }
/-- A page table at 0x1000 that maps the second GiB onto itself. -/
def pages : SMap Byte := [(0x1000, 1), (0x1001, 0x20), (0x2000, 1), (0x2001, 0x30), (0x3008, 0x1F), (0x300B, 0x40)]
def units0 : List CUnit := [⟨0, 0x40000000, 0x40000000, 0, 32, 5, false⟩, ⟨0, 0x40000004, 0x40000004, 0, 32, 6, false⟩]

theorem witness_CopyEngines :
    (∀ op ∈ [Instr.cpy .c0 1 2 pc1 noStep, .cpref .c0 2 1 0 0, .cbank .c0 11 .scratchpad], let s := copying (copyOp op .queued)
      s.settledWatches ∧ s.wholeLines ∧ (s.core 0).cq .c0 = [copyOp op .queued] ∧ (copyOp op .queued).held = false ∧
        (s.core 0).fpops .c0 = 0 ∧ (copyOp op .queued).dm = false ∧ (copyOp op .queued).issue < s.cyc ∧
        (s.bank 11).lent = none) ∧
    (let o := copyOp (.cpref .c0 2 1 0 0) .queued; let s := { copying o with mem := pages }
    s.settledWatches ∧ (s.core 0).cq .c0 = [o] ∧ viewAddrs o.hs o.rs = [0x40001000, 0x40001004, 0x40001008, 0x4000100C] ∧
      (∀ va ∈ [0x40001000, 0x40001004, 0x40001008, 0x4000100C],
        ∃ e, walk s o.ptb va = some e ∧ e.rd = true ∧ e.us = true)) ∧
    (let o := copyOp (.cpy .c0 1 2 pc1 noStep) .running fun o => { o with dm := true, slots := true, places := 1, send := 1000, units := units0 }
    let s := { copying o with cyc := 1024 }
    s.settledWatches ∧ (s.core 0).cq .c0 = [o] ∧ o.sent < o.places ∧ o.send ≤ s.cyc ∧
      owns (launchStartCyc s o.lid) (queueIx 0 .c0) s.cyc = true ∧ 
      (∀ x ∈ units0, x.w % 8 = 0 ∧ x.bit = 0 ∧ s.bankOk 0 x.pa = true ∧ s.hostOff x.pa = false ∧ regionOf x.pa ≠ .peer ∧
        ∀ j, j < 4 → regionOf (x.pa + j) ≠ .rebuild) ∧
      units0.Pairwise fun x y => x.pa + x.w / 8 ≤ y.pa ∨ y.pa + y.w / 8 ≤ x.pa) ∧
    (∀ op ∈ [Instr.cpy .c0 1 2 pc1 noStep, .fpush .c0 1 60 0 3 1], let o := copyOp op .running fun o => { o with due := 1000, units := units0 }
      (copying o).settledWatches ∧ ((copying o).core 0).cq .c0 = [o] ∧ ((copying o).core 0).cq1 = [] ∧ o.due ≤ (copying o).cyc ∧
        o.slots = false) ∧
    (let o := copyOp (.cpy .c0 1 2 pc1 noStep) (.suspended 0x40000000)
    let s := { copying o with mem := pages }
    s.settledWatches ∧ (s.core 0).cq .c0 = [o] ∧ (walk s o.ptb 0x40000000).isSome = true) :=
  ⟨fun _ _ => ⟨rfl, whole_of, rfl, rfl, rfl, rfl, show 900 < 1000 by decide, rfl⟩,
    ⟨rfl, rfl, by decide +kernel, by decide +kernel⟩,
    ⟨rfl, rfl, by decide⟩, fun _ _ => ⟨rfl, rfl, rfl, show 1000 ≤ 1000 by decide, rfl⟩,
    rfl, rfl, by decide +kernel⟩

/-- A tensor of rank 2, `n` by `n`, of a format with elements of `b` bytes. -/
def rec2 (base n fmt b : Nat) : Record :=
  BitVec.ofNat 768 (base + fmt * 2 ^ 64 + 2 * 2 ^ 72 + n * 2 ^ 128 + n * 2 ^ 160 + 2 ^ 192 + 2 ^ 224 + b * 2 ^ 256 + 64 * 2 ^ 304)

/-- A task with a mask view 1 and frames 2 and 3, of 4 by 4 elements in the scratchpad, and the exponent 127 in S1. -/
def seer : Task :=
  let t := task [(1, 127), (2, 77)]
  { t with regs := { t.regs with h := [(1, view 1 4 4), (2, view 2 4 4), (3, view 3 4 4)] } }
/-- An engine calibrated in cycle 900, and one that never was. -/
def calibrated : Veil := { Veil.start with serial := 1, calAt := some 900, marks := [⟨900, false, 70, 70⟩] }
def seerState (v : Veil) : State :=
  { runT seer with tables := [(1, rec2 0x7E0000000000 4 14 4), (2, rec2 0x7E0000001000 4 1 4), (3, rec2 0x7E0000002000 4 13 8)]
                   veils := [(0, v)] }

theorem witness_OpticalOperations : let m := seen (seerState calibrated) seer
    let H (k : Nat) : Handle := seer.regs.hreg k
    Calm m ∧ m.s.wholeLines ∧ (∀ p ∈ [(Slot.o, Instr.omode .a16 .inten), (.o, .ostat 4 .temp), (.o, .omask 1 ⟨9, 2⟩), (.o, .oft 3 2 1 ⟨9, 2⟩ 2),
        (.o, .oift 3 2 1 ⟨9, 2⟩ 2), (.o, .oconv 3 2 1 ⟨9, 2⟩ 2), (.o, .ocal ⟨9, 2⟩)], Ready p.1 p.2 (seerState calibrated) m) ∧
    ((∀ k ∈ [1, 2, 3], handleBad (H k) true = false ∧ hKind (H k) ≠ 2) ∧ m.s.tid 0 1 = some (rec2 0x7E0000000000 4 14 4) ∧
    m.s.tid 0 2 = some (rec2 0x7E0000001000 4 1 4) ∧ m.s.tid 0 3 = some (rec2 0x7E0000002000 4 13 8) ∧
    recFmt (rec2 0x7E0000000000 4 14 4) = 14 ∧ hExt (H 1) 0 = 2 ^ 2 ∧ effExt (H 1) (rec2 0x7E0000000000 4 14 4) 1 = 2 ^ 2 ∧
    effExt (H 1) (rec2 0x7E0000000000 4 14 4) 2 = 1 ∧ onChiplet m (H 1) (rec2 0x7E0000000000 4 14 4) = true ∧
    sameExt (H 3) (rec2 0x7E0000002000 4 13 8) (H 2) (rec2 0x7E0000001000 4 1 4) = true ∧ 2 ^ 2 ≤ Aperture.pixels seer.aperture ∧
    onChiplet m (H 2) (rec2 0x7E0000001000 4 1 4) = true ∧ onChiplet m (H 3) (rec2 0x7E0000002000 4 13 8) = true ∧
    recFmt (rec2 0x7E0000001000 4 1 4) = 1 ∧ recFmt (rec2 0x7E0000002000 4 13 8) = 13 ∧ seer.recovery ≠ .inten ∧
    (seer.regs.sreg 1).toInt = 127 ∧ veilCount m.s 0 < 16 ∧ (∀ b, b < 17 → (m.s.veil 0).staleAt (1000 - b) = false) ∧
    (∀ b, b < 17 → ((seerState Veil.start).veil 0).staleAt (1000 - b) = true)) ∧ (seerState Veil.start).catches ∧
    Ready .o (.oft 3 2 1 ⟨9, 2⟩ 2) (seerState Veil.start) (seen (seerState Veil.start) seer) :=
  ⟨calm_of, whole_of, fun p hp => rdyS (List.all_eq_true.mp (show ([(Slot.o, Instr.omode .a16 .inten), (.o, .ostat 4 .temp),
        (.o, .omask 1 ⟨9, 2⟩), (.o, .oft 3 2 1 ⟨9, 2⟩ 2), (.o, .oift 3 2 1 ⟨9, 2⟩ 2), (.o, .oconv 3 2 1 ⟨9, 2⟩ 2),
        (.o, .ocal ⟨9, 2⟩)].all fun p => readyB p.1 p.2 (seerState calibrated) (seen (seerState calibrated) seer)) = true by decide) p hp),
    by and_intros <;> decide +kernel, ⟨seer, rfl, rfl, by decide⟩, rdyS (by decide)⟩

/-- An operation of engine 0 on frames of 4 by 4 elements. -/
def veilOp (op : Instr) (f : VeilOp → VeilOp := id) : VeilOp :=
  f { VeilOp.new (seen (seerState calibrated) seer) op with
        hd := view 3 4 4, hs := view 2 4 4, rd := rec2 0x40002000 4 13 8, rs := rec2 0x40001000 4 1 4, ctr := some 77, ptb := 0x1000, logn := 2
        shots := 1, time := 30 }
def veilState (o : VeilOp) (f : Veil → Veil := id) : State :=
  { seerState (f { calibrated with ops := [o] }) with cyc := 200000, mem := pages }
/-- A launch in D-mode whose first window, of core 0, starts in cycle 200,000, where core 0 has a mask. -/
def windowState : State :=
  let s := veilState (veilOp (.ocal ⟨9, 2⟩)) 
  { s with launches := [(1, { launch1 with desc := { desc1 with dmode := true }, start := 200000, left := 8 })]
           cores := [(0, { core seer with mask := some ⟨1, view 1 4 4, rec2 0x40000000 4 14 4, 4⟩ })] }

theorem ok_of {α β : Type} [DecidableEq α] {e : Except β α} {x : α} (h : (match e with
    | .ok y => decide (y = x)
    | .error _ => false) = true) : e = .ok x := by
  cases e with
  | ok y => exact congrArg _ (of_decide_eq_true h)
  | error _ => cases h

theorem witness_VeilEngines :
    (let o := veilOp (.oft 3 2 1 ⟨9, 2⟩ 2); let s := veilState o
    s.settledWatches ∧ (s.veil 0).ops = [o] ∧ o.dm = false ∧ o.fired < o.shots ∧ o.start + o.fired * o.time ≤ s.cyc ∧
      (let src := (shotFrames o).flatMap fun f => elemAddrs o.rs (framePosOrd o.hs o.rs (2 ^ o.logn) f)
      let dst := (shotFrames o).flatMap fun f => elemAddrs o.rd (framePosOrd o.hd o.rd (2 ^ o.logn) f)
      engXlats s o.core o.ptb true false src = .ok src ∧ engXlats s o.core o.ptb false true dst = .ok dst ∧
        (shotRead s o (src.zip src) (shotFrames o)).isOk = true)) ∧
    (let o := veilOp (.oft 3 2 1 ⟨9, 2⟩ 2) fun o => { o with fired := 1, flying := [⟨1000, units0⟩] }
    (veilState o).settledWatches ∧ ((veilState o).veil 0).ops = [o] ∧ 
      (∀ x ∈ units0, x.w % 8 = 0 ∧ (veilState o).bankOk 0 x.pa = true ∧ regionOf x.pa ≠ .peer ∧ ∀ j, j < 4 → regionOf (x.pa + j) ≠ .rebuild) ∧
      (units0.Pairwise fun x y => x.pa + x.w / 8 ≤ y.pa ∨ y.pa + y.w / 8 ≤ x.pa) ∧ o.bad = none ∧ o.shots ≤ o.fired ∧
      1000 ≤ (veilState o).cyc) ∧
    (let d : MaskDesc := ⟨1, view 1 4 4, rec2 0x40000000 4 14 4, 4⟩
    let o := veilOp (.omask 1 ⟨9, 2⟩) fun o => { o with desc := some d }
    (veilState o).settledWatches ∧ ((veilState o).veil 0).ops = [o] ∧ o.fired = 0 ∧ o.bad = none ∧
      o.start + 2700 ≤ (veilState o).cyc ∧ ((veilState o).veil 0).loads = [] ∧
      loadPlane (veilState o) o.core o.id o.ptb d = .ok ⟨d, List.replicate 16 0, none⟩) ∧
    (let o := veilOp (.ocal ⟨9, 2⟩)
    (veilState o).settledWatches ∧ ((veilState o).veil 0).ops = [o] ∧ o.dm = false ∧ o.start + 72000 ≤ (veilState o).cyc ∧ o.bad = none) ∧
    (windowState.settledWatches ∧ (windowState.veil 0).ops = [veilOp (.ocal ⟨9, 2⟩)] ∧ windowCores windowState 0 = [0] ∧
      (windowState.veil 0).served = none) ∧
    (let o := veilOp (.ocal ⟨9, 2⟩) fun o => { o with dm := true, start := 272000 }
    (veilState o).settledWatches ∧ ((veilState o).veil 0).ops = [o] ∧ o.start = (veilState o).cyc + 72000 ∧
      ((veilState o).veil 0).slotServed = none) ∧
    (let o := veilOp (.ocal ⟨9, 2⟩); let s := veilState o fun v => { v with limit := 100 }
    s.settledWatches ∧ (s.veil 0).ops = [o] ∧ (s.veil 0).marks = [⟨900, false, 70, 70⟩] ∧ (s.veil 0).limit < (s.veil 0).age s.cyc) :=
  ⟨⟨rfl, rfl, rfl, by decide, by decide, ok_of (by decide +kernel), ok_of (by decide +kernel), by decide +kernel⟩,
    ⟨rfl, rfl, by decide⟩, ⟨rfl, rfl, rfl, rfl, by decide, rfl, ok_of (by decide +kernel)⟩,
    ⟨rfl, rfl, rfl, by decide, rfl⟩, ⟨rfl, rfl, by decide +kernel, rfl⟩, ⟨rfl, rfl, rfl, rfl⟩, rfl, rfl, rfl, by decide +kernel⟩

/-- A task with an accumulator in S1, its length in S2, a table of neighbours at S3, device 5 in S4, counter 6 in S5. -/
def linker : Task :=
  let t := task [(1, 0x7E0000000000), (2, 128), (3, 0x10000), (4, 3), (5, 6), (6, 77)]
  { t with regs := { t.regs with h := [(1, view 1 4)] }, x := { x0 with ptb := 0x999 } }
def lcore : Core := { core linker with tlb := [page 0x10000 0x110000] }
/-- Port 3 is up or down; the launch's entry for it names device 5 as destination and device 6 as source. -/
def linkState (up : Nat) : State :=
  { on lcore with tables := tables0, ports := [(3, ⟨up, 0, 0, 0⟩)]
                  launches := [(1, { launch1 with ring := [(3, BitVec.ofNat 64 (5 + 2 ^ 15 + 6 * 2 ^ 16 + 2 ^ 31))] })] }

theorem witness_LinkOperations : let m := seen (linkState 2) linker
    let S (k : Nat) : Nat := (linker.regs.sreg k).toNat
    Calm m ∧ m.s.wholeLines ∧ (∀ p ∈ [(Slot.l, Instr.lsend 3 1 ⟨9, 6⟩), (.l, .lrecv 3 1 ⟨9, 6⟩), (.l, .lradd true 3 1 2 ⟨9, 6⟩), (.l, .lqadd 3 1 2 ⟨9, 6⟩),
        (.l, .ltmo 3 4), (.l, .lring 3), (.l, .lstat 7 3), (.l, .lcadd 4 5 6)], Ready p.1 p.2 (linkState 2) m) ∧
    (handleBad (linker.regs.hreg 1) true = false ∧ hKind (linker.regs.hreg 1) ≠ 2 ∧ m.s.tid 0 1 = some (rec1 0x40000000 4) ∧
    ringEntry m.s 1 3 / 2 ^ 15 % 2 = 1 ∧ ringEntry m.s 1 3 / 2 ^ 31 % 2 = 1 ∧ (m.s.port 3).state ≠ 0 ∧ linkCount m.s 0 < 64 ∧
    S 1 % 64 = 0 ∧ S 2 % 64 = 0 ∧ 64 ≤ S 2 ∧ S 2 ≤ 2 ^ 20 ∧ chipletRange m (S 1) (2 * S 2) = true ∧ chipletRange m (S 1) (S 2) = true ∧
    (SMap.find m.s.launches linker.lid).isSome = true ∧ S 4 ≤ 1000000 ∧
    m.s.links = [] ∧ m.c.cq0 = [] ∧ m.c.cq1 = [] ∧ m.s.veils = [] ∧ m.s.ccache = [] ∧ m.c.l1 = [] ∧ m.s.mem = [] ∧ entryBad 0 = false ∧ S 5 ≤ 65535 ∧ S 4 ≤ 511 ∧ (m.s.port (S 4 % 32)).state ≠ 0 ∧
    ((linkState 0).port 3).state = 0) ∧
    (∀ j, j < 4 → Reaches m (S 3 + 64 * j) 64 true false (0x110000 + 64 * j) false ∧ isScratch (S 3 + 64 * j) = isScratch (S 3)) ∧
    (linkState 0).catches ∧ ∀ i ∈ [Instr.lsend 3 1 ⟨9, 6⟩, .lcadd 4 5 6], Ready .l i (linkState 0) (seen (linkState 0) linker) :=
  ⟨calm_of, whole_of, fun p hp => rdyS (List.all_eq_true.mp (show ([(Slot.l, Instr.lsend 3 1 ⟨9, 6⟩),
        (.l, .lrecv 3 1 ⟨9, 6⟩), (.l, .lradd true 3 1 2 ⟨9, 6⟩), (.l, .lqadd 3 1 2 ⟨9, 6⟩), (.l, .ltmo 3 4), (.l, .lring 3),
        (.l, .lstat 7 3), (.l, .lcadd 4 5 6)].all fun p => readyB p.1 p.2 (linkState 2) (seen (linkState 2) linker)) = true by decide) p hp),
    by and_intros <;> decide +kernel,
    fun j hj => by obtain rfl | rfl | rfl | rfl : j = 0 ∨ j = 1 ∨ j = 2 ∨ j = 3 := by omega
                   all_goals exact ⟨reaches_of (by decide), by decide⟩,
    ⟨linker, rfl, rfl, by decide⟩, both (rdyS (by decide)) (rdyS (by decide))⟩

/-- An L operation of port 3. -/
def linkOp (op : Instr) (f : LinkOp → LinkOp := id) : LinkOp :=
  f { LinkOp.new (seen (linkState 2) linker) op 3 with peer := 6, addr := 0x40000000, len := 128, ctr := some 77, ptb := 0x1000, begin := some 950 }
def linkWith (os : List LinkOp) (ms : List LinkMsg) : State := { linkState 2 with links := os, msgs := ms, mem := pages }

theorem witness_LinkEvents :
    (let o := linkOp (.lradd true 3 1 2 ⟨9, 6⟩); let msg : LinkMsg := ⟨3, 6, 0, 0, List.replicate 128 1⟩; let s := linkWith [o] [msg]
    s.settledWatches ∧ s.links = [o] ∧ o.begin = some 950 ∧ o.moved = false ∧ 2 ≤ (s.port o.port).state ∧ o.len % 64 = 0 ∧
      s.err = [] ∧ s.hbm = State.reset.hbm ∧ s.ccache = [] ∧ linkXlat s o = .ok ((List.range (o.len / 64)).map fun i => (o.addr + 64 * i, 0x40000000 + 64 * i)) ∧ o.addr % 64 = 0 ∧
      s.msgs = [msg] ∧ msg.port = o.port ∧ msg.dev = o.peer ∧ msg.dtag = o.dtag ∧ msg.k = o.k ∧ msg.data.length = o.len) ∧
    (let o := linkOp (.lrecv 3 1 ⟨9, 6⟩); let s := linkWith [o] []
    s.settledWatches ∧ 2 ≤ (s.port 3).state ∧ o ∈ s.links ∧ o.recv = true ∧ o.port = 3 ∧ o.dtag = 0 ∧ o.peer = 6) ∧
    (let s := { linkWith [] [] with launches := [] }; s.settledWatches ∧ 2 ≤ (s.port 3).state ∧ s.links = [] ∧ s.launches = []) ∧
    (let o := linkOp (.lsend 3 1 ⟨9, 6⟩) fun o => { o with moved := true, due := 1000 }
    (linkWith [o] []).settledWatches ∧ (linkWith [o] []).links = [o] ∧ o.moved = true ∧ o.due ≤ (linkWith [o] []).cyc) ∧
    (let o := linkOp (.lsend 3 1 ⟨9, 6⟩) fun o => { o with tmo := 0 }
    (linkWith [o] []).settledWatches ∧ (linkWith [o] []).links = [o] ∧ o.begin = some 950 ∧ 950 + o.tmo * 1800 ≤ (linkWith [o] []).cyc ∧
      o.moved = false ∧ o.recv = false) ∧
    (31 < 32 ∧ (linkState 2).links = [] ∧ ((linkState 2).port 31).state < 2 ∧ 2 ≤ ((linkState 2).port 3).state) :=
  ⟨⟨rfl, rfl, rfl, rfl, by decide, by decide, rfl, rfl, rfl, ok_of (by decide +kernel), by decide, rfl, rfl, rfl, rfl, rfl, rfl⟩,
    ⟨rfl, by decide, by simp [linkWith], rfl, rfl, rfl, rfl⟩, ⟨rfl, by decide, rfl, rfl⟩, ⟨rfl, rfl, rfl, by decide⟩,
    ⟨rfl, rfl, rfl, by decide, rfl, rfl⟩, by decide, rfl, by decide, by decide⟩

/-! ## Witnesses: tasks, waits, counters -/

/-- A task in supervisor mode whose image would lie at 0x10000, and eight pages for it. -/
def saver (s : SMap Word) : Task := { task s with x := { x0 with sv := true, ptb := 0x999 } }
def savePages : List TlbEnt := (List.range 8).map fun i => page (0x10000 * (i + 1)) (0x110000 + 0x10000 * i)
def scalars1 : SMap Word := [(1, 0x80), (2, 9), (3, 0x10000), (4, 640), (5, 0x8040), (6, 9)]
def taskState : State :=
  { run scalars1 with launches := [(1, launch1)], watches := [(5, { Watch.start with bound := some 1 })] }
def fencedState : State := on { core (task [(1, 9)]) with fence := [.bound 5 9] }
/-- A task whose trouble count is above its launch's threshold. -/
def troubled : Task := { task [] with x := { x0 with qtroub := 5 } }
def troubledState : State := { runT troubled with launches := [(1, { launch1 with desc := { desc1 with qthr := 4 } })] }

/-- A task out of its core, a sub-task or a root task, before or at a barrier. -/
def away (p : Option Nat) (k : OutKind) : Saved :=
  ⟨{ task [] with parent := p }, k, 950, 950, none, false, [], .holds 0, .empty, none, 0, 0, 0, []⟩
/-- Core 1 has such a task. -/
def crowded (y : Saved) : State := { taskState with cores := taskState.cores ++ [(1, { Core.idle with saved := [y] })] }

theorem witness_TaskOperations :
    (let m := seen taskState (task scalars1)
    let S (k : Nat) : Nat := (m.t.regs.sreg k).toNat
    Calm m ∧ (∀ i ∈ [Instr.spawn 1 1 2, .spawn 0 1 2, .yield, .endTask, .cadd 1 2 true .cluster 3, .cread 7 1, .trstat 7 5, .digr true 7,
        .digr false 7, .chk (.s 2 6), .chk (.s 1 5), .chk (.v ⟨1, 2⟩ ⟨3, 4⟩), .lnch 4 2, .rlnch 5 2],
      readyB .k i taskState m = true) ∧ S 1 % 8 = 0 ∧ S 1 < 0x40000 ∧ S 2 ≤ 65535 ∧ (taskState.core 1).task = none ∧ (taskState.core 1).saved = [] ∧
      taskState.catches ∧ m.c.saved = [] ∧ m.c.todo = [] ∧ desc1.qthr = 0 ∧ m.t.parent = none ∧ m.t.regs.sreg 2 = m.t.regs.sreg 6 ∧
      (∀ i, i < 0 → S 1 / 256 ^ i % 256 = S 5 / 256 ^ i % 256) ∧ S 1 / 256 ^ 0 % 256 ≠ S 5 / 256 ^ 0 % 256 ∧
      (rowRead m ⟨1, 2⟩).data = (rowRead m ⟨3, 4⟩).data ∧ S 4 % 64 = 0 ∧ outLaunches m.s m.t.uid < 8 ∧ (m.s.watch 5).bound = some 1 ∧
      SMap.find m.s.launches 1 = some launch1 ∧ launch1.part = m.s.partOf 0) ∧
    (∀ y ∈ [away (some 3) .preempted, away none .barrier], let s := crowded y
      Calm (seen s (task scalars1)) ∧ (s.core 1).task = none ∧ y ∈ (s.core 1).saved ∧ (y.task.parent.isSome = true ∨ y.kind = .barrier) ∧
        s.catches ∧ Ready .k (.spawn 1 1 2) s (seen s (task scalars1))) ∧
    (let m := seen fencedState (task [(1, 9)]); Calm m ∧ m.c.fence = [.bound 5 9] ∧ Ready .k (.trarm 5 1) fencedState m) ∧
    (let m := seen troubledState troubled
    Calm m ∧ SMap.find m.s.launches m.t.lid = some { launch1 with desc := { desc1 with qthr := 4 } } ∧ 4 < m.t.x.qtroub.toNat ∧
      troubledState.catches ∧ Ready .k .endTask troubledState m) :=
  ⟨⟨calm_of, by decide, by decide, by decide, by decide, rfl, rfl, ⟨task scalars1, rfl, rfl, by decide⟩, rfl, rfl, rfl, rfl,
      by decide, by decide, by decide, rfl, by decide, by decide, rfl, rfl, rfl⟩,
    both ⟨calm_of, rfl, List.mem_singleton.2 rfl, .inl rfl, ⟨task _, rfl, rfl, by decide⟩, rdyS (by decide)⟩
      ⟨calm_of, rfl, List.mem_singleton.2 rfl, .inr rfl, ⟨task _, rfl, rfl, by decide⟩, rdyS (by decide)⟩,
    ⟨calm_of, rfl, rdyS (by decide)⟩,
    calm_of, rfl, by decide, ⟨troubled, rfl, rfl, by decide⟩, rdyS (by decide)⟩

/-- The engine part of a context image that refers to the first engine state. -/
def engines0 : List Byte := tabulate Config.engineImage 0 5120
/-- Byte `i` of an image of a task of launch 1 with the budget of `task`. -/
def imageByte (i : Nat) : Byte :=
  if i = 0 then 1 else if i = 2 then 64 else if i = 3 then 32 else if i = 4 then 24 else if i = 8 then 1
  else if 24 ≤ i ∧ i < 32 then BitVec.ofNat 8 ((Config.checkWord engines0).toNat / 256 ^ (i - 24))
  else if 0xC00 ≤ i ∧ i < 0x2000 then Config.engineImage (i - 0xC00) else 0
/-- A machine that holds that image at 0x110000 and one engine state, in supervisor mode. -/
def saveState : State :=
  { on { core (saver [(1, 0x10000)]) with tlb := savePages } with
      mem := tabulate (fun i => (0x110000 + i, imageByte i)) 0 0x2000
      images := [engineOf Core.idle (task [])] }
def saveMach : Mach := seen saveState (saver [(1, 0x10000)])
def savePieces : List (Nat × Nat) := ((List.range 6).map fun i => (0x110000 + 0x10000 * i, 0x10000)) ++ [(0x170000, 0x2000)]

theorem find_listed {α : Type} (g : Nat → α) (b : Nat) : ∀ n i j, i ≤ j → j < i + n →
    SMap.find (tabulate (fun i => (b + i, g i)) i n) (b + j) = some (g j) := by
  intro n
  induction n with
  | zero => intros; omega
  | succ n ih =>
    intro i j h1 h2
    unfold tabulate SMap.find
    by_cases h : i = j
    · subst h; simp
    · rw [if_neg (by omega), ih (i + 1) j (by omega) (by omega)]

theorem tabulate_congr {α : Type} {f g : Nat → α} : ∀ n i, (∀ j, i ≤ j → j < i + n → f j = g j) → tabulate f i n = tabulate g i n := by
  intro n
  induction n with
  | zero => intros; rfl
  | succ n ih =>
    intro i h
    unfold tabulate
    rw [h i (by omega) (by omega), ih (i + 1) fun j h1 h2 => h j (by omega) (by omega)]

theorem tabulate_shift {α : Type} (f : Nat → α) : ∀ n i k, tabulate f (i + k) n = tabulate (fun j => f (j + k)) i n := by
  intro n
  induction n with
  | zero => intros; rfl
  | succ n ih => intro i k; unfold tabulate; rw [show i + k + 1 = i + 1 + k by omega, ih]

theorem tabulate_part {α : Type} (f : Nat → α) : ∀ n i k l, k + l ≤ n → ((tabulate f i n).drop k).take l = tabulate f (i + k) l := by
  intro n
  induction n with
  | zero => intro i k l h; obtain ⟨rfl, rfl⟩ : k = 0 ∧ l = 0 := by omega
            rfl
  | succ n ih =>
    intro i k l h
    cases k with
    | succ k => unfold tabulate; rw [List.drop_succ_cons, ih (i + 1) k l (by omega), show i + 1 + k = i + (k + 1) by omega]; cases l <;> rfl
    | zero =>
      cases l with
      | zero => rfl
      | succ l => have := ih (i + 1) 0 l (by omega)
                  simp only [tabulate, List.drop_zero, List.take_succ_cons, Nat.add_zero] at this ⊢
                  rw [this]

theorem tabulate_length {α : Type} (f : Nat → α) : ∀ n i, (tabulate f i n).length = n := by
  intro n
  induction n with
  | zero => intro i; rfl
  | succ n ih => intro i; unfold tabulate; rw [List.length_cons, ih]

/-- A field of the image's first 64 KiB. -/
theorem image_part (k l : Nat) (h : k + l ≤ 0x10000) :
    ((savePieces.flatMap fun p => saveMach.s.bytes p.1 p.2).drop k).take l = tabulate saveMach.s.byte (0x110000 + k) l := by
  have : (savePieces.flatMap fun p => saveMach.s.bytes p.1 p.2) =
      saveMach.s.bytes 0x110000 0x10000 ++ (savePieces.drop 1).flatMap fun p => saveMach.s.bytes p.1 p.2 := by
    unfold savePieces; rfl
  rw [this]
  unfold State.bytes
  rw [List.drop_append_of_le_length (by rw [tabulate_length]; omega), List.take_append_of_le_length (by
    rw [List.length_drop, tabulate_length]; omega), tabulate_part _ _ _ _ _ h]

theorem image_byte (i : Nat) (h : i < 0x2000) : saveMach.s.byte (0x110000 + i) = imageByte i := by
  show SMap.get blank (tabulate (fun i => (0x110000 + i, imageByte i)) 0 0x2000) (0x110000 + i) = _
  unfold SMap.get
  rw [find_listed _ _ _ _ _ (by omega) (by omega)]
  rfl

theorem image_engines : tabulate saveMach.s.byte (0x110000 + 0xC00) 5120 = engines0 := by
  unfold engines0
  rw [show 0x110000 + 0xC00 = 0 + (0x110000 + 0xC00) by omega, tabulate_shift]
  refine tabulate_congr _ _ fun j _ h => ?_
  rw [show j + (0x110000 + 0xC00) = 0x110000 + (j + 0xC00) by omega, image_byte _ (by omega)]
  unfold imageByte
  repeat rw [if_neg (by omega)]
  rw [if_pos (by omega), Nat.add_sub_cancel]

theorem leNat_zeros : ∀ n i, leNat ((tabulate id i n).zip (tabulate Config.engineImage i n) |>.map fun (i, b) => b - Config.engineImage i) = 0 := by
  intro n
  induction n with
  | zero => intro i; rfl
  | succ n ih => intro i; simp only [tabulate, List.zip_cons_cons, List.map_cons, leNat, ih, id, BitVec.sub_self]; rfl

theorem leNat_bytes (v : Nat) (h : v < 2 ^ 64) :
    leNat (tabulate (fun i => BitVec.ofNat 8 (v / 256 ^ i)) 0 8) = v := by
  simp only [tabulate, leNat, BitVec.toNat_ofNat]
  omega

theorem image_check : leNat (tabulate saveMach.s.byte (0x110000 + 24) 8) = (Config.checkWord engines0).toNat := by
  rw [show 0x110000 + 24 = 0 + (0x110000 + 24) by omega, tabulate_shift]
  rw [tabulate_congr (g := fun i => BitVec.ofNat 8 ((Config.checkWord engines0).toNat / 256 ^ i))]
  · exact leNat_bytes _ (Config.checkWord engines0).isLt
  · intro j _ h
    rw [show j + (0x110000 + 24) = 0x110000 + (j + 24) by omega, image_byte _ (by omega)]
    unfold imageByte
    repeat rw [if_neg (by omega)]
    rw [if_pos (by omega), Nat.add_sub_cancel]

theorem witness_ContextImages : let m := saveMach
    let img := savePieces.flatMap fun p => m.s.bytes p.1 p.2
    let f (off n : Nat) : Nat := leNat ((img.drop off).take n)
    let eng := (img.drop 0xC00).take 5120
    Calm m ∧ m.s.wholeLines ∧ (∀ q, m.clean q) ∧
    (∀ p ∈ savePieces, ∀ j, j < p.2 → regionOf (p.1 + j) ≠ .rebuild ∧ regionOf (p.1 + j) ≠ .peer) ∧ m.t.flight = [] ∧ m.c.steps = [] ∧ m.c.mops = [] ∧ m.t.x.sv = true ∧ (m.t.regs.sreg 1).toNat = 0x10000 ∧
    imageCheck ⟨m, 0x40, 2, true, capture0 m.t.regs (.ctxs 1)⟩ 0x10000 false true = .ok savePieces ∧
    imageCheck ⟨m, 0x40, 2, true, capture0 m.t.regs (.ctxl 1)⟩ 0x10000 true false = .ok savePieces ∧
    savePieces.Pairwise (fun x y => x.1 + x.2 ≤ y.1 ∨ y.1 + y.2 ≤ x.1) ∧ m.c.cq0 = [] ∧ m.c.cq1 = [] ∧ m.s.veils = [] ∧ m.s.links = [] ∧
    (m.s.images[engineToken eng]?).isSome = true ∧ f 0 2 = 1 ∧ f 2 1 = m.t.budget.s ∧ f 3 1 = m.t.budget.h ∧ f 4 1 = m.t.budget.t ∧
    f 8 8 = m.t.x.launch.toNat ∧ f 24 8 = (Config.checkWord eng).toNat ∧ m.t.budget.s ≤ 64 ∧
    Ready .k (.ctxs 1) saveState m ∧ Ready .k (.ctxl 1) saveState m := by
  intro m img f eng
  have hf : ∀ k l, k + l ≤ 0x10000 → f k l = leNat (tabulate saveMach.s.byte (0x110000 + k) l) := fun k l h =>
    congrArg leNat (image_part k l h)
  have he : eng = engines0 := (image_part 0xC00 5120 (by omega)).trans image_engines
  have ht : engineToken eng = 0 := by
    rw [he]
    unfold engineToken engines0
    rw [tabulate_length]
    exact leNat_zeros _ _
  refine ⟨calm_of, whole_of, clean_of, fun p hp j hj => ?_, rfl, rfl, rfl, rfl, by decide, ok_of (by decide +kernel), ok_of (by decide +kernel), by decide, rfl, rfl, rfl,
    rfl, by rw [ht]; rfl, ?_, ?_, ?_, ?_, ?_, ?_, by decide, rdyS (by decide), rdyS (by decide)⟩
  · have h := (show ∀ p ∈ savePieces, p.1 + p.2 ≤ 0x00B400000000 by decide) p hp
    unfold regionOf
    rw [if_pos (by omega)]
    decide
  iterate 5 · rw [hf _ _ (by omega)]; decide +kernel
  · rw [hf _ _ (by omega), he]; exact image_check

/-- Core 0 before a bundle, as given. -/
def coreW (w : Option WaitRec) (s : SMap Word) : Core := { core (task s) with wait := w }
def waitState (w : Option WaitRec) (s : SMap Word) : State := { on (coreW w s) with ctrs := [(5, 6)], launches := [(1, launch1)] }
/-- The same with a store that waits. -/
def storing : Core := { core (task []) with stores := [⟨0x100, [some 1], none, 990, false⟩] }
/-- A copy of the task that has not completed, with its promise. -/
def promised : Core := { core (task [(1, 1000)]) with cq0 := [{ copyOp (.cpy .c0 1 2 pc1 noStep) .queued with promise := some 1000 }] }
/-- A task of a D-mode launch, the last of eight, with what the launch's digest will be in S1. -/
def digester (v : Word) : Task := { task [(1, v)] with x := { x0 with dm := true } }
def digestState (v : Word) (ended : Nat) : State :=
  { runT (digester v) with launches := [(1, { launch1 with desc := { desc1 with dmode := true }, ended := ended, digest := 77 })] }
def total : Word := BitVec.ofNat 64 77 + mix64 (0x55 ^^^ 3)

/-- A dirty line of the L1, in way 0 of its set. -/
def dirty4 : L1Line := ⟨4, 0, List.replicate 64 0, some 7 :: List.replicate 63 none, some 990, 1000, []⟩

theorem witness_WaitsComplete :
    (let s := [(1, 5), (2, 6), (3, 7), (4, 1000), (6, 0x55), (7, 1001)]
    let m := seen (waitState none s) (task s)
    m.c.wait = none ∧ m.s.ccache = [] ∧ (m.t.regs.sreg 1 = 5 ∧ m.s.ctr 5 = 6 ∧ m.t.regs.sreg 2 = 6 ∧ m.t.regs.sreg 3 = 7 ∧
      (∀ i ∈ [Instr.cwait 1 2 true .cluster, .cwait 1 3 false .core, .sleept 4, .sleept 7, .waito 0 0 0 0, .drain .cluster 31, .drain .core 0,
        .digx false 6, .digx true 0, .digx false 1, .barg .cl, .barg .launch], readyB .k i (waitState none s) m = true) ∧
      (m.t.regs.sreg 4).toNat ≤ (waitState none s).cyc ∧ (waitState none s).cyc < (m.t.regs.sreg 7).toNat) ∧
      Calm m ∧ m.c.cq0 = [] ∧ m.c.cq1 = [] ∧ m.s.veils = [] ∧ m.s.links = [] ∧ m.c.steps = [] ∧ m.c.mops = [] ∧
      m.t.parent = none ∧ m.t.x.dig = m.t.regs.sreg 6 ∧ m.t.x.dm = false ∧ m.t.regs.sreg 0 = 0 ∧ m.t.x.dig ≠ m.t.regs.sreg 1 ∧
      (waitState none s).catches ∧ SMap.find m.s.launches m.t.lid = some launch1 ∧ desc1.qthr = 0) ∧
    (∀ k ∈ [WaitKind.cwait 5 6, .barg .cl 1 0 1], let w := some ⟨k, 900, 0, true⟩
      (seen (waitState w [(1, 5)]) (task [(1, 5)])).c.wait = w ∧ Ready .k (.cwait 1 2 true .cluster) (waitState w [(1, 5)]) (seen (waitState w [(1, 5)]) (task [(1, 5)])) ∧
        Ready .k (.barg .cl) (waitState w [(1, 5)]) (seen (waitState w [(1, 5)]) (task [(1, 5)]))) ∧
    (let m := seen (on { core (task []) with l1 := [(80, dirty4)] }) (task [])
    Calm m ∧ m.s.wholeLines ∧ m.c.l1.Pairwise (fun x y => x.2.line ≠ y.2.line) ∧ (80, dirty4) ∈ m.c.l1 ∧ dirty4.since ≠ none ∧
      regionOf (64 * dirty4.line) ≠ .peer ∧ dirty4.new.getD 0 none = some 7) ∧
    (let s := [(1, 0x10008), (2, 3)]
    let u := on { withPages s with l1 := [((0x110008 / 64) % 256 * 20, { dirty4 with line := 0x110008 / 64 })] }
    let m := seen u (paged s)
    Calm m ∧ m.s.wholeLines ∧ Reaches m 0x10008 8 true false 0x110008 false ∧ cacheable 0x110008 = true ∧ m.c.wait = none ∧
      ((l1Find m.c.l1 (0x110008 / 64)).map L1Line.since).join ≠ none ∧ Ready .k (.waita 1 2 .module) u m) ∧
    (let s := [(1, 0x40028), (2, 3)]
    let u := { runM s with ctrs := [(5, 6)] }
    let m := seen u (paged s)
    m.xlat 0x40028 true false = .ok (0x7D0000000000 + 8 * 5) false ∧ m.c.wait = none ∧ m.s.ctr 5 % 2 ^ 64 ≠ (m.t.regs.sreg 2).toNat ∧
      Ready .k (.waita 1 2 .core) u m) ∧
    (let s := [(1, 0x10008), (2, 3)]
    Calm (seeM s) ∧ (seeM s).s.wholeLines ∧ Reaches (seeM s) 0x10008 8 true false 0x110008 false ∧ 0x110008 % 8 = 0 ∧
      ccFind ((seeM s).s.cc 0) (0x110008 / 64) = none ∧ littleEndian (runM s).byte 0x110008 8 ≠ 3 ∧
      littleEndian (runM s).byte 0x110008 8 = (0 : Word).toNat ∧ Ready .k (.waita 1 2 .cluster) (runM s) (seeM s) ∧ Ready .k (.waita 1 0 .cluster) (runM s) (seeM s)) ∧
    (let m := seen (on storing) (task [])
    0 < m.c.stores.countP (fun st => !st.more) ∧ m.c.stores = [⟨0x100, [some 1], none, 990, false⟩] ∧ 990 ≤ (on storing).cyc ∧
      (2 : BitVec 5).getLsbD 1 = true ∧ Ready .k (.waito 0 0 0 0) (on storing) m ∧ Ready .k (.drain .cluster 2) (on storing) m) ∧
    (let m := seen (on promised) (task [(1, 1000)])
    m.c.wait = none ∧ (m.c.cq0.map fun o => (o.uid, o.promise)) = [(m.t.uid, some 1000)] ∧ m.c.cq1 = [] ∧
      1000 ≤ (m.t.regs.sreg 1).toNat ∧ (m.t.regs.sreg 1).toNat ≤ (on promised).cyc ∧ (on promised).catches ∧
      Ready .k (.sleept 1) (on promised) m) ∧
    (let m := seen (digestState total 7) (digester total)
    m.t.x.dm = true ∧ m.t.parent = none ∧ (SMap.find m.s.launches m.t.lid).map (fun x => (x.desc.dmode, x.ended + 1, x.desc.ntask)) = some (true, 8, 8) ∧
      m.t.regs.sreg 1 = BitVec.ofNat 64 77 + mix64 (m.t.x.dig ^^^ m.t.x.tix) ∧ Ready .k (.digx true 1) (digestState total 7) m) ∧
    (let m := seen (digestState 1 6) (digester 1)
    (SMap.find m.s.launches m.t.lid).map (fun x => decide (x.ended + 1 < x.desc.ntask)) = some true ∧ Ready .k (.digx true 1) (digestState 1 6) m) :=
  ⟨⟨rfl, rfl, by decide, calm_of, rfl, rfl, rfl, rfl, rfl, rfl,
      rfl, by decide, rfl, by decide, by decide, ⟨task _, rfl, rfl, by decide⟩, rfl, rfl⟩,
    both ⟨rfl, rdyS (by decide), rdyS (by decide)⟩ ⟨rfl, rdyS (by decide), rdyS (by decide)⟩,
    ⟨⟨rfl, rfl, ⟨rfl, rfl, rfl⟩, fun e h => by rw [List.mem_singleton.1 h]; rfl, by simp [on, seen, State.reset]⟩, whole_of,
      List.pairwise_singleton _ _, List.mem_singleton.2 rfl, by decide, by decide, rfl⟩,
    ⟨⟨rfl, rfl, ⟨rfl, rfl, rfl⟩, fun e h => by rw [List.mem_singleton.1 h]; rfl, by simp [on, seen, State.reset]⟩, whole_of,
      reaches_of (by decide), by decide, rfl, by decide, rdyS (by decide)⟩,
    ⟨by decide, rfl, by decide, rdyS (by decide)⟩,
    ⟨calm_runM _, whole_of, reaches_of (by decide), rfl, rfl, by decide, by decide, rdyM (by decide), rdyM (by decide)⟩,
    ⟨by decide, rfl, by decide, by decide, rdyS (by decide), rdyS (by decide)⟩,
    ⟨rfl, by decide, rfl, by decide, by decide, ⟨task _, rfl, rfl, by decide⟩, rdyS (by decide)⟩,
    ⟨rfl, rfl, rfl, by decide, rdyS (by decide)⟩, rfl, rdyS (by decide)⟩

/-! ## Witnesses: what a core does by itself -/

/-- A wait begun in cycle 900 whose time-out is 50 cycles. -/
def held (k : WaitKind) : WaitRec := ⟨k, 900, 50, false⟩

theorem witness_WaitsEnd :
    (∀ k ∈ [WaitKind.sleept 1000, .sleept 1001, .cwait 5 6, .cwait 5 7, .waita 8 16 1 false, .waita 8 16 0 true, .waito 0 0 0 0, .drain 31 true],
      let s := waitState (some (held k)) []
      s.settledWatches ∧ s.core 0 = coreW (some (held k)) [] ∧ (coreW (some (held k)) []).task = some (task []) ∧ (held k).met = false ∧
        (held k).reach + (held k).tmo ≤ s.cyc ∧ s.ctr 5 = 6 ∧ (task []).x.sv = false ∧ (task []).x.tvec ≠ 0 ∧ (task []).pend = [] ∧
        (coreW (some (held k)) []).stores = [] ∧ littleEndian s.byte 16 8 = 0 ∧ s.ccache = [] ∧ s.veils = [] ∧ s.links = []) ∧
    regionOf 16 = .hbm ∧ 0 < ({ storing with wait := some (held (.waito 0 0 0 0)) } : Core).stores.countP fun st => !st.more :=
  ⟨fun _ _ => ⟨rfl, rfl, rfl, rfl, show 950 ≤ 1000 by decide, show (SMap.get 0 [(5, 6)] 5 : Nat) = 6 by decide, rfl,
    show (0x100 : Word) ≠ 0 by decide, rfl, rfl, show littleEndian State.reset.byte 16 8 = 0 by decide, rfl, rfl, rfl⟩, by decide, by decide⟩

/-- A result to a scalar. -/
def toS (d : Nat) (v : Word) (due : Nat) : Result := ⟨.s d, v.setWidth 2048, BitVec.allOnes 256, false, none, due, 0⟩
def flying : Task := { task [] with flight := [toS 3 5 999, toS 4 6 1000] }
def pending (p : PendSrc × Nat × Option Nat) : Task := { task [] with pend := [⟨p.1, [toS 3 5 0], 990, p.2.1, none, p.2.2, 0⟩] }
def walking : Core := { core { task [] with x := { x0 with ptb := 0x1000 } } with walk := some 0x40000000 }
def removing : Core := { core (task []) with fence := [.tlbi .all 0 0 1000], tlb := [page 0x10000 0x110000] }
def binding : Core := { core (task []) with fence := [.trarm 5 1 1000] }
def loading : Core := { core (task []) with half1 := .loading 1 0x40000000 16 1000 }

theorem witness_CoreEvents :
    ((runT flying).settledWatches ∧ (core flying).task = some flying ∧ toS 3 5 999 ∈ flying.flight ∧ 999 < (runT flying).cyc ∧
      (core flying).mops = []) ∧
    (∀ p ∈ [(PendSrc.cread 8, 999, some 995), (.cread 8, 999, none), (.ready, 999, none), (.cread 8, 1000, some 1000)],
      (core (pending p)).task = some (pending p) ∧ (pending p).pend =
        [⟨p.1, [⟨.s 3, (5 : Word).setWidth 2048, BitVec.allOnes 256, false, none, 0, 0⟩], 990, p.2.1, none, p.2.2, 0⟩]) ∧
    999 < (runT (pending (.ready, 999, none))).cyc ∧ 1000 ≤ (runT (pending (.cread 8, 1000, some 1000))).cyc ∧
    (runT (pending (.cread 8, 1000, some 1000))).cyc ≤ 1000 ∧
    (walking.walk = some 0x40000000 ∧ walking.ready ≤ (on walking).cyc ∧ (walk { on walking with mem := pages } 0x1000 0x40000000).isSome = true ∧
      walk (on walking) 0x1000 0x40000000 = none) ∧
    (removing.fence = [.tlbi .all 0 0 1000] ∧ 1000 ≤ (on removing).cyc) ∧ (binding.fence = [.trarm 5 1 1000] ∧ 1000 ≤ (on binding).cyc) ∧
    (loading.half0 = .holds (1 - 1) ∧ loading.half1 = .loading 1 0x40000000 16 1000 ∧ 1000 ≤ (on loading).cyc ∧ 16 ≤ 131072) :=
  ⟨⟨rfl, rfl, by simp [flying], by decide, rfl⟩, fun _ _ => ⟨rfl, rfl⟩, show 999 < 1000 by decide, show 1000 ≤ 1000 by decide,
    show 1000 ≤ 1000 by decide,
    ⟨rfl, by decide, by decide +kernel, by decide +kernel⟩, ⟨rfl, by decide⟩, ⟨rfl, by decide⟩, rfl, rfl, by decide, by decide⟩

def bank0 (m : BankMode) (n : Nat := 0) : Bank := ⟨m, none, none, List.replicate n RowCell.zero, false⟩
/-- A cluster whose only task waits for a counter, with bank 2 a full FIFO and the banks given; all others caches. -/
def fifoState (b : SMap Bank) : State :=
  { on { core (task []) with wait := some ⟨.cwait 4 9, 100, 99999, false⟩ } with
      cyc := 1124, banks := (2, bank0 .fifo 4096) :: b, relief := [(0, 100)] }
def addState (a : CtrAdd) (c : Core) : State := { on c with adds := [a], ctrs := [(a.i, 10)] }
def faulted : Task := { task [] with faults := [⟨6, 99⟩, ⟨7, 1⟩] }
def overlong : Task := { task [] with stated := 50 }

theorem witness_AsynchronousEvents :
    (let s := { run [] with reports := [⟨0, 7, 6, 99⟩] }
    s.settledWatches ∧ s.core 0 = core (task []) ∧ s.reports = [⟨0, (task []).uid, 6, 99⟩] ∧ (task []).faults.length < 8) ∧
    (faulted.faults = [⟨6, 99⟩, ⟨7, 1⟩] ∧ 6 ≠ 0x12 ∧ 6 < 256 ∧ faulted.x.sv = false ∧ faulted.x.tvec ≠ 0 ∧ faulted.iter = 0 ∧
      (core faulted).wait = none ∧ (core faulted).ready ≤ (runT faulted).cyc ∧ (core faulted).ended = false) ∧
    (overlong.iter = 0 ∧ overlong.runStart + overlong.stated < 1000 ∧ (core overlong).saved = [] ∧ (core overlong).todo = [] ∧ launch1.phase ≠ .reexec) ∧
    (∀ b ∈ [[(5, bank0 .reserve)], []], let s := fifoState b
      s.settledWatches ∧ (s.core 0).fifoWait = none ∧ (s.core 0).wait = some ⟨.cwait 4 9, 100, 99999, false⟩ ∧ 100 + 1024 ≤ s.cyc ∧ SMap.find s.relief 0 = some 100 ∧
        (∀ j, j < 8 → (j ≠ 0 → (s.core j).task = none) ∧ (s.core j).cq0 = [] ∧ (s.core j).cq1 = []) ∧
        (∀ j, j < 12 → ((s.bank (16 * 0 + j)).mode = .fifo ↔ j = 2)) ∧ fifoRoom s 2 ≤ (s.bank 2).fifo.length ∧
        (∀ j, j ≤ 5 → ((s.bank j).mode = .reserve ∧ (s.bank j).lent = none ↔ j = 5 ∧ b ≠ [])) ∧
        (b = [] → ∀ j, j < 12 → (s.bank j).mode ≠ .reserve)) ∧
    (let s := { fifoState [] with cyc := 1000, relief := [] }
    s.lost = false ∧ s.agenda = [] ∧ dueEvent s = none ∧ nextCore s = none) ∧
    (let c := { core faulted with wait := some ⟨.barg .cl 1 0 1, 940, 0, false⟩ }
    (on c).settledWatches ∧ (on c).core 0 = c ∧ c.task = some faulted ∧ faulted.faults = [⟨6, 99⟩, ⟨7, 1⟩] ∧
      c.wait = some ⟨.barg .cl 1 0 1, 940, 0, false⟩) ∧
    (∀ v ∈ [5, 2 ^ 64 - 10], let s := addState ⟨4, v, 0, 7, 999, 0, false⟩ (core (task [])); s.settledWatches ∧ s.adds = [⟨4, v, 0, 7, 999, 0, false⟩] ∧ 999 < s.cyc) ∧
    (let s := addState ⟨4, 5, 0, 7, 999, 2, false⟩ storing
    2 / 2 % 2 = 1 ∧ s.core 0 = storing ∧ storing.task = some (task []) ∧ (task []).uid = 7 ∧ storing.stores = [⟨0x100, [some 1], none, 990, false⟩] ∧ 990 < 999) :=
  ⟨⟨rfl, rfl, rfl, by decide⟩, ⟨rfl, by decide, by decide, rfl, by decide, rfl, rfl, by decide, rfl⟩,
    ⟨rfl, by decide, rfl, rfl, by decide⟩,
    both ⟨rfl, rfl, rfl, by and_intros <;> decide +kernel⟩ ⟨rfl, rfl, rfl, by and_intros <;> decide +kernel⟩,
    ⟨rfl, rfl, by decide +kernel, by decide +kernel⟩, ⟨rfl, rfl, rfl, rfl, rfl⟩,
    fun _ _ => ⟨rfl, rfl, show 999 < 1000 by decide⟩, by decide, rfl, rfl, rfl, rfl, by decide⟩

/-- A launch of which core 0 has one task to start, and one that holds its last task at END. -/
def startState : State := { on { Core.idle with todo := [(1, 2)] } with launches := [(1, launch1)] }
def back : Saved := ⟨task [(4, 8)], .barrier, 950, 950, some ⟨.barg .cl 1 0 1, 940, 0, true⟩, false, [], .holds 0, .empty, none, 0, 0, 0, []⟩
def arrived : Task := { task [] with arrived := [(.launch, 1), (.launch, 2)], bars := [⟨.launch, 2, 900, false⟩] }
def atBarrier (r : Nat) : Core := { core arrived with wait := some ⟨.barg .launch 1 0 2, r, 0, false⟩ }
def super1 : Launch := { launch1 with desc := { desc1 with super := true } }
def barrierState : State := { on (atBarrier 900) with cores := [(0, atBarrier 900), (9, atBarrier 950)], launches := [(1, super1)] }
def ending (t : Task) (x : Launch) (q : List (Nat × Queue)) : State :=
  { on { core t with ended := true } with launches := [(1, x)], fl := { State.reset.fl with queues := q } }
def ent0 (b : Nat) (st ran : Bool) (d : Option Nat) : WinEnt := ⟨0, b, st, ran, d, 0⟩
def queue0 (w : List WinEnt) : Queue := { Queue.start with state := .enabled, window := w }
def again : Launch := { launch1 with left := 0, marked := true, desc := { desc1 with dmode := true } }

theorem witness_TaskEvents :
    (startState.settledWatches ∧ startState.fl.holdD = false ∧ (∀ e ∈ startState.launches, e.2.phase ≠ .reexec) ∧ (startState.core 0).task = none ∧
      (startState.core 0).saved = [] ∧ (startState.core 0).todo = [(1, 2)] ∧ SMap.find startState.launches 1 = some launch1 ∧
      launch1.phase = .running ∧ launch1.only = none ∧ launch1.desc.trace = 0) ∧
    (let x := { launch1 with origin := .lnch 3 7 }; let s := { startState with launches := [(1, x)] }
    s.settledWatches ∧ (s.core 0).todo = [(1, 2)] ∧ SMap.find s.launches 1 = some x ∧ x.phase = .running ∧ x.origin = .lnch 3 7) ∧
    (let s := { on { Core.idle with saved := [back] } with launches := [(1, launch1)] }
    (s.core 0).task = none ∧ (s.core 0).saved = [back] ∧ (s.core 0).todo = [] ∧ (∀ w, back.wait = some w → w.met = true) ∧ back.task.pend = [] ∧
      (s.core 0).steps = [] ∧ (s.core 0).mops = [] ∧ back.task.ninth = none) ∧
    ((barrierState.cores.map Prod.fst).Nodup ∧ (barrierState.core 0).wait = some ⟨.barg .launch 1 (groupOf .launch 0) 2, 900, 0, false⟩ ∧
      (∀ j ∈ [0, 9], (barrierState.core j).saved = [] ∧ (barrierState.core j).todo = [] ∧ (barrierState.core j).cq0 = [] ∧
        (barrierState.core j).cq1 = [] ∧ (barrierState.core j).stores = [] ∧ ((barrierState.core j).task.map Task.pend) = some []) ∧
      barrierState.veils = [] ∧ barrierState.links = [] ∧ barrierState.ccache = [] ∧
      arrived.bars = [⟨.launch, 2, 900, false⟩] ∧ 2 ≤ arrived.arrived.countP (fun e => e.1 == .launch) ∧ super1.desc.super = true) ∧
    (∀ t ∈ [task [], { task [] with parent := some 3, spawnCtr := some 40 }], let s := ending t launch1 []
      (s.core 0).task = some t ∧ (s.core 0).ended = true ∧ t.faults = [] ∧ t.pend = [] ∧ t.flight = [] ∧ (s.core 0).stores = [] ∧
        (s.core 0).steps = [] ∧ (s.core 0).mops = [] ∧ t.traced = false ∧ t.logs = [] ∧ s.ccache = [] ∧ (∀ e ∈ s.cores, (e.2.task.map Task.parent) ≠ some (some t.uid) ∧ e.2.saved = []) ∧
        1 < launch1.left) ∧
    (let x := { launch1 with left := 1, ended := 7 }; let s := ending (task []) x [(0, queue0 [ent0 1 true true none])]
    SMap.find s.launches 1 = some x ∧ x.left = 1 ∧ x.phase = .running ∧ x.only = none ∧ x.marked = false ∧ x.fault = false ∧ x.again = false ∧
      x.origin = .packet 0 0 ∧ x.ctr = none ∧ s.banks = [] ∧ SMap.find s.fl.queues 0 = some (s.queue 0)) ∧
    (again.phase = .running ∧ again.only = none ∧ again.left = 0 ∧ again.desc.dmode = true ∧ again.marked = true ∧ again.again = false) :=
  ⟨⟨rfl, rfl, by simp [startState, launch1, Launch.new], rfl, rfl, rfl, rfl, rfl, rfl, rfl⟩, ⟨rfl, rfl, rfl, rfl, rfl⟩,
    ⟨rfl, rfl, rfl, by simp [back], rfl, rfl, rfl, rfl⟩, ⟨by decide, rfl, by decide, rfl, rfl, rfl, rfl, by decide, rfl⟩,
    both (by and_intros <;> first | rfl | decide) (by and_intros <;> first | rfl | decide),
    by and_intros <;> rfl, by and_intros <;> rfl⟩

/-! ## Witnesses: launches, queues, packets -/

/-- The machine in cycle 1,000 with nothing running. -/
def idle0 : State := { State.reset with up := true, cyc := 1000, uids := 50 }
def withQ (s : State) (x : Queue) : State := { s with fl := { s.fl with queues := [(0, x)] } }
/-- Page tables at 0x1000 such as Fleus builds (R174): the counters, the cluster's scratchpad and all scratchpads, each at its own
address. -/
def ownPages : SMap Byte :=
  [(0x1000, 1), (0x1001, 0x20), (0x27D0, 1), (0x27D1, 0x30), (0x27E0, 1), (0x27E1, 0x40), (0x27F0, 1), (0x27F1, 0x50),
   (0x3000, 1), (0x3001, 0x60), (0x4000, 1), (0x4001, 0x80), (0x5000, 0x1F), (0x5005, 0x7F), (0x6000, 1), (0x6001, 0x70)] ++
  ((List.range 8).flatMap fun i => [(0x7000 + 8 * i, 0x1F), (0x7002 + 8 * i, BitVec.ofNat 8 i), (0x7005 + 8 * i, 0x7D)]) ++
  (List.range 8).flatMap fun i => [(0x8000 + 8 * i, 0x1F), (0x8002 + 8 * i, BitVec.ofNat 8 (32 * i)), (0x8005 + 8 * i, 0x7E)]
/-- Byte `i` of a packet or descriptor set to `v`. -/
def putAt (i v : Nat) : Nat := v * 2 ^ (8 * i)
/-- The bytes of a number in memory. -/
def memOf (a v n : Nat) : SMap Byte := ((List.range n).map fun i => (a + i, BitVec.ofNat 8 (v / 256 ^ i))).filter fun e => e.2 != 0
/-- A variant of `desc1` as R297 lays it out. -/
def bytesOf (d : Desc) : Nat :=
  putAt 8 d.ilen + putAt 12 d.entry + putAt 16 d.ntask + putAt 20 d.stages + putAt 21 (d.dmode.toNat + 2 * d.gang.toNat) + putAt 22 d.cmask +
  putAt 24 d.budget.s + putAt 25 d.budget.h + putAt 26 d.budget.t + putAt 32 d.seed + putAt 40 d.tvec + putAt 48 d.arg
def waiting (d : Desc) : Launch := { launch1 with phase := .waiting, left := 0, desc := d, daddr := 0x9000 }
def launchState (d : Desc) : State :=
  withQ { idle0 with mem := ownPages.filter (fun e => e.2 != 0) ++ memOf 0x9000 (bytesOf d) 128, launches := [(1, waiting d)] } (queue0 [ent0 1 true true none])
/-- A relocation of each kind that does not fit. -/
def misfits : List Reloc := [⟨8, .word, 2 ^ 32⟩, ⟨8, .ldi, 2 ^ 44⟩, ⟨8, .ldi, -2 ^ 44 - 1⟩, ⟨8, .tensorBase, 32⟩]
/-- A launch of one task that has completed, its trace buffer at 0x40000200, mapped at itself. -/
def traced1 : Launch := { launch1 with phase := .complete, left := 0, desc := { desc1 with ntask := 1, trace := 0x40000200 }, tbase := [(0x4000, 0x40000000)], assign := [3] }
def ask : RelReq := ⟨3, 7, none, none, 0⟩
def watch1 : Watch := { Watch.start with bound := some 1, reqs := [ask] }
def relaunchState (st : Byte) : State :=
  { idle0 with mem := [(0x40000204, st)], launches := [(1, traced1)], watches := [(5, watch1)] }
def joinTask : Task := { task [] with x := { x0 with tix := 0 }, rerun := some 5, recs := [⟨8, 2, true, 0⟩] }
def joinRun : RelRun := ⟨ask, [⟨1, 2, false, [⟨9, 2, false, 0⟩]⟩], [0], []⟩
def joined1 : Launch := { traced1 with phase := .rerun, only := some [0], left := 1, desc := { desc1 with ntask := 2 } }
def joinState : State :=
  { runT joinTask with launches := [(1, joined1)], watches := [(5, { watch1 with run := some joinRun, reqs := [] })] }

theorem witness_LaunchEvents :
    (∀ d ∈ [desc1, { desc1 with dmode := true, seed := 5 }, { desc1 with gang := true, ntask := 513 }], let s := launchState d
      let es := (List.range 512).filter fun k => decide (s.partOf (k / 8) = 0) && d.cmask.testBit (k % 8)
      SMap.find s.launches 1 = some (waiting d) ∧ s.settledWatches ∧ s.lreqs = [] ∧ (waiting d).phase = .waiting ∧ (waiting d).origin = .packet 0 0 ∧
        descOf (littleEndian s.byte (waiting d).daddr 128) = some d ∧
        es.length = 512 ∧ (d.gang = true → es.length < d.ntask) ∧ d.banks = 0 ∧ d.trace = 0 ∧ d.dtag = 0 ∧ d.stages = 1 ∧ d.staget = 0 ∧
        d.nseg = 0 ∧ d.nbuf = 0 ∧ s.packet ⟨0, 0⟩ = some (ent0 1 true true none) ∧ (waiting d).lid = 1 ∧ s.banks = [] ∧ tablesOk s (BitVec.ofNat 64 (0x1000 % 2 ^ 52)) = true) ∧
    (∀ r ∈ misfits, (r.kind = .word ∧ 2 ^ 32 ≤ r.value) ∨ (r.kind = .ldi ∧ (r.value < -2 ^ 44 ∨ 2 ^ 44 ≤ r.value)) ∨
      (r.kind = .tensorBase ∧ r.value % 64 ≠ 0)) ∧ (∀ b, b % 16 < 12 → (State.reset.bank b).mode = .cache) ∧
    (∀ st ∈ [2, 3], let s := relaunchState st
      SMap.find s.launches 1 = some traced1 ∧ s.settledWatches ∧ (s.watch 5).bound = some 1 ∧ (s.watch 5).reqs = [ask] ∧ (s.watch 5).dirty = [] ∧
        traced1.phase = .complete ∧ traced1.desc.trace ≠ 0 ∧ s.cores = [] ∧ SMap.find traced1.tbase (traced1.desc.trace / 65536) = some 0x40000000 ∧
        s.byte (0x40000200 + 4) = st ∧ (s.byte (0x40000200 + 5)).toNat % 2 = 0 ∧
        traced1.desc.ntask = 1 ∧ traced1.desc.gang = false ∧ traced1.desc.banks = 0 ∧ s.partOf 0 = traced1.part ∧ traced1.desc.cmask.testBit 0 = true) ∧
    (let t := joinTask
    SMap.find joinState.launches 1 = some joined1 ∧ joined1.phase = .rerun ∧ joined1.only = some [0] ∧ 1 ∉ [0] ∧ 1 < joined1.desc.ntask ∧
      (joinState.core 0).task = some t ∧ t.lid = 1 ∧ t.x.tix = BitVec.ofNat 64 0 ∧ t.rerun.isSome = true ∧ t.recs = [⟨8, 2, true, 0⟩] ∧
      joinRun.old.find? (fun t => t.tix == 1) = some ⟨1, 2, false, [⟨9, 2, false, 0⟩]⟩ ∧ 9 < 8 + 2 ∧ 8 < 9 + 2 ∧
      joined1.desc.banks = 0 ∧ joined1.lid = 1) :=
  ⟨fun d hd => by
      simp only [List.mem_cons, List.not_mem_nil, or_false] at hd
      rcases hd with rfl | rfl | rfl <;> exact ⟨rfl, rfl, rfl, rfl, rfl, by decide +kernel, by decide +kernel, by decide +kernel, rfl, rfl, rfl, rfl, rfl, rfl, rfl, rfl, rfl, rfl, by decide +kernel⟩,
    by decide, fun b hb => by simp [State.bank, State.reset, Bank.start, hb],
    fun st hst => by
      simp only [List.mem_cons, List.not_mem_nil, or_false] at hst
      rcases hst with rfl | rfl <;>
        exact ⟨rfl, rfl, rfl, rfl, rfl, rfl, by decide, rfl, by decide, by decide, by decide, rfl, rfl, rfl, rfl, by decide⟩,
    rfl, rfl, rfl, by decide, by decide, rfl, rfl, rfl, rfl, rfl, rfl, by decide, by decide, rfl, rfl⟩

def off0 : Queue := { Queue.start with base := 0x10000 }
def on0 (w : List WinEnt) : Queue := { off0 with state := .enabled, window := w }
def posted (seq : Nat) : Queue := { on0 [] with pending := true, tail := 1, seq := seq }
/-- COUNTER_WAIT for counter 5 to reach 9. -/
def waitBytes : Nat := 0x06 + putAt 36 5 + putAt 38 9

theorem witness_FrontEnd :
    ((withQ idle0 off0).settledWatches ∧ ((withQ idle0 off0).queue 0).state = .disabled ∧ (0x40 : Word).toNat % 64 = 0 ∧ (0x41 : Word).toNat % 64 ≠ 0 ∧
      (0x75 : Word).toNat / 2 ^ 7 % 2 ^ 1 = 0 ∧ (0x75 : Word).toNat / 2 ^ 19 % 2 ^ 13 = 0 ∧ (0x75 : Word).toNat / 2 ^ 48 % 2 ^ 16 = 0 ∧ idle0.up = true ∧
      idle0.fl.cuffs = [] ∧ idle0.ioEarly = [] ∧ idle0.ioNext < idle0.ioNext + 1 ∧ ((withQ idle0 { off0 with state := .held }).queue 0).state = .held ∧ ((withQ idle0 off0).queue 0).state ≠ .enabled) ∧
    (let s := { withQ idle0 (posted 0) with mem := [(0x10000, 0x0C)] }
    littleEndian s.byte 0x10000 64 = 0x0C ∧ (s.queue 0).state = .enabled ∧ (s.queue 0).pending = true ∧ (s.queue 0).window = [] ∧
      (s.queue 0).tail = ((s.queue 0).head + 1) % 65536 ∧ 0x0C / 2 ^ 16 % 2 ^ 16 = (s.queue 0).seq ∧ 0x0C / 2 ^ 32 % 2 ^ 64 = 0) ∧
    (let s := { withQ idle0 (posted 4) with mem := [(0x10000, 0x0C)] }
    0x0C / 2 ^ 16 % 2 ^ 16 ≠ (s.queue 0).seq ∧ (s.queue 0).tail ≠ (s.queue 0).head % 65536 ∧ (s.queue 0).misses < 65535) ∧
    (∀ b ∈ [0x0C, 0x0D], let s := withQ idle0 (on0 [ent0 b false false none])
      s.fl.queues = [(0, s.queue 0)] ∧ (s.queue 0).state = .enabled ∧ (s.queue 0).window = [ent0 b false false none] ∧ b / 2 ^ 32 % 2 ^ 64 = 0 ∧
        b / 2 ^ 240 % 2 ^ 48 ≤ s.ctr (b / 2 ^ 224 % 2 ^ 16) ∧ (decodePacket ⟨0, 0⟩ b).isSome = decide (b = 0x0C)) ∧
    (∀ c ∈ [0, 6], let s := withQ idle0 (on0 [ent0 0x0C true true (some c)])
      (s.queue 0).window = [ent0 0x0C true true (some c)] ∧ (s.queue 0).state ≠ .faulted ∧ (s.queue 0).state ≠ .held) ∧
    (∀ v ∈ [8, 9], let s := { withQ idle0 (on0 [ent0 waitBytes true true none]) with ctrs := [(5, v)] }
      (s.queue 0).window = [ent0 waitBytes true true none] ∧ decodePacket ⟨0, 0⟩ waitBytes = some (.counterWait ⟨0, 0⟩ 5 9) ∧ s.ctr 5 = v) :=
  ⟨⟨rfl, rfl, by decide, by decide, by decide, by decide, by decide, rfl, rfl, rfl, by decide, rfl, by decide⟩,
    ⟨by decide, rfl, rfl, rfl, by decide, by decide, by decide⟩, ⟨by decide, by decide, by decide⟩,
    fun b hb => by
      simp only [List.mem_cons, List.not_mem_nil, or_false] at hb
      rcases hb with rfl | rfl <;> exact ⟨rfl, rfl, rfl, by decide, by decide, by decide +kernel⟩,
    fun c hc => by
      simp only [List.mem_cons, List.not_mem_nil, or_false] at hc
      rcases hc with rfl | rfl <;> exact ⟨rfl, by decide, by decide⟩,
    fun v hv => by
      simp only [List.mem_cons, List.not_mem_nil, or_false] at hv
      rcases hv with rfl | rfl <;> exact ⟨rfl, by decide +kernel, by decide⟩⟩

/-- Queue 0 with a packet that has started, and queue 9. -/
def packetState (b : Nat) (x : Queue := off0) : State :=
  { idle0 with fl := { idle0.fl with queues := [(0, on0 [ent0 b true false none]), (9, x)] } }
/-- A descriptor of four tasks. -/
def descBytes : Nat := putAt 0 0x1000 + putAt 8 16 + putAt 16 4 + putAt 20 1 + putAt 22 0xFF + putAt 24 8 + putAt 25 8 + putAt 26 4

/-- The packets that the witnesses of `Packets` decode, each with its bytes. -/
def packets : List (Nat × Instr) :=
  let p : PktRef := ⟨0, 0⟩
  [(0x0C, .nopPacket p), (0x05 + putAt 36 5 + putAt 38 9, .counterAdd p 5 9), (waitBytes, .counterWait p 5 9),
   (0x04 + putAt 36 0x1FFF9 + putAt 44 10 + putAt 52 7, .fill p 0x1FFF9 10 7),
   (0x03 + putAt 36 0x1FFF9 + putAt 44 0x30003 + putAt 52 10, .copy p 0x1FFF9 0x30003 10), (0x01 + putAt 36 0x4000, .launch p 0x4000 none),
   (0x02 + putAt 36 5, .relaunch p 5 none), (0x07 + putAt 36 5 + putAt 40 1, .traceArm p 5 1), (0x08 + putAt 36 5, .veilCal p 5),
   (0x09 + putAt 36 2 + putAt 40 0x4000 + putAt 48 1, .query p 2 0 0x4000 1),
   (0x0A + putAt 36 0x4000 + putAt 44 1 + putAt 45 2 + putAt 46 77, .tidWrite p 0x4000 1 2 77), (0x0B + putAt 36 9, .queueCtlEnable p 9),
   (0x0B + putAt 36 9 + putAt 37 1, .queueCtlDisable p 9), (0x0B + putAt 36 9 + putAt 37 2 + putAt 38 3, .queueCtlRehome p 9 3),
   (0x0B + putAt 36 9 + putAt 37 3, .queueCtlClear p 9)]

theorem packets_decode : ∀ e ∈ packets, decodePacket ⟨0, 0⟩ e.1 = some e.2 := by decide +kernel

/-- What the statement asks of the machine, of the packets' operands and of the queue that QUEUE_CTL names; every partition
addresses the pages of launch memory (`Config.outside` decides, and the statement's clauses on ranges ask it). -/
theorem witness_Packets :
    (∀ e ∈ packets, let s := packetState e.1
      s.settledWatches ∧ s.packet ⟨0, 0⟩ = some (ent0 e.1 true false none) ∧ decodePacket ⟨0, 0⟩ e.1 = some e.2 ∧ s.err = [] ∧ s.hbm.errs = [] ∧ s.hbm.lost = []) ∧
    (0x1FFF9 + 10 ≤ 0x00B400000000 ∧ 0x1FFF9 + 10 ≤ 0x30003 ∧ 0x4000 % 64 = 0) ∧ (descOf descBytes).isSome = true ∧
    ((descOf descBytes).map Desc.dtag) = some 0 ∧ littleEndian (State.byte { idle0 with mem := memOf 0x4000 descBytes 128 }) 0x4000 128 = descBytes ∧
    traced1.desc.trace ≠ 0 ∧ traced1.assign ≠ [] ∧ traced1.part = 0 ∧
    recordBad (BitVec.ofNat 768 (littleEndian (State.byte { idle0 with mem := memOf 0x4000 (rec1 0x10000 64).toNat 96 }) 0x4000 96)) = none ∧
    recordBad (BitVec.ofNat 768 (littleEndian idle0.byte 0x4000 96)) ≠ none ∧ ((packetState 0x0C).queue 9).window = [] ∧
    ((packetState 0x0C (on0 [ent0 0 true true none])).queue 9).window ≠ [] ∧
    (∀ st ∈ [QState.disabled, .enabled, .faulted, .held], ((packetState 0x0C { off0 with state := st }).queue 9).state = st ∧
      ((packetState 0x0C { off0 with state := st }).queue 9).cfg / 2 ^ 8 % 2 ^ 8 = 0) :=
  ⟨fun e he => ⟨rfl, rfl, packets_decode e he, rfl, rfl, rfl⟩, by decide, by decide +kernel, by decide +kernel, by decide +kernel, by decide, by decide,
    rfl, by decide +kernel, by decide +kernel, rfl, by decide, by decide⟩

/-! ## Witnesses: memory from outside, management, bundles -/

def windowed (flit : Bool) : State := { idle0 with fl := { idle0.fl with window := (0x40000000, 0x40000000), flit68 := flit } }
def dirtied : State := { idle0 with mem := [(512 * 7 + 3, 9)], hbm := { idle0.hbm with dirty := [7], data := [(512 * 7 + 3, 6)] } }
/-- Row 4 of bank 2 has just been refreshed, or no row at all since power-on. -/
def refreshable (r : SMap Nat) : State := { idle0 with cyc := 300000000, hbm := { idle0.hbm with refreshed := r } }
def fresh4 : State := refreshable [(2 * 2 ^ 32 + 4, 300000000)]
/-- The bank that the last beat's row of chunk 7 lies in. -/
def bank7 : Nat := rowOf (512 * 7 + 64 * 7) / 2 ^ 32
/-- A running copy that moves a byte of chunk 7. -/
def chunked (dm : Bool) : CopyOp := copyOp (.cpy .c0 1 2 pc1 noStep) .running fun o => { o with dm := dm, chunks := [7] }
theorem row_due {f : SMap Nat} {r : Nat} (h : SMap.get 0 (refreshable f).hbm.refreshed r = 0) :
    SMap.get 0 (refreshable f).hbm.refreshed r + 57600000 * 2 ^ (2 - (refreshable f).rowClass r) ≤ (refreshable f).cyc := by
  have := Nat.pow_le_pow_right (n := 2) (by decide) (Nat.sub_le 2 ((refreshable f).rowClass r))
  rw [h]; show _ ≤ 300000000; omega
theorem row_fresh {f : SMap Nat} {r : Nat} (h : SMap.get 0 (refreshable f).hbm.refreshed r = 300000000) :
    ¬ SMap.get 0 (refreshable f).hbm.refreshed r + 57600000 * 2 ^ (2 - (refreshable f).rowClass r) ≤ (refreshable f).cyc := by
  have := Nat.pow_pos (n := 2 - (refreshable f).rowClass r) (show 0 < 2 by decide)
  rw [h]; show ¬ _ ≤ 300000000; omega
theorem row_none {s : State} {r : Nat} (h : s.hbm.refreshed = []) (hc : s.cyc = 300000000) :
    SMap.get 0 s.hbm.refreshed r + 57600000 * 2 ^ (2 - s.rowClass r) ≤ s.cyc := by
  have := Nat.pow_le_pow_right (n := 2) (by decide) (Nat.sub_le 2 (s.rowClass r))
  rw [h, hc]; show 0 + _ ≤ _; omega
def flightOf (d p : Bool) : WbFlight := ⟨7, List.replicate 512 9, List.replicate 512 15, d, p⟩

theorem witness_MemorySystem :
    (∀ f ∈ [false, true], let s := windowed f
      s.settledWatches ∧ s.up = true ∧ s.fl.flit68 = f ∧ s.ioEarly = [] ∧ s.err = [] ∧ s.hbm.errs = [] ∧ s.fl.window.1 ≤ 0x40000000 ∧
      0x40000000 + 3 ≤ s.fl.window.1 + s.fl.window.2 ∧ (0x3FFFFFFF < s.fl.window.1) ∧ ([1, 2, 3] : List Byte) ≠ [] ∧ 0x3FFFFFFD + 3 ≤ s.fl.window.2 ∧
      s.fl.window.2 < 0x3FFFFFFE + 3 ∧ s.fl.window.1 + s.fl.window.2 ≤ 0x00B400000000 ∧ 0x00B3FFFFFFFD + 3 ≤ 0x00B400000000 ∧ 511 < 512 ∧
      511 ≠ s.devnum) ∧
    (7 ∈ dirtied.hbm.dirty ∧ dirtied.hbm.flight = [] ∧ dirtied.hbm.lost = [] ∧ dirtied.hbm.errs = []) ∧
    (∀ d ∈ [true, false], (flightOf d (!d)).data.length = 512 ∧ (flightOf d (!d)).delta.length = 512 ∧ (flightOf d (!d)).dataAck = d) ∧
    (let s := { idle0 with hbm := { idle0.hbm with lost := [8] } }
    s.hbm.lost = [(7 / 15 + 1 + 7 % 15) % 16] ∧ s.hbm.rebuilt = 0 ∧ s.err = [] ∧ s.hbm.parErr = [] ∧ s.hbm.flight = [] ∧ 7 ∉ s.hbm.dirty ∧ 512 * 7 < 0x00B400000000) ∧
    (15 < 16 ∧ idle0.hbm.lost = [] ∧ idle0.hbm.lostAt = none ∧
      (let s := { idle0 with launches := [(1, launch1)], hbm := { idle0.hbm with lost := [4] } }
      s.hbm.lost = [4] ∧ 4 ≠ 15 ∧ (s.launches.map Prod.fst).Nodup ∧ launch1.phase ≠ .complete)) ∧
    (let s := { idle0 with hbm := { idle0.hbm with lost := [0] } }
    s.hbm.lost = [0] ∧ s.fl.rebuild = true ∧ s.hbm.flight = [] ∧ s.hbm.rebuilt + 1 < 0x00B400000000 / 7680 ∧ 0 = s.hbm.rebuilt % 16) ∧
    (let due (s : State) (key : Nat) : Prop := SMap.get 0 s.hbm.refreshed key + 57600000 * 2 ^ (2 - s.rowClass key) ≤ s.cyc
    due fresh4 (2 * 2 ^ 32 + 3) ∧ ¬ due fresh4 (2 * 2 ^ 32 + 4) ∧
      (List.range 8).length = 8 ∧ (List.range 8).Pairwise (· < ·) ∧ ∀ dm ∈ [true, false], let o := chunked dm
      let s : State := { copying o with cyc := 300000000 }
      (∀ r ∈ List.range 8, r < 2 ^ 32 ∧ due s (bank7 * 2 ^ 32 + r)) ∧ s.settledWatches ∧ o.stage = .running ∧ o.dm = dm ∧ 7 ∈ o.chunks ∧ 7 < 8 ∧
        rowOf (512 * 7 + 64 * 7) / 2 ^ 32 = bank7 ∧ stackOf 7 = 8 ∧ (s.core 0).cq .c0 = [o]) ∧
    ((∀ p, (idle0.ring p).size = 0) ∧ 0x00B3FFFFFFFF < 0x00B400000000 ∧ stackOf (0x00B3FFFFFFFF / 512) ∉ idle0.hbm.lost ∧ 0x7F0000000000 + 4 * 2 ^ 28 - 1 < 0x7F0000000000 + 4 * 2 ^ 28) ∧
    (let ws : List Word := List.replicate 21 0x8000640200000000
    ws.length = 21 ∧ ∀ w ∈ ws, w.toNat / 2 ^ 63 = 1 ∧ w.toNat / 2 ^ 48 % 2 ^ 15 = 0 ∧ w.toNat / 2 ^ 40 % 2 ^ 8 ≤ 100 ∧ w.toNat / 2 ^ 32 % 2 ^ 8 ≤ 2) ∧
    (((run []).core 0).task = some (task []) ∧ 0 < 63 ∧ 63 < 64 ∧ 0x3FFFF < 0x40000) :=
  ⟨both ⟨rfl, rfl, rfl, rfl, rfl, rfl, by and_intros <;> decide⟩ ⟨rfl, rfl, rfl, rfl, rfl, rfl, by and_intros <;> decide⟩, ⟨by decide, rfl, rfl, rfl⟩, fun d _ => ⟨List.length_replicate, List.length_replicate, rfl⟩,
    ⟨rfl, rfl, rfl, rfl, rfl, by decide, by decide⟩, ⟨by decide, rfl, rfl, rfl, by decide, by decide, by decide⟩,
    ⟨rfl, rfl, rfl, by decide, by decide⟩, ⟨row_due rfl, row_fresh rfl, rfl, by decide, both
      ⟨fun r hr => ⟨by revert r; decide, row_none rfl rfl⟩, rfl, rfl, rfl, by decide, by decide, rfl, by decide, rfl⟩
      ⟨fun r hr => ⟨by revert r; decide, row_none rfl rfl⟩, rfl, rfl, rfl, by decide, by decide, rfl, by decide, rfl⟩⟩,
    ⟨fun _ => rfl, by decide, by decide, by decide⟩,
    ⟨rfl, fun w hw => by rw [List.eq_of_mem_replicate hw]; decide⟩, rfl, by decide, by decide, by decide⟩

def launches2 : SMap Launch := [(1, launch1), (2, { launch1 with lid := 2, part := 1 })]

/-- The module in reset with what the bring-up to come shows. -/
def down (b : BringUp) : State := { State.reset with fl := { Fleus.start with boot := b } }

/-- A module up in the cycle of its first power sample, at what a step of R374 has left. -/
def sampled (d : Nat) (a b c : Bool) : State :=
  { idle0 with cyc := 180000, fl := { idle0.fl with duty := d, spaced := a, halved := b, holdD := c } }

theorem witness_Management :
    (State.reset.fl.boot = ⟨true, true, none, false, [], []⟩ ∧ ∀ roms ∈ [[], [2]], ∀ asks ∈ [[], [LinkFeature.pooling]],
      (∀ b ∈ [(⟨true, true, none, false, roms, asks⟩ : BringUp), ⟨true, true, none, true, roms, asks⟩], let s := down b
        s.settledWatches ∧ s.up = false ∧ s.lost = false ∧ s.fl.boot.rsa = true ∧ s.fl.boot.slh = true ∧ s.fl.boot.fails = none) ∧
      (∀ k, let s := down ⟨true, true, some (k, 9), false, roms, asks⟩
        s.settledWatches ∧ s.up = false ∧ s.lost = false ∧ s.fl.boot.rsa = true ∧ s.fl.boot.slh = true ∧ s.fl.boot.fails = some (k, 9)) ∧
      ∀ b ∈ [(⟨false, true, none, false, roms, asks⟩ : BringUp), ⟨true, false, none, false, roms, asks⟩], let s := down b
        s.settledWatches ∧ s.up = false ∧ s.lost = false ∧ ¬ (s.fl.boot.rsa = true ∧ s.fl.boot.slh = true) ∧ s.fl.boot.fails = none) ∧
    (List.replicate 32 (1 : Byte)).length = 32 ∧
    ([] : List Byte).length ≠ 32 ∧ 511 ≤ 511 ∧ (∀ e ∈ idle0.launches, e.2.phase = .complete ∨ e.2.phase = .waiting) ∧
    (let s := { idle0 with launches := launches2 }
    (∃ e ∈ s.launches, e.2.part = 1 ∧ e.2.phase = .running) ∧ (∀ e ∈ s.launches, e.2.part = 2 → e.2.phase = .complete ∨ e.2.phase = .waiting) ∧
      (s.launches.map Prod.fst).Nodup ∧ launch1.part = 0 ∧ launch1.phase ≠ .complete ∧ SMap.find s.launches 2 = some { launch1 with lid := 2, part := 1 }) ∧
    (0x40000000 % 2 ^ 30 = 0 ∧ 0x40000000 + 64 * 2 ^ 30 ≤ 0x00B400000000 ∧ 0x20000000 % 2 ^ 30 ≠ 0) ∧ (idle0.ring 0).held = [] ∧
    (1500 ≤ 4400 ∧ 1499 < 1500) ∧ ([4000, 401, 0, 0, 0] : List (BitVec 16)).length = 5 ∧ ([1, 2, 3, 4] : List (BitVec 16)).length = 4 ∧
    idle0.cyc < idle0.fl.sampleAt ∧ idle0.fl.cap < ([4000, 401, 0, 0, 0] : List (BitVec 16)).foldl (fun n b => n + b.toNat) 0 ∧
    ([4000, 400, 0, 0, 0] : List (BitVec 16)).foldl (fun n b => n + b.toNat) 0 ≤ idle0.fl.cap ∧ 65535 ≤ 65535 ∧ 3 < 4 ∧
    ((∀ d a b c, let s := sampled d a b c
      s.settledWatches ∧ s.up = true ∧ s.fl.sampleAt ≤ s.cyc ∧ s.fl.cap < 65536 ∧ s.fl.duty = d ∧ s.fl.spaced = a ∧ s.fl.halved = b ∧
        s.fl.holdD = c) ∧ 4 < 16 ∧ 4 ≤ 4) ∧ (15 < 16 ∧ (idle0.launches.map Prod.fst).Nodup) ∧ idle0.lost = false ∧ idle0.agenda = [] :=
  ⟨⟨rfl, fun _ _ _ _ => ⟨both ⟨rfl, rfl, rfl, rfl, rfl, rfl⟩ ⟨rfl, rfl, rfl, rfl, rfl, rfl⟩, fun _ => ⟨rfl, rfl, rfl, rfl, rfl, rfl⟩,
      both ⟨rfl, rfl, rfl, by simp [down], rfl⟩ ⟨rfl, rfl, rfl, by simp [down], rfl⟩⟩⟩,
    by decide, by decide, by decide, by simp [idle0, State.reset],
    ⟨⟨_, List.mem_cons_of_mem _ List.mem_cons_self, rfl, rfl⟩, by decide, by decide, rfl, by decide, rfl⟩, ⟨by decide, by decide, by decide⟩, rfl,
    ⟨by decide, by decide⟩, rfl, rfl, by decide, by decide, by decide, by decide, by decide,
    ⟨fun _ _ _ _ => ⟨rfl, rfl, Nat.le_refl _, by show 4400 < 65536; decide, rfl, rfl, rfl, rfl⟩, by decide, by decide⟩, by decide, rfl, rfl⟩

/-- S and K present. -/
def headerSK (rep : BitVec 8) : Header := ⟨0x101, 0, rep, false, false, 0⟩
/-- ADD S3, S1, S2; KALU.ADD S33, S3, S1; TRAP 7: the words of R39 and R45, opcode in 63:56, the guard P0 below it, then the
registers from bit 45 down. -/
def addWord : Word := 0x0100608400000000
def kaluWord : Word := 0x3304218208000000
def trapWord : Word := 0x7000000000000007

/-- The header of a bundle of the slots of `present`. -/
def header (present quiet : BitVec 9) (rep : BitVec 8) : Header := ⟨present, quiet, rep, false, false, 0⟩
/-- V0 remembers a VIADD of T1[0] to T1[2], whose rows step by 1. -/
def again0 : Sticky := ⟨⟨false, 2⟩, .viadd .v0 ⟨0, false, 9, 1⟩ ⟨1, 2⟩ ⟨1, 0⟩ ⟨1, 1⟩, Cap.zero⟩
/-- V0 remembers a nop. -/
def idleV : Sticky := ⟨⟨true, 0⟩, .nop .v0, Cap.zero⟩
/-- A task at iteration `n` of its bundle whose slot V0 remembers `p`, with X.STATUS.STE as given. -/
def stuck (p : Sticky) (n : Nat) (ste : Bool) : Task :=
  { task [(1, 5), (2, 7)] with sticky := StickySet.only .v0 p, iter := n, x := { x0 with ste := ste } }

theorem witness_BundlesActTogether : Ready .v0 (.nop .v0) (run []) (see []) ∧ Ready .k (.nop .k) (run []) (see []) ∧
    (let s := [(1, 5), (2, 7)]; let m := see s
    ((run s).mach (run s).cur).map Mach.view = some m ∧ m.t.iter = 0 ∧ m.t.flow = Flow.none ∧ m.t.sticky = StickySet.quiet ∧ m.t.pend = [] ∧
      m.t.loops.straight m.t.pc ∧ (run s).settledWatches ∧ m.t.budget.s = 64 ∧ m.t.regs.sp = [] ∧ (∀ r, m.t.regs.spoison r = none) ∧
      (run s).catches) ∧
    (∀ rep ∈ [0, 2], (headerSK rep).present = 0x101 ∧ (headerSK rep).y = false ∧ (headerSK rep).b = false) ∧
    decSyl .s addWord.toNat = .ok (.add 3 1 2) ∧ decSyl .k kaluWord.toNat = .ok (.kalu 33 3 (.reg .add 1)) ∧
    decSyl .s trapWord.toNat = .ok (.trap 7) ∧ (see []).t.regs.guard (guardOf trapWord.toNat) = true ∧
    (slotOf (.add 3 1 2) = some .s ∧ guardOf addWord.toNat = ⟨false, 0⟩) ∧
    (∀ p ∈ [again0, idleV], ∀ n ste, let t := stuck p n ste; let m := seeT t
      ((runT t).mach (runT t).cur).map Mach.view = some m ∧ m.t.flow = Flow.none ∧ m.t.loops.straight m.t.pc ∧ (runT t).settledWatches ∧
        m.t.loadCount < 128 ∧ m.c.storeCount < 128 ∧ m.t.sticky = StickySet.only .v0 p ∧ m.t.iter = n ∧ m.t.x.ste = ste ∧
        (∀ a : Acting, a.pends m.t = false) ∧ ∀ a : Acting, a.meetsBusy m.c = false) ∧
    (∀ q ∈ [0, 2], ∀ rep ∈ [0, 2], ∀ n ∈ [1, 3], let h := header n q rep
      h.present = n ∧ h.quiet.getLsbD Slot.v0.ix = decide (q = 2) ∧ h.rep = rep ∧ h.y = false ∧ h.b = false) ∧
    (3 : BitVec 9) = 1 ||| (1 <<< Slot.v0.ix) ∧ Slot.sticky .v0 = true ∧ idleV.g = ⟨true, 0⟩ ∧ idleV.op = .nop .v0 ∧
    (vectorElem again0.op).isSome = true ∧ again0.op.wellFormed = true ∧
    (∀ n ste, (Acting.mk .v0 again0.g (stepRows again0.op) again0.cap false).poison (stuck again0 n ste).regs = none) ∧
    staticCheck ⟨64, 32, 24⟩ (stepRows again0.op) = none ∧ staticCheck ⟨64, 32, 24⟩ (.add 3 1 2) = none ∧
    (∀ w ∈ [0x1000020882187200], ∃ j, decSyl .v0 w = .ok j ∧ (vectorElem j).isSome = true) ∧ 0 < 1 ∧ 1 ≤ (2 : BitVec 8).toNat :=
  ⟨rdy (by decide), rdy (by decide), ⟨view_run _, rfl, rfl, rfl, rfl, ⟨by decide, by decide⟩, rfl, rfl, rfl, fun r => by
    unfold Regs.spoison; split <;> rfl, catches_run _⟩, by decide, by decide, by decide, by decide, by decide, ⟨by decide, rfl⟩,
    fun p _ n ste => ⟨view_of, rfl, ⟨(nomatch ·), (nomatch ·)⟩, rfl, Nat.zero_lt_succ _, Nat.zero_lt_succ _, rfl, rfl, rfl, fun _ => rfl, fun a => by
      unfold Acting.meetsBusy; exact List.any_eq_false.2 fun _ _ => Bool.false_ne_true⟩,
    by decide, rfl, rfl, rfl, rfl, by decide, by decide, fun _ _ => rfl, by decide, by decide, fun w hw => by
      simp only [List.mem_singleton] at hw; subst hw; exact ⟨_, rfl, by decide⟩, by decide, by decide⟩

theorem witness_IssueChangesNoMemory : let s := [(1, 0x10000), (2, 3)]
    slotOf (.st .d 2 1 0) = some .s ∧ Ready .s (.st .d 2 1 0) (runM s) (seeM s) ∧ Calm (seeM s) ∧ (seeM s).t.x.sv = false ∧
      (seeM s).t.x.tvec ≠ 0 ∧ (∀ x ∈ (runM s).cc 0, x.since = none) ∧ (∀ e ∈ (seeM s).c.l1, e.2.since = none) ∧
      (∀ b, ((runM s).bank b).back = false) ∧ (seeM s).t.parent = none ∧ (seeM s).t.traced = false ∧ (match exec (.st .d 2 1 0) (runM s) with
        | .next _ => true
        | _ => false) = true :=
  ⟨by decide, rdyM (by decide), calm_runM _, rfl, by decide, by decide, by decide, back_of, rfl, rfl, by decide +kernel⟩

end Sys2Proof.Tests
end

section
/-! SUPPORT. Opcodes outside the tables of R39 to R45 (R46): each slot class's decoder refuses them at the opcode's lowest bit, so a
bundle that holds one does not decode, and a bundle that does not decode traps ILL_BUNDLE instead of taking effect. -/

namespace Sys2Proof.Machine

/-! ## The tables -/

/-- The opcode field of a 64-bit word has nothing above it (R25). -/
theorem opOf_eq_div {w : Nat} (hw : w < 2 ^ 64) : opOf w = w / 2 ^ 56 := by
  unfold opOf fld
  omega

/-- The nop syllable's opcode is listed in every class, so the nop is never an unlisted opcode (R26). -/
theorem opOf_nopWord_mem_listedOpcodes (sl : Slot) : opOf nopWord ∈ listedOpcodes sl := by
  cases sl <;> decide

/-- The opcodes that R46 names as illegal in every class. -/
theorem zero_and_ff_notMem_listedOpcodes (sl : Slot) : 0x00 ∉ listedOpcodes sl ∧ 0xFF ∉ listedOpcodes sl := by
  cases sl <;> decide

/-- An unlisted opcode differs from each listed one: no case of a decoder for a listed opcode meets it. -/
theorem ne_of_notMem_listedOpcodes {sl : Slot} {n k : Nat} (h : n ∉ listedOpcodes sl) (hk : k ∈ listedOpcodes sl) : n ≠ k :=
  fun e => h (e ▸ hk)

/-! ## A syllable

In each decoder the default case, the last one, is what an unlisted opcode meets: every other case is about an opcode of its table. -/

/-- Slot V0 (R40). The cases of 0x0A to 0x0D, the tenth to thirteenth, refuse as the default does: V1 alone has those opcodes. -/
theorem decV_v0_unlisted {w : Nat} (h : opOf w ∉ listedOpcodes .v0) : decV .v0 w = .bad 56 := by
  unfold decV
  split
  rotate_right
  · rfl
  case h_10 | h_11 | h_12 | h_13 => rfl
  all_goals exact absurd ‹opOf w = _› (ne_of_notMem_listedOpcodes h (by decide))

/-- Slot V1 (R40). The cases of 0x60 to 0x62, the three before the default, refuse as it does: V0 alone has those opcodes. -/
theorem decV_v1_unlisted {w : Nat} (h : opOf w ∉ listedOpcodes .v1) : decV .v1 w = .bad 56 := by
  unfold decV
  split
  rotate_right 4
  iterate 4 · rfl
  all_goals exact absurd ‹opOf w = _› (ne_of_notMem_listedOpcodes h (by decide))

/-- R46 for a syllable: whatever its other fields hold, the opcode's lowest bit is what fails (R28). -/
theorem decSyl_unlisted {sl : Slot} {w : Nat} (h : opOf w ∉ listedOpcodes sl) : decSyl sl w = .bad 56 := by
  have hn : w ≠ nopWord := fun e => h (e ▸ opOf_nopWord_mem_listedOpcodes sl)
  unfold decSyl
  rw [if_neg hn]
  cases sl with
  | v0 => exact decV_v0_unlisted h
  | v1 => exact decV_v1_unlisted h
  | s | m | c0 | c1 | o | l | k =>
    delta decS decM decC decO decL decK
    dsimp only
    split
    rotate_right
    · rfl
    all_goals exact absurd ‹opOf w = _› (ne_of_notMem_listedOpcodes h (by decide))

/-! ## A bundle -/

/-- No bit fails exactly if no check fails. -/
theorem leastBit_eq_none_iff {es : List (Option Nat)} : leastBit es = none ↔ ∀ e ∈ es, e = none := by
  induction es with
  | nil => simp [leastBit]
  | cons e es ih =>
    cases e with
    | none => simp [leastBit, ih]
    | some b =>
      have hb : leastBit (some b :: es) ≠ none := by
        unfold leastBit
        split <;> exact Option.some_ne_none _
      simp [hb]

/-- Where no syllable fails, each present one decodes. -/
theorem decSyl_ok_of_firstBad_eq_none {i : Nat} {sls : List Slot} {ws : List Word} (h : firstBad i sls ws = none) {n : Nat}
    {sl : Slot} {w : Word} (hs : sls[n]? = some sl) (hw : ws[n]? = some w) : ∃ j, decSyl sl w.toNat = .ok j := by
  induction sls generalizing i ws n with
  | nil => simp at hs
  | cons sl₀ sls ih =>
    cases ws with
    | nil => simp at hw
    | cons w₀ ws =>
      unfold firstBad at h
      split at h
      next j hj =>
        cases n with
        | zero =>
          obtain rfl : sl₀ = sl := by simpa using hs
          obtain rfl : w₀ = w := by simpa using hw
          exact ⟨j, hj⟩
        | succ n => exact ih h (by simpa using hs) (by simpa using hw)
      next => exact absurd h (Option.some_ne_none _)

/-- A bundle that decodes has a header none of whose own checks fails, and no syllable that fails (R24, R28). -/
theorem checks_of_decodeBundle_ok {h : Word} {rest : List Word} {len : Nat} {i : Instr} (hd : decodeBundle (h :: rest) = .ok len i) :
    (∀ e ∈ headerErrs h.toNat, e = none) ∧ firstBad 1 (presentSlots (headerOf h.toNat).present) rest = none := by
  unfold decodeBundle at hd
  dsimp only at hd
  split at hd
  next => cases hd
  next hl =>
    have he := leastBit_eq_none_iff.mp hl
    split at hd
    next => cases hd
    next hf => exact ⟨fun e m => he e (.tail _ (.tail _ m)), hf⟩

/-- The header of a bundle that decodes carries the tag 1101 in bits 63:60 (R23). -/
theorem headerTag_of_decodeBundle_ok {h : Word} {rest : List Word} {len : Nat} {i : Instr}
    (hd : decodeBundle (h :: rest) = .ok len i) : fld h.toNat 60 4 = 0b1101 := by
  have ht : need (fld h.toNat 60 4 == 0b1101) 60 = none := (checks_of_decodeBundle_ok hd).1 _ (.head _)
  simpa [need] using ht

/-- Each syllable of a bundle that decodes has an opcode that its slot's table lists (R46). -/
theorem listed_of_decodeBundle_ok {h : Word} {rest : List Word} {len : Nat} {i : Instr} (hd : decodeBundle (h :: rest) = .ok len i)
    {n : Nat} {sl : Slot} {w : Word} (hs : (presentSlots (headerOf h.toNat).present)[n]? = some sl) (hw : rest[n]? = some w) :
    w.toNat / 2 ^ 56 ∈ listedOpcodes sl := by
  refine Decidable.byContradiction fun hn => ?_
  obtain ⟨j, hj⟩ := decSyl_ok_of_firstBad_eq_none (checks_of_decodeBundle_ok hd).2 hs hw
  rw [decSyl_unlisted (opOf_eq_div w.isLt ▸ hn)] at hj
  cases hj

/-- R46 for a bundle: one with an unlisted opcode in any of its slots, or with a zeroed or erased header, does not decode. -/
theorem decodeBundle_bad_of_unlisted {h : Word} {rest : List Word}
    (hb : (∃ (n : Nat) (sl : Slot) (w : Word), (presentSlots (headerOf h.toNat).present)[n]? = some sl ∧ rest[n]? = some w ∧
      w.toNat / 2 ^ 56 ∉ listedOpcodes sl) ∨ h = 0 ∨ h = BitVec.allOnes 64) :
    ∃ syl bit, decodeBundle (h :: rest) = .bad syl bit := by
  cases hd : decodeBundle (h :: rest) with
  | bad syl bit => exact ⟨syl, bit, rfl⟩
  | ok len i =>
    obtain ⟨n, sl, w, hs, hw, hn⟩ | rfl | rfl := hb
    · exact absurd (listed_of_decodeBundle_ok hd hs hw) hn
    · exact absurd (headerTag_of_decodeBundle_ok hd) (by decide)
    · exact absurd (headerTag_of_decodeBundle_ok hd) (by decide)

/-! ## A step that meets such a bundle -/

/-- In its turn a core's bundle is what the step is about. -/
theorem Turn.step_eq {s : State} {k : Nat} (h : Turn s k) : step s = stepCore s k := by
  simp [step, h.alive, h.agenda, h.idle, h.turn]

/-- A bundle that is fetched whole and does not decode makes the core take ILL_BUNDLE (R28). -/
theorem stepCore_illBundle {s : State} {k syl bit : Nat} {m : Mach} (hm : s.mach k = some m) (hh : m.c.half m.t.pc ≠ .empty)
    (hf : fetchBad m.c m.t.pc (bundleLen (wordsAt m.c m.t.pc)) = false) (hd : decodeBundle (wordsAt m.c m.t.pc) = .bad syl bit) :
    stepCore s k = answer (some (illBundle m syl bit)) := by
  simp [stepCore, hm, hh, hf, hd]

/-- An undecodable bundle's trap is delivered to a user-mode task with a handler, and nothing but its core changes (R20, R28,
R321). -/
theorem step_delivers_illBundle {s : State} {k syl bit : Nat} {m : Mach} (ht : Turn s k) (hw : s.settledWatches)
    (hm : s.mach k = some m) (hh : m.c.half m.t.pc ≠ .empty) (hf : fetchBad m.c m.t.pc (bundleLen (wordsAt m.c m.t.pc)) = false)
    (hd : decodeBundle (wordsAt m.c m.t.pc) = .bad syl bit) (hu : m.t.x.sv = false) (hv : m.t.x.tvec ≠ 0) :
    ∃ c t, step s = .next { s with cur := k, cores := SMap.put s.cores k c } ∧ c.task = some t ∧
      (m.t.landFlight s.cyc).Entered t s.cyc Cause.illBundle (natW (syl + bit * 2 ^ 8)) ∧ c.ready = s.cyc + 3 := by
  obtain ⟨hs, -, -⟩ := mach_cur (s := { s with cur := k }) hm
  obtain ⟨c, t, hk, hc, he, hr, -⟩ :=
    takeTrap_delivers (cause := Cause.illBundle) (info := natW (syl + bit * 2 ^ 8)) hu hv (by decide)
  rw [hs] at hk he hr
  refine ⟨c, t, ?_, hc, he, hr⟩
  rw [ht.step_eq, stepCore_illBundle hm hh hf hd, illBundle, hk]
  exact answer_some hw

/-- Settles O2: a decoder's cases are the listed opcodes, a bundle that decodes passed every check, and one that does not decode
is trapped. -/
theorem unlistedOpcodesAreIllegal : Obligations.UnlistedOpcodesAreIllegal := by
  unfold Obligations.UnlistedOpcodesAreIllegal
  refine ⟨fun sl w hw hn => decSyl_unlisted (opOf_eq_div hw ▸ hn), zero_and_ff_notMem_listedOpcodes, ?_⟩
  intro s k m h rest ht hw hm hh hf hu hv hws hb
  obtain ⟨syl, bit, hd⟩ := decodeBundle_bad_of_unlisted (rest := rest) hb
  obtain ⟨c, t, hstep⟩ := step_delivers_illBundle ht hw hm hh hf (hws ▸ hd) hu hv
  exact ⟨c, t, _, hstep⟩

end Sys2Proof.Machine
end

section
/-! SUPPORT. Bit fields as the scalar operations cut and insert them (R61), division with its trap on zero (R60), and the two ways in
which a scalar operation gives its result to Sd: exposed (R33) or pending (R36). -/

namespace Sys2Proof.Machine

/-! ## Bits of a field (R5, R61) -/

/-- A field holds the bits from its lowest on, and zeros above its length. -/
theorem testBit_field (w lo len j : Nat) : (field w lo len).testBit j = (decide (j < len) && w.testBit (lo + j)) := by
  simp [field, Nat.testBit_mod_two_pow, Nat.testBit_div_two_pow, Nat.add_comm]

/-- A number cut at the two ends of a field. -/
theorem eq_above_field_below (old pos w : Nat) :
    2 ^ pos * (2 ^ w * (old / 2 ^ pos / 2 ^ w) + field old pos w) + old % 2 ^ pos = old := by
  rw [field, Nat.div_add_mod, Nat.div_add_mod]

/-- Replacing a field by subtracting its old content and adding its new one leaves what stands above and below it as it was. -/
theorem replace_field_eq (old new pos w : Nat) :
    old - field old pos w * 2 ^ pos + new * 2 ^ pos =
      2 ^ pos * (2 ^ w * (old / 2 ^ pos / 2 ^ w) + new) + old % 2 ^ pos := by
  have hold := eq_above_field_below old pos w
  generalize field old pos w = f, 2 ^ w * (old / 2 ^ pos / 2 ^ w) = top at hold ⊢
  rw [Nat.mul_add, Nat.mul_comm _ f] at hold
  rw [Nat.mul_add, Nat.mul_comm _ new]
  omega

/-- Bit by bit: inside the field a number with a replaced field has the new bits, elsewhere its own. -/
theorem testBit_replace_field (old a pos w j : Nat) :
    (old - field old pos w * 2 ^ pos + field a 0 w * 2 ^ pos).testBit j =
      if pos ≤ j ∧ j < pos + w then a.testBit (j - pos) else old.testBit j := by
  have hnew : field a 0 w < 2 ^ w := Nat.mod_lt _ (Nat.two_pow_pos w)
  have hlow : old % 2 ^ pos < 2 ^ pos := Nat.mod_lt _ (Nat.two_pow_pos pos)
  rw [replace_field_eq, Nat.testBit_two_pow_mul_add _ hlow]
  by_cases hbelow : j < pos
  · rw [if_pos hbelow, if_neg (by omega), Nat.testBit_mod_two_pow, decide_eq_true hbelow, Bool.true_and]
  · rw [if_neg hbelow, Nat.testBit_two_pow_mul_add _ hnew]
    by_cases hin : j - pos < w
    · rw [if_pos hin, if_pos (by omega), testBit_field, decide_eq_true hin, Bool.true_and, Nat.zero_add]
    · rw [if_neg hin, if_neg (by omega), Nat.testBit_div_two_pow, Nat.testBit_div_two_pow]
      congr 1
      omega

/-- The field that a descriptor names, in the terms of R61: bits 5:0 give its low bit, bits 13:8 its width less 1. -/
theorem fieldPos_eq (b : Word) : fieldPos b = (b.toNat % 64, Nat.min (b.toNat % 64 + b.toNat / 256 % 64) 63) := by
  simp [fieldPos, field]

/-- BEXT, bit by bit (R61). -/
theorem getLsbD_bextW {a b : Word} {pos hi j : Nat} (hb : fieldPos b = (pos, hi)) (hj : j < 64) :
    (bextW a b).getLsbD j = (decide (pos + j ≤ hi) && a.getLsbD (pos + j)) := by
  have hlen : j < hi + 1 - pos ↔ pos + j ≤ hi := by omega
  simp only [bextW, hb, BitVec.getLsbD_ofNat, hj, testBit_field, BitVec.testBit_toNat, hlen, decide_true, Bool.true_and]

/-- BINS, bit by bit (R61). -/
theorem getLsbD_binsW {old a b : Word} {pos hi j : Nat} (hb : fieldPos b = (pos, hi)) (hj : j < 64) :
    (binsW old a b).getLsbD j = if pos ≤ j ∧ j ≤ hi then a.getLsbD (j - pos) else old.getLsbD j := by
  have hlen : (pos ≤ j ∧ j < pos + (hi + 1 - pos)) ↔ (pos ≤ j ∧ j ≤ hi) := by omega
  simp only [binsW, hb, BitVec.getLsbD_ofNat, hj, testBit_replace_field, BitVec.testBit_toNat, hlen, decide_true, Bool.true_and]

/-! ## An exposed result in Sd -/

/-- Putting a result in flight to a scalar decides nothing about control and adds no load or store. -/
theorem Act.calm_flyS (lat d : Nat) (v : Word) (m : Mach) : Act.calm (fun n => n.flyS lat d v) m :=
  ⟨rfl, rfl, rfl, id, rfl, Nat.le_succ _, Nat.le_succ _⟩

/-- An operation whose meaning is an exposed scalar result completes with that result in flight and no other effect. -/
theorem Ready.completes_okS {sl : Slot} {i : Instr} {s : State} {m : Mach} {lat : Nat} {d : SReg} {v : Word} (h : Ready sl i s m)
    (hx : exec i s = issueOne sl i s) (hw : isWait i = false) (he : isEret i = false)
    (hsem : opSem ⟨m, m.t.pc, 2, true, capture0 m.t.regs i⟩ i = okS lat d v) :
    Completes sl i s m fun n => n.onT fun t => t.fly (inFlight m lat d.toNat v) :=
  h.completes (f := fun n => n.flyS lat d.toNat v) hx hw he hsem (Act.calm_flyS ..)

/-- Settles O17: the field that the descriptor names, and the bits of what BEXT and BINS make of it. -/
theorem bitFieldOperations : Obligations.BitFieldOperations := by
  unfold Obligations.BitFieldOperations
  intro s m d a b
  have hb := fieldPos_eq (m.t.regs.sreg b.toNat)
  exact ⟨fun h => ⟨_, h.completes_okS (exec_bext s) rfl rfl (opSem_bext _), fun _ hj => getLsbD_bextW hb hj⟩,
    fun h => ⟨_, h.completes_okS (exec_bins s) rfl rfl (opSem_bins _), fun _ hj => getLsbD_binsW hb hj⟩⟩

/-! ## Division (R60) -/

/-- An operand as the signedness of its operation reads it (R59, R60). -/
def operandInt (u : Bool) (w : Word) : Int := if u then w.toNat else w.toInt

/-- The quotient is rounded toward zero. -/
theorem divW_eq_ofInt_tdiv (u : Bool) (a b : Word) : divW u a b = BitVec.ofInt 64 ((operandInt u a).tdiv (operandInt u b)) := by
  cases u with
  | false => rfl
  | true => exact (BitVec.ofInt_natCast 64 _).symm

/-- The remainder is the dividend less the divisor times the quotient, so that it has the dividend's sign. -/
theorem remW_eq_ofInt_sub (u : Bool) (a b : Word) :
    remW u a b = BitVec.ofInt 64 (operandInt u a - operandInt u b * (operandInt u a).tdiv (operandInt u b)) := by
  rw [← Int.tmod_def]
  cases u with
  | false => rfl
  | true => exact (BitVec.ofInt_natCast 64 _).symm

/-- What DIV and REM do with a divisor other than zero: Sd is pending for at most 20 cycles (R36, log 10). -/
def pendDivision (d : SReg) (v : Word) : Act := fun n =>
  n.fresh.2.pendS .calc (1 + Config.divLatency n.fresh.1 % 20) d.toNat v

theorem divRem_zero {x : Ctx} {b : SReg} (d : SReg) (v : Word) (hb : x.s b = 0) : divRem x d b v = .trap Cause.divZero 0 :=
  if_pos hb

theorem divRem_nonzero {x : Ctx} {b : SReg} (d : SReg) (v : Word) (hb : x.s b ≠ 0) (hf : x.m.loadsFull = false) :
    divRem x d b v = .ok (pendDivision d v) := by
  unfold divRem
  rw [if_neg hb, hf]
  rfl

/-- A pending quotient counts as one load and decides nothing about control. -/
theorem Act.calm_pendDivision (d : SReg) (v : Word) (m : Mach) : (pendDivision d v).calm m := by
  refine ⟨rfl, rfl, rfl, id, rfl, ?_, Nat.le_succ _⟩
  show (m.t.pend ++ [_]).countP _ ≤ m.t.pend.countP _ + 1
  rw [List.countP_append]
  exact Nat.add_le_add_left List.countP_le_length _

/-- A core below its limit of loads has room for one more pending result (R242). -/
theorem Ready.loadsFull_eq_false {sl : Slot} {i : Instr} {s : State} {m : Mach} (h : Ready sl i s m) : m.loadsFull = false :=
  decide_eq_false (Nat.not_le.mpr h.room.1)

/-- R60 for an operation that is a division with result `v`: on a zero divisor it traps, else `v` is pending in Sd, due within 20
cycles, and nothing else of the task, the core or the machine changes. -/
theorem Ready.divRem_spec {sl : Slot} {i : Instr} {s : State} {m : Mach} {d b : SReg} {v : Word} (h : Ready sl i s m)
    (hx : exec i s = issueOne sl i s) (hw : isWait i = false) (he : isEret i = false)
    (hsem : opSem ⟨m, m.t.pc, 2, true, capture0 m.t.regs i⟩ i = divRem ⟨m, m.t.pc, 2, true, capture0 m.t.regs i⟩ d b v) :
    (m.t.regs.sreg b.toNat = 0 → s.catches → Delivers i s Cause.divZero 0) ∧
    (m.t.regs.sreg b.toNat ≠ 0 → Finishes i s m fun n => ∃ k, 1 ≤ k ∧ k ≤ 20 ∧
      n.t = { (m.present sl i).t with seq := m.t.seq + 1, pend := m.t.pend ++
        [⟨.calc, [{ inFlight m 0 d.toNat v with due := 0 }], s.cyc, s.cyc + k, none, none, m.t.seq⟩] } ∧
      n.c = (m.present sl i).c ∧ ∃ f, n.s = { m.s with fresh := f }) := by
  constructor
  · intro hb hc
    exact issueOne_delivers h hc hx (by decide) (by decide) (hsem.trans (divRem_zero d v hb))
  · intro hb
    have hok := hsem.trans (divRem_nonzero d v hb h.loadsFull_eq_false)
    refine h.finishes hx hw he hok (Act.calm_pendDivision ..)
      ⟨1 + Config.divLatency m.s.fresh % 20, by omega, by omega, ?_, rfl, m.s.fresh + 1, rfl⟩
    rw [← h.cyc]
    rfl

/-- Settles O18: DIV and REM are one division, with the quotient or the remainder as its result. -/
theorem divisionAndRemainder : Obligations.DivisionAndRemainder := by
  unfold Obligations.DivisionAndRemainder
  intro s m u q d a b
  cases q with
  | true => exact fun h => divW_eq_ofInt_tdiv u _ _ ▸ h.divRem_spec (exec_div s) rfl rfl (opSem_div _)
  | false => exact fun h => remW_eq_ofInt_sub u _ _ ▸ h.divRem_spec (exec_rem s) rfl rfl (opSem_rem _)

end Sys2Proof.Machine
end
